-- ==== Sys2Proof/Word.lean ====
section
/-! DEFINITION. The word types of the Mesalto 2408 and their plainest arithmetic. -/

namespace Sys2Proof

/-- One byte of a notice or of the configuration image; bit 7 is the most significant (0-9). -/
abbrev Byte := BitVec 8

/-- A subscriber line, 0 to 7 (0-9). -/
abbrev Line := Fin 8

/-- A slot of the ring cycle, or an offset in it, 0 to 7 (0-9). -/
abbrev Slot := Fin 8

/-- A set of slots of the cycle: bit s stands for slot s (R164). -/
abbrev SlotSet := BitVec 8

/-- A set of lines: bit n stands for line n (R164). -/
abbrev LineSet := BitVec 8

/-- The address of a line station's entry in the load view, 0 to 23 (R17). -/
abbrev PeerAddr := Fin 24

/-- A bus address, 0 to 63 (R130). -/
abbrev Station := BitVec 6

/-- Eight per-slot loads in ringer units, slot 0 first (R15, R18). -/
abbrev Totals := Vector Nat 8

/-- A completed digit, 0 to 9 (R108). -/
abbrev Digit := Fin 10

/-- The set that holds exactly one line. -/
def LineSet.single (n : Line) : LineSet := BitVec.twoPow 8 n.val

end Sys2Proof
end

