-- ==== Sys2Proof/Syntax.lean ====
section
/-! DEFINITION. The commands: one constructor for each row of spec/opcode_table.json. -/

namespace Sys2Proof

/-- What a receiver hands on at the completion of a valid notice beside its kind: class, sender address and payload (R143). -/
structure Notice where
  /-- Class, 0 to 3: the two high bits of the arbitration byte (R130). -/
  cls : BitVec 2
  /-- Sender's address, 0 to 63: the six low bits of the arbitration byte (R130). -/
  sender : Station
  /-- Payload, byte 0 first (R130, R164). -/
  payload : List Byte
  deriving DecidableEq, Repr

/-- What the configuration memory gave in the one transfer of R168. -/
inductive MemoryAnswer where
  /-- An answer bit was read high: the memory has not answered (R168). -/
  | silent
  /-- The 48 bytes of the image, byte 0 first (R168). -/
  | image (bytes : List Byte)
  deriving DecidableEq, Repr

/-- The commands of the block. Each is one indivisible step of 95_what_each_step_holds.md. -/
inductive Instr where
  /-- RESET (R166): the full reset ends, with these levels on AD0 to AD4, L8 and CFGP. -/
  | reset (address : BitVec 5) (l8 cfgp : Bool)
  /-- END_OF_LOADING (R172), with what the memory answered; not looked at with CFGP low (R166). -/
  | endOfLoading (answer : MemoryAnswer)
  /-- SLOT_END (R1). -/
  | slotEnd
  /-- CYCLE_MARKER (R3). -/
  | cycleMarker
  /-- MARKER_WINDOW_OPENS (R7). -/
  | markerWindowOpens
  /-- MARKER_WINDOW_CLOSES (R7). -/
  | markerWindowCloses
  /-- MARKER_LOST (R8). -/
  | markerLost
  /-- ZERO_CROSS_MARK (R10). -/
  | zeroCrossMark
  /-- ZC_LOST (R11). -/
  | zcLost
  /-- DEAD_TIME_TO_RING (R68) of a line. -/
  | deadTimeToRing (n : Line)
  /-- DEAD_TIME_TO_FEED (R71) of a line. -/
  | deadTimeToFeed (n : Line)
  /-- ZC_WAIT_TIMEOUT (R68) of a line. -/
  | zcWaitTimeout (n : Line)
  /-- RING_EXPIRY (R61) of a line. -/
  | ringExpiry (n : Line)
  /-- RING_DEFERRAL (R62) of a line. -/
  | ringDeferral (n : Line)
  /-- ENTRY_AGED_OUT (R23) of the entry of an address. -/
  | entryAgedOut (a : PeerAddr)
  /-- LISTEN_PERIOD_END (R138). -/
  | listenPeriodEnd
  /-- ISLANDED_PERIOD_END (R137). -/
  | islandedPeriodEnd
  /-- WINDOW_END (R84). -/
  | windowEnd
  /-- RING_TRIP (R74) of a line. -/
  | ringTrip (n : Line)
  /-- LEAK_ON (R93) of a line. -/
  | leakOn (n : Line)
  /-- LEAK_OFF (R94) of a line. -/
  | leakOff (n : Line)
  /-- SEIZE_CONFIRM (R102) of a line. -/
  | seizeConfirm (n : Line)
  /-- GLITCH_LIMIT_REACHED (R122) by the break of a line. -/
  | glitchLimitReached (n : Line)
  /-- CLEAR (R106) of a line. -/
  | clear (n : Line)
  /-- INTERDIGIT_MAKE (R108) of a line. -/
  | interdigitMake (n : Line)
  /-- PERMANENT_LOOP (R111) of a line. -/
  | permanentLoop (n : Line)
  /-- STUTTER_ADVANCE (R125) of a line. -/
  | stutterAdvance (n : Line)
  /-- ATTEMPT_START (R132). -/
  | attemptStart
  /-- ARBITRATION_LOSS (R133), with the arbitration byte as this station read it. -/
  | arbitrationLoss (winner : Byte)
  /-- CLASH (R134). -/
  | clash
  /-- ISLANDING (R136). -/
  | islanding
  /-- OWN_NOTICE_COMPLETION (R135). -/
  | ownNoticeCompletion
  /-- CLAIM_RECEIVED (R21). -/
  | claimReceived (w : Notice)
  /-- RELEASE_RECEIVED (R21). -/
  | releaseReceived (w : Notice)
  /-- REFRESH_RECEIVED (R20). -/
  | refreshReceived (w : Notice)
  /-- RING_ORDER (R159). -/
  | ringOrder (w : Notice)
  /-- CANCEL (R57). -/
  | cancel (w : Notice)
  /-- TONE_ORDER (R126). -/
  | toneOrder (w : Notice)
  /-- MODE_ORDER (R114). -/
  | modeOrder (w : Notice)
  /-- QUERY (R160). -/
  | query (w : Notice)
  /-- REPORT_NOTICE_HEARD (R157): a notice of this kind is heard and ignored. -/
  | reportNoticeHeard (kind : BitVec 4) (w : Notice)
  /-- NOTICE_INVALID (R143). -/
  | noticeInvalid
  /-- RECEIVE_FRAMING_ERROR (R142). -/
  | receiveFramingError
  /-- RECEIVER_IDLE (R146). -/
  | receiverIdle
  /-- BUS_HELD (R140). -/
  | busHeld
  /-- BUS_HELD_CLEAR (R140). -/
  | busHeldClear
  /-- START_EDGE (R141): whether the wire is dominant at sample 8, and, when it is, the byte then taken by R129. A byte whose
  stop bit is not recessive is followed by RECEIVE_FRAMING_ERROR. -/
  | startEdge (dominantAtSample8 : Bool) (byte : Byte)
  /-- SENSE_PULSE_EDGE (R82) on SNSn. -/
  | sensePulseEdge (n : Line)
  /-- RESET_ASSERTED (R146). -/
  | resetAsserted
  deriving DecidableEq, Repr

end Sys2Proof
end

