-- ==== Sys2Proof/WellFormed.lean ====
section
/-! DEFINITION. Which commands stand for an event that the spec describes. `exec` answers for every command, well formed
or not; these checks say which operands can occur. -/

namespace Sys2Proof

/-- A notice payload holds 0 to 12 bytes (R130). -/
def Notice.lengthOk (w : Notice) : Bool := w.payload.length ≤ 12

/-- The sender is a line station, at address 0 to 23 (0-8). -/
def Notice.fromLineStation (w : Notice) : Bool := w.sender.toNat ≤ 23

/-- The sender is a control station, at address 48 to 55 (0-8). -/
def Notice.fromControlStation (w : Notice) : Bool := 48 ≤ w.sender.toNat && w.sender.toNat ≤ 55

/-- The kind of a notice is 0 to 11 (R143). -/
def kindOk (k : BitVec 4) : Bool := k.toNat ≤ 11

/-- Whether the operands of a command can occur: an image has 48 bytes (R168); a peer notice comes from a line station and an
order from a control station (R157); no payload is longer than 12 bytes (R130); a heard notice has a known kind (R143); an arbitration
byte that a station lost to is dominant where this station's was recessive, so it is not FFH (R133); a false start takes no byte (R141). -/
def Instr.wellFormed : Instr → Bool
  | .endOfLoading (.image bytes) => bytes.length == 48
  | .endOfLoading .silent => true
  | .claimReceived w | .releaseReceived w | .refreshReceived w => w.lengthOk && w.fromLineStation
  | .ringOrder w | .cancel w | .toneOrder w | .modeOrder w | .query w => w.lengthOk && w.fromControlStation
  | .reportNoticeHeard k w => kindOk k && w.lengthOk
  | .arbitrationLoss b => b != 0xFF#8
  | .startEdge d b => d || b == 0#8
  | .reset _ _ _ | .slotEnd | .cycleMarker | .markerWindowOpens | .markerWindowCloses | .markerLost | .zeroCrossMark
  | .zcLost | .deadTimeToRing _ | .deadTimeToFeed _ | .zcWaitTimeout _ | .ringExpiry _ | .ringDeferral _ | .entryAgedOut _
  | .listenPeriodEnd | .islandedPeriodEnd | .windowEnd | .ringTrip _ | .leakOn _ | .leakOff _ | .seizeConfirm _
  | .glitchLimitReached _ | .clear _ | .interdigitMake _ | .permanentLoop _ | .stutterAdvance _ | .attemptStart | .clash
  | .islanding | .ownNoticeCompletion | .noticeInvalid | .receiveFramingError | .receiverIdle | .busHeld | .busHeldClear
  | .sensePulseEdge _ | .resetAsserted => true

end Sys2Proof
end

