-- ==== Sys2Proof/Decode.lean ====
section
/-! DEFINITION. Reading commands from bits. No row of the opcode table has bits, so `decodeTableWord` answers none; the
bytes of a received notice (R130, R143, R164) do spell a command, and `decodeNotice` reads them, total on any bytes, with
`encodeNotice` after it. -/

namespace Sys2Proof

/-- The command that a word spells by the opcode table's bits. No row of the table gives bits. -/
def decodeTableWord (_nbits _w : Nat) : Option Instr := none

/-- One step of the CRC of R165: shift left one place and, if the bit shifted out was 1, combine with 07H. -/
def crcStep (v : Byte) : Byte := if v.msb then (v <<< 1) ^^^ 0x07#8 else v <<< 1

/-- The running CRC value after one more byte (R165). -/
def crcByte (v b : Byte) : Byte :=
  crcStep (crcStep (crcStep (crcStep (crcStep (crcStep (crcStep (crcStep (v ^^^ b))))))))

/-- The CRC-8 of a byte list, first byte first, from initial value 0 (R165). -/
def crc8 (bytes : List Byte) : Byte := bytes.foldl crcByte 0#8

/-- The arbitration byte: class in the two high bits, sender's address in the six low bits (R130). -/
def arbitrationByte (cls : BitVec 2) (sender : Station) : Byte := cls ++ sender

/-- The kind and length byte: kind in the four high bits, payload length in the four low bits (R130). -/
def kindLengthByte (kind : BitVec 4) (length : Nat) : Byte := kind ++ BitVec.ofNat 4 length

/-- The bytes of a notice: arbitration byte, kind and length byte, payload, check byte (R130, R165). -/
def noticeBytes (kind : BitVec 4) (w : Notice) : List Byte :=
  let body := arbitrationByte w.cls w.sender :: kindLengthByte kind w.payload.length :: w.payload
  body ++ [crc8 body]

/-- The command that the completion of a valid notice of this kind is (R143, R157, and the numbering of 9-9). -/
def commandOfKind (kind : BitVec 4) (w : Notice) : Instr :=
  match kind.toNat with
  | 0 => .claimReceived w
  | 1 => .releaseReceived w
  | 2 => .refreshReceived w
  | 3 => .ringOrder w
  | 4 => .cancel w
  | 5 => .toneOrder w
  | 6 => .modeOrder w
  | 7 => .query w
  | 8 | 9 | 10 | 11 => .reportNoticeHeard kind w
  | _ => .noticeInvalid

/-- The command that the end of a received notice is: the checks of R143 on the bytes of the receive buffer. -/
def decodeNotice (bytes : List Byte) : Instr :=
  match bytes with
  | arb :: kindLen :: rest =>
    let kind := kindLen.extractLsb' 4 4
    let length := (kindLen.extractLsb' 0 4).toNat
    if bytes.length = 3 + length ∧ bytes.getLast? = some (crc8 bytes.dropLast) then
      commandOfKind kind { cls := arb.extractLsb' 6 2, sender := arb.extractLsb' 0 6, payload := rest.dropLast }
    else .noticeInvalid
  | _ => .noticeInvalid

/-- The kind number and the content of the notice that a received-notice command stands for (9-9). -/
def noticeOf : Instr → Option (BitVec 4 × Notice)
  | .claimReceived w => some (0, w)
  | .releaseReceived w => some (1, w)
  | .refreshReceived w => some (2, w)
  | .ringOrder w => some (3, w)
  | .cancel w => some (4, w)
  | .toneOrder w => some (5, w)
  | .modeOrder w => some (6, w)
  | .query w => some (7, w)
  | .reportNoticeHeard k w => some (k, w)
  | _ => none

/-- The bytes on the wire of the notice that a received-notice command stands for; none for every other command. -/
def encodeNotice (i : Instr) : Option (List Byte) := (noticeOf i).map fun p => noticeBytes p.1 p.2

end Sys2Proof
end

