-- ==== Sys2Proof/Config.lean ====
section
/-! DEFINITION. What a part is configured with: the parameters the Start-up Loader hands every block at the end of loading
(R170, R172), and their defaults. They stand unchanged until the next reset. -/

namespace Sys2Proof

/-- What a flash gives a line beyond its report (6-1). -/
inductive FlashMode where
  | report
  | recall
  deriving DecidableEq, Repr

/-- The ring group of the configuration image (10-3). -/
structure RingParams where
  /-- Own configured budget, 1 to 48 ringer units for each slot. -/
  budget : Nat
  /-- Default ring limit, 1 to 63 cycles. -/
  limit : Nat
  /-- The pattern table (R12). -/
  patterns : Vector SlotSet 8
  deriving DecidableEq, Repr

/-- The line group (10-3). -/
structure LineParams where
  /-- Weight of each line, 1 to 4 ringer units (R14). -/
  weights : Vector Nat 8
  /-- Flash mode of each line. -/
  flash : Vector FlashMode 8
  deriving DecidableEq, Repr

/-- The timing group: limits of the Hook Supervisor in ms, the dial-tone timeout in s (6-1). -/
structure TimingParams where
  seizeConfirm : Nat
  glitch : Nat
  pulseMax : Nat
  flashMin : Nat
  flashMax : Nat
  interdigit : Nat
  dialTimeout : Nat
  deriving DecidableEq, Repr

/-- The thresholds group: readings, 0 to 4095 (R91). -/
structure ThresholdParams where
  leak : Nat
  onHook : Nat
  offHook : Nat
  trip : Nat
  deriving DecidableEq, Repr

/-- The relay and sense group: dead time in ms, settle windows and trip confirm in windows (R65, R72, R74). -/
structure RelayParams where
  deadTime : Nat
  settle : Nat
  tripConfirm : Nat
  deriving DecidableEq, Repr

/-- The tone group: frequency in Hz and level (R118). -/
structure ToneParams where
  frequency : Nat
  level : Nat
  deriving DecidableEq, Repr

/-- All the parameters of a part. -/
structure Params where
  ring : RingParams
  line : LineParams
  timing : TimingParams
  threshold : ThresholdParams
  relay : RelayParams
  tone : ToneParams
  deriving DecidableEq, Repr

/-- The default pattern table of R12: {0,1}, {0,2}, {0,2,4}, {0}, {0,1,2}, {0,1,4,5}, {0,3}, {}. -/
def defaultPatterns : Vector SlotSet 8 :=
  #v[0b00000011#8, 0b00000101#8, 0b00010101#8, 0b00000001#8, 0b00000111#8, 0b00110011#8, 0b00001001#8, 0b00000000#8]

/-- Ring group defaults (R170). -/
def RingParams.default : RingParams := { budget := 12, limit := 23, patterns := defaultPatterns }

/-- Line group defaults (R170). -/
def LineParams.default : LineParams := { weights := Vector.replicate 8 1, flash := Vector.replicate 8 .report }

/-- Timing group defaults (R170). -/
def TimingParams.default : TimingParams :=
  { seizeConfirm := 40, glitch := 20, pulseMax := 100, flashMin := 150, flashMax := 700, interdigit := 200, dialTimeout := 15 }

/-- Thresholds group defaults (R91, R170). -/
def ThresholdParams.default : ThresholdParams := { leak := 80, onHook := 400, offHook := 600, trip := 1600 }

/-- Relay and sense group defaults (R170). -/
def RelayParams.default : RelayParams := { deadTime := 12, settle := 2, tripConfirm := 3 }

/-- Tone group defaults (R118, R170). -/
def ToneParams.default : ToneParams := { frequency := 400, level := 3 }

/-- Every parameter at its default (R166, R169). -/
def Params.default : Params :=
  { ring := .default, line := .default, timing := .default, threshold := .default, relay := .default, tone := .default }

/-- Ringer weight of a line (R14). -/
def Params.weight (p : Params) (n : Line) : Nat := p.line.weights[n]

/-- The set of slots of a numbered pattern (R12). -/
def Params.pattern (p : Params) (k : Fin 8) : SlotSet := p.ring.patterns[k]

/-- Flash mode of a line (6-1). -/
def Params.flashMode (p : Params) (n : Line) : FlashMode := p.line.flash[n]

end Sys2Proof
end

