-- ==== Sys2Proof/Machine/State.lean ====
section
/-! DEFINITION. The state of the controller as plain data, block by block (0-4), and its value right after reset. -/

namespace Sys2Proof.Machine

/-- The reasons a command could stop. There is none: the block has no fault, and every error condition is state (log 4). -/
inductive Fault where
  deriving DecidableEq, Repr

/-- The reasons a command has no meaning. -/
inductive Refusal where
  /-- Raised by an arm of `exec` whose command has no meaning yet. Safe: the run stops. No arm of this model raises it. -/
  | notModelled (mnemonic : String)
  deriving DecidableEq, Repr

/-! ### Start-up Loader (Section 10) -/

/-- Where the part stands between a reset and its work. -/
inductive Phase where
  /-- RST is asserted or the supply is out of range: every block is held at its reset values (10-1). -/
  | held
  /-- From reset to the end of configuration loading (R166, R172). -/
  | loading
  /-- From the end of loading to the next reset (R172). -/
  | running
  deriving DecidableEq, Repr

/-- The straps as sampled at reset (R166). -/
structure Straps where
  /-- Strap address AD0 to AD4, AD0 least significant: the own address. -/
  address : BitVec 5
  /-- L8: high for eight lines. -/
  l8 : Bool
  /-- CFGP: high when the memory is fitted. -/
  cfgp : Bool
  deriving DecidableEq, Repr

/-- The group defaulted marks, one for each group (R170). -/
structure GroupMarks where
  ring : Bool
  line : Bool
  timing : Bool
  threshold : Bool
  relay : Bool
  tone : Bool
  deriving DecidableEq, Repr

/-- The Start-up Loader's own state (10-1) and the place of the transfer of R168. -/
structure Loader where
  /-- Bytes of the image read so far. -/
  image : List Byte
  /-- The memory did not answer, or the signature or check byte was wrong. -/
  rejected : Bool
  /-- Groups that took their defaults. -/
  defaulted : GroupMarks
  /-- Crystal periods since the transfer began. -/
  position : Nat
  /-- Bits of the byte being clocked in, most significant first. -/
  shift : Byte
  /-- An answer bit has been read high: the stop mark follows its clock (R168). -/
  unanswered : Bool
  /-- The stop mark has been made. -/
  finished : Bool
  deriving DecidableEq, Repr

/-! ### Cadence Timer (Section 1) -/

/-- The Cadence Timer (1-1). -/
structure Cadence where
  slot : Slot
  /-- Milliseconds elapsed in the current slot. -/
  slotTimer : Nat
  /-- The marker window of this slot 0 has closed (R7, log 8). -/
  past : Bool
  markerMet : Bool
  missed : Nat
  markerLost : Bool
  /-- Milliseconds since the last zero-cross mark. -/
  zcTimer : Nat
  zcLost : Bool
  deriving DecidableEq, Repr

/-! ### Shelf Load Table (Section 2) -/

/-- A peer's entry (2-2). -/
structure Entry where
  totals : Totals
  /-- Absent until a refresh of the peer has been applied (R18). -/
  budget : Option Nat
  age : Nat
  deriving DecidableEq, Repr

/-- The Shelf Load Table (R17). The own entry's budget is the configured budget and its age 0 (R25); it is present from the
end of loading, so only its totals stand here. -/
structure LoadTable where
  /-- Totals of the own entry (R25). -/
  own : Totals
  /-- Peer entries by address; absent addresses hold none (R17). -/
  peers : Vector (Option Entry) 24
  /-- Shelf totals T (R27). -/
  shelf : Totals
  /-- Effective budget B (R28). -/
  budget : Nat
  /-- BUDGET MISMATCH (R29). -/
  mismatch : Bool
  deriving DecidableEq, Repr

/-! ### Ring Scheduler (Section 3) -/

/-- What every live order holds (R37). -/
structure Order where
  pattern : Fin 8
  limit : Nat
  elapsed : Nat
  /-- Deferred-reported flag. -/
  deferred : Bool
  rung : Bool
  deriving DecidableEq, Repr

/-- A placement: an offset and the rotated mask it gives (R13, R47). -/
structure Placement where
  offset : Slot
  mask : SlotSet
  deriving DecidableEq, Repr

/-- A line's ring record: ring state with the fields present in it (R37). -/
inductive RingRecord where
  | idle
  | pending (o : Order)
  | claiming (o : Order) (p : Placement)
  /-- `fresh`: no slot start has come since the commit, so the previous slot is taken as OFF at the first one (R16). -/
  | ringing (o : Order) (p : Placement) (fresh : Bool)
  deriving DecidableEq, Repr

/-- The claim token (R41). -/
inductive Token where
  | free
  | held (n : Line)
  | spent (n : Line)
  deriving DecidableEq, Repr

/-- The station-level collections of the Ring Scheduler. The pending list is computed from `accepted` (R39). -/
structure Scheduler where
  /-- Acceptance order list, oldest first (R38). -/
  accepted : List Line
  /-- Commit order list, oldest first (R40). -/
  commits : List Line
  token : Token
  deriving DecidableEq, Repr

/-! ### Relay Sequencer (Section 4) -/

/-- The state of a line's relay pair (R65). -/
inductive Position where
  | feed
  | toRing
  | ringWait
  | ring
  | toFeed
  deriving DecidableEq, Repr

/-- One relay of the pair. -/
inductive Relay where
  | feed
  | ring
  deriving DecidableEq, Repr

/-- Zero-cross wait (R65). -/
inductive ZcWait where
  | none
  | toClose
  | toOpen
  deriving DecidableEq, Repr

/-- A line's relay record (R65). -/
structure RelayRecord where
  position : Position
  lastOpened : Relay
  /-- Milliseconds since the last-opened relay opened. -/
  deadTimer : Nat
  /-- The dead-time timer runs: it stops at the dead time and does not run while loading (R65, R73). -/
  deadRunning : Bool
  wait : ZcWait
  /-- Milliseconds since the zero-cross wait began; 0 while none stands (DESIGN CHOICE, log 28). -/
  waitTimer : Nat
  settle : Nat
  /-- A relay of the line opened or closed during the current window (R72). -/
  moved : Bool
  deriving DecidableEq, Repr

/-! ### Loop Sense Unit (Section 5) -/

/-- One entry of a reading history (R89). -/
structure Reading where
  value : Nat
  blanked : Bool
  saturated : Bool
  deriving DecidableEq, Repr

/-- The Loop Sense Unit's state for one line (5-1). -/
structure SenseRecord where
  counter : Nat
  /-- The last four readings, oldest first. -/
  history : Vector Reading 4
  tripRun : Nat
  leakFlag : Bool
  leakCount : Nat
  deriving DecidableEq, Repr

/-- The Loop Sense Unit's common state (5-1). -/
structure SenseUnit where
  dither : Fin 8
  /-- Eighth-milliseconds elapsed in the current window. -/
  windowTimer : Nat
  deriving DecidableEq, Repr

/-! ### Hook Supervisor (Section 6) -/

/-- A loop state that is not HOLD (R99). -/
inductive Loop where
  | opened
  | closed
  deriving DecidableEq, Repr

/-- The raw loop states of the three latest windows, HOLD replaced (R99). -/
structure RawStates where
  oldest : Loop
  middle : Loop
  newest : Loop
  deriving DecidableEq, Repr

/-- Hook state (6-1). -/
inductive HookState where
  | onHook
  | seizing
  | offHook
  /-- BREAK -/
  | brk
  deriving DecidableEq, Repr

/-- Mode (R113). -/
inductive Mode where
  | free
  | inCall
  | parked
  deriving DecidableEq, Repr

/-- The Hook Supervisor's record of a line (6-1). A timer that is none is stopped. The seize, break and make timers count
eighth-milliseconds (R100), the dial-tone timer milliseconds (R111). -/
structure HookRecord where
  raw : RawStates
  state : HookState
  mode : Mode
  seizeTimer : Option Nat
  breakTimer : Option Nat
  makeTimer : Option Nat
  /-- The Tone Generator has been told that the current break lasted the glitch limit (R104). -/
  glitchTold : Bool
  pulses : Nat
  /-- Digit store, oldest first (R110). -/
  digits : List Digit
  digitsLost : Bool
  dialTimer : Option Nat
  deriving DecidableEq, Repr

/-! ### Tone Generator (Section 7) -/

/-- Stutter phase (R125). -/
inductive StutterPhase where
  /-- Phases 1 to 6, numbered 0 to 5 here. -/
  | burst (k : Fin 6)
  | continuous
  deriving DecidableEq, Repr

/-- A tone a line can be given; OFF is the absence of one. Phase and timer are present only in RECALL (7-1). -/
inductive Tone where
  | withheld
  | dial
  | recall (phase : StutterPhase) (timer : Nat)
  deriving DecidableEq, Repr

/-- A line's tone record (7-1). -/
structure ToneRecord where
  /-- Tone state; none is OFF. -/
  tone : Option Tone
  suspended : Option Tone
  dialled : Bool
  deriving DecidableEq, Repr

/-! ### Reports (Section 9) -/

/-- Place of a trip (R76). -/
inductive TripPlace where
  | on
  | off
  | beforeRing
  deriving DecidableEq, Repr

/-- Events of R163 with their data. -/
inductive Event where
  | seize
  | clear
  | flash
  | ringPlaced (offset : Slot)
  | ringTripped (place : TripPlace)
  | ringExpired (rang : Bool)
  | ringDeferred
  | ringShed
  | permanentLoop
  | leakOn
  | leakOff
  | digitError (count : Nat)
  deriving DecidableEq, Repr

/-- Order kinds of R157. -/
inductive OrderKind where
  | ring
  | cancel
  | tone
  | mode
  | query
  deriving DecidableEq, Repr

/-- Refusal reasons of R162. -/
inductive Reason where
  | badLine
  | badPattern
  | busy
  | conflict
  | badState
  | badOrder
  deriving DecidableEq, Repr

/-- An entry of the report queue (R153, R162). A STATE entry holds only its line and its events-lost mark. -/
inductive Report where
  | event (n : Line) (e : Event)
  | digits (n : Line) (ds : List Digit) (lost : Bool)
  | state (n : Line) (eventsLost : Bool)
  | refusal (line : Byte) (kind : OrderKind) (reason : Reason)
  deriving DecidableEq, Repr

/-- Refresh state (R151). -/
inductive RefreshState where
  | none
  | due
  | escalated
  deriving DecidableEq, Repr

/-- What the notice of an attempt announces, to be discharged at its completion (R149). -/
inductive Sent where
  /-- A release with the line mask it carries (R150). -/
  | release (lines : LineSet)
  /-- The claim of a line. -/
  | claim (n : Line)
  | refresh
  /-- The head entry of the report queue. -/
  | report
  deriving DecidableEq, Repr

/-- The Notice Assembler's station-level state (R147). The claim slot is computed from the token. -/
structure Assembler where
  releaseMask : LineSet
  refresh : RefreshState
  dueInAttempt : Bool
  /-- Report queue, oldest first (R153). -/
  queue : List Report
  deriving DecidableEq, Repr

/-! ### Notice Bus Interface (Section 8) -/

/-- Link state (8-7). -/
inductive Link where
  | listening
  | joined
  | islanded
  | silent
  deriving DecidableEq, Repr

/-- Receive condition (8-1). -/
inductive RxCondition where
  | waiting
  | idle
  | receiving
  | discarding
  deriving DecidableEq, Repr

/-- An attempt in transmission: what it announces, its bytes, and how many samples have been driven since its start edge. -/
structure Attempt where
  sent : Sent
  bytes : List Byte
  sample : Nat
  deriving DecidableEq, Repr

/-- A byte being taken from the wire (R129): samples since its start edge, dominant votes of the current bit, the bits read so
far, and the idle counter before the edge, for a false start (R131). -/
structure ByteInProgress where
  sample : Nat
  votes : Nat
  shift : Byte
  idleBefore : Nat
  idleSamplesBefore : Nat
  deriving DecidableEq, Repr

/-- The Notice Bus Interface (8-1). `attempt` is the transmit condition: none is NOT SENDING. -/
structure Bus where
  link : Link
  period : Nat
  rx : RxCondition
  /-- Idle counter, in bit times. -/
  idle : Nat
  /-- Samples of the recessive bit time being counted. -/
  idleSamples : Nat
  /-- Dominant run, in bit times. -/
  dominantRun : Nat
  /-- Samples of the dominant bit time being counted. -/
  dominantSamples : Nat
  /-- Samples read recessive since the last dominant one, at most 12 bit times: where the idle counter stands when DISCARDING begins
  (R131, R142). -/
  recessive : Nat
  /-- Receive buffer, byte 0 first. -/
  buffer : List Byte
  byte : Option ByteInProgress
  attempt : Option Attempt
  ownLast : Bool
  clashes : Nat
  errors : Nat
  degraded : Bool
  busHeld : Bool
  recovered : Bool
  deriving DecidableEq, Repr

/-! ### Pins and the model's own fields -/

/-- Levels on the input pins (0-6); true is high, but for `nbLow` and `rst`. -/
structure Pins where
  sns : BitVec 8
  cym : Bool
  zcm : Bool
  /-- Some other station holds NB low. -/
  nbLow : Bool
  address : BitVec 5
  l8 : Bool
  cfgp : Bool
  /-- CFGDA as the memory leaves it: false where the memory holds it low. -/
  cfgda : Bool
  /-- RST is asserted, or the supply is out of range. -/
  rst : Bool
  deriving DecidableEq, Repr

/-- Levels of the edge-sensed inputs at the last read (R3, R10, R82). -/
structure LastRead where
  sns : BitVec 8
  cym : Bool
  zcm : Bool
  deriving DecidableEq, Repr

/-- The model's own field, for what the spec leaves open: numbers of the orders in which blocks take a slot start and lines take a window
end (log 3), and which of a marker and a window close of one crystal period is taken first (R7, log 8). No command changes it. -/
structure OrderChoice where
  slot : Nat
  lines : Nat
  /-- In the crystal period in which slot 0 passes 40 ms a marker is taken first, and the window that it begins is open (so at
  reset), or the close of the old window first. -/
  lateClose : Bool
  deriving DecidableEq, Repr

/-- Everything the blocks hold for one line. -/
structure LineState where
  ring : RingRecord
  relay : RelayRecord
  sense : SenseRecord
  hook : HookRecord
  tone : ToneRecord
  /-- Events-lost flag (R147, R154). -/
  eventsLost : Bool
  deriving DecidableEq, Repr

/-- The controller. -/
structure State where
  phase : Phase
  straps : Straps
  loader : Loader
  params : Params
  cadence : Cadence
  table : LoadTable
  sched : Scheduler
  sense : SenseUnit
  bus : Bus
  asm : Assembler
  lines : Vector LineState 8
  /-- Crystal periods into the current period of the TONE wave (R118). -/
  tonePhase : Nat
  pins : Pins
  last : LastRead
  /-- Crystal periods into the current millisecond (0-7, log 2). -/
  crystal : Nat
  order : OrderChoice
  /-- Commands waiting, first in first out. -/
  pending : List Instr
  deriving DecidableEq, Repr

/-- The outcome of a command. -/
abbrev Result := Host.Outcome State Fault Refusal

/-! ### The state at reset -/

/-- Eight totals of 0. -/
def Totals.zero : Totals := Vector.replicate 8 0

/-- The loader at reset: no mark set (R166), nothing read, and an empty image buffer, which no rule gives a value (DESIGN CHOICE, log 6). -/
def Loader.reset : Loader :=
  { image := [], rejected := false, defaulted := ⟨false, false, false, false, false, false⟩, position := 0, shift := 0#8,
    unanswered := false, finished := false }

/-- The Cadence Timer at reset (R9). -/
def Cadence.reset : Cadence :=
  { slot := 0, slotTimer := 0, past := false, markerMet := true, missed := 0, markerLost := false, zcTimer := 0, zcLost := false }

/-- The Shelf Load Table at reset: emptied (R35). -/
def LoadTable.reset : LoadTable :=
  { own := Totals.zero, peers := Vector.replicate 24 none, shelf := Totals.zero, budget := RingParams.default.budget,
    mismatch := false }

/-- The Ring Scheduler at reset (R42). -/
def Scheduler.reset : Scheduler := { accepted := [], commits := [], token := .free }

/-- A relay record at reset: both relays open (R73). -/
def RelayRecord.reset : RelayRecord :=
  { position := .toFeed, lastOpened := .ring, deadTimer := 0, deadRunning := false, wait := .none, waitTimer := 0, settle := 0,
    moved := false }

/-- A line's sense state at reset (R95). -/
def SenseRecord.reset : SenseRecord :=
  { counter := 0, history := Vector.replicate 4 { value := 0, blanked := true, saturated := false }, tripRun := 0,
    leakFlag := false, leakCount := 0 }

/-- The Loop Sense Unit at reset (R95). -/
def SenseUnit.reset : SenseUnit := { dither := 0, windowTimer := 0 }

/-- The same raw loop state three times. -/
def RawStates.all (l : Loop) : RawStates := { oldest := l, middle := l, newest := l }

/-- A line's hook record at reset (R117). -/
def HookRecord.reset : HookRecord :=
  { raw := .all .opened, state := .onHook, mode := .free, seizeTimer := none, breakTimer := none, makeTimer := none,
    glitchTold := false, pulses := 0, digits := [], digitsLost := false, dialTimer := none }

/-- A line's tone record at reset (R128). -/
def ToneRecord.reset : ToneRecord := { tone := none, suspended := none, dialled := false }

/-- Everything about one line at reset (R42, R73, R95, R117, R128, R147). -/
def LineState.reset : LineState :=
  { ring := .idle, relay := .reset, sense := .reset, hook := .reset, tone := .reset, eventsLost := false }

/-- The Notice Assembler at reset (R147). -/
def Assembler.reset : Assembler := { releaseMask := 0#8, refresh := .none, dueInAttempt := false, queue := [] }

/-- A strap address of 0 to 23 is a valid line station address (R167). -/
def Straps.valid (k : Straps) : Bool := k.address.toNat ≤ 23

/-- The Notice Bus Interface at reset (R146). -/
def Bus.reset (k : Straps) : Bus :=
  { link := if k.valid then .listening else .silent, period := 0, rx := .waiting, idle := 0, idleSamples := 0, dominantRun := 0,
    dominantSamples := 0, recessive := 0, buffer := [], byte := none, attempt := none, ownLast := false, clashes := 0, errors := 0,
    degraded := false, busHeld := false, recovered := false }

/-- The input pins of `State.reset`: all inactive, strap address 0, eight lines, no memory (DESIGN CHOICE, log 5). -/
def Pins.quiet : Pins :=
  { sns := 0#8, cym := false, zcm := false, nbLow := false, address := 0#5, l8 := true, cfgp := false, cfgda := true,
    rst := false }

/-- Every block at its reset values (10-1), with these sampled straps; pins, orders and waiting commands are the outside's and
are kept. -/
def State.atReset (phase : Phase) (k : Straps) (pins : Pins) (order : OrderChoice) (pending : List Instr) : State :=
  { phase := phase, straps := k, loader := .reset, params := .default, cadence := .reset, table := .reset, sched := .reset,
    sense := .reset, bus := .reset k, asm := .reset, lines := Vector.replicate 8 .reset, tonePhase := 0, pins := pins,
    last := { sns := pins.sns, cym := pins.cym, zcm := pins.zcm }, crystal := 0, order := order, pending := pending }

/-- The machine at the moment R166 calls reset, with the straps of `Pins.quiet` sampled and loading begun. -/
def State.reset : State :=
  State.atReset .loading { address := 0#5, l8 := true, cfgp := false } .quiet { slot := 0, lines := 0, lateClose := true } []

end Sys2Proof.Machine
end

