-- ==== Sys2Proof/Machine/Ops.lean ====
section
/-! DEFINITION. Named operations over the state that every block uses: lines, lines in use, the open orders, the report queue
with its events-lost and digits rules (R153 to R156), and the error tally (R144). -/

namespace Sys2Proof.Machine

/-! ### Lines -/

/-- What the blocks hold for line `n`. -/
def State.line (s : State) (n : Line) : LineState := s.lines[n.val]

/-- `s` with line `n` replaced. -/
def State.setLine (s : State) (n : Line) (l : LineState) : State := { s with lines := s.lines.set n.val l }

/-- `s` with line `n` changed by `f`. -/
def State.onLine (s : State) (n : Line) (f : LineState → LineState) : State := s.setLine n (f (s.line n))

/-- `s` with every line changed by `f`. -/
def State.mapLines (s : State) (f : LineState → LineState) : State := { s with lines := s.lines.map f }

/-- Line count: 8 with L8 high, 4 with it low (R166). -/
def State.lineCount (s : State) : Nat := if s.straps.l8 then 8 else 4

/-- Line `n` is in use (R166). -/
def State.inUse (s : State) (n : Line) : Bool := n.val < s.lineCount

/-- All lines, in line order. -/
def allLines : List Line := List.finRange 8

/-- All slots, slot 0 first. -/
def allSlots : List Slot := List.finRange 8

/-- Loading has ended and the blocks work (R172). -/
def State.running (s : State) : Bool := s.phase == .running

/-- The Cadence Timer runs: from reset, so during loading too (R9). -/
def State.active (s : State) : Bool := s.phase != .held

/-- Line `n` is in use and the blocks work. -/
def State.serves (s : State) (n : Line) : Bool := s.running && s.inUse n

/-! ### Orders the spec leaves open -/

/-- `x` put into a list after its first `k` members. -/
def insertAt {α : Type} : Nat → α → List α → List α
  | 0, x, ys => x :: ys
  | _ + 1, x, [] => [x]
  | k + 1, x, y :: ys => y :: insertAt k x ys

/-- The list in the order that the number `k` names; 0 names the order in which it is written, and every order has a number. -/
def permute {α : Type} : Nat → List α → List α
  | _, [] => []
  | k, x :: xs => insertAt (k % (xs.length + 1)) x (permute (k / (xs.length + 1)) xs)

/-! ### Station address -/

/-- The own address as a number (R166). -/
def State.address (s : State) : Nat := s.straps.address.toNat

/-! ### The report queue (R153 to R156) -/

/-- The report queue holds up to 12 entries (R153). -/
def queueSize : Nat := 12

/-- Free count: entries of the queue not in use (R153). -/
def State.freeCount (s : State) : Nat := queueSize - s.asm.queue.length

/-- `s` with the report queue replaced. -/
def State.setQueue (s : State) (q : List Report) : State := { s with asm := { s.asm with queue := q } }

/-- A WITHHELD line becomes DIAL (R121). -/
def LineState.releaseTone (l : LineState) : LineState :=
  if l.tone.tone = some .withheld then { l with tone := { l.tone with tone := some .dial } } else l

/-- The Tone Generator reconsiders every WITHHELD line at a change of the free count (R121). -/
def State.reconsiderWithheld (s : State) : State := if 3 ≤ s.freeCount then s.mapLines LineState.releaseTone else s

/-- An entry enters the queue at its end, the queue having room; the free count changes (R153). -/
def State.pushReport (s : State) (r : Report) : State := (s.setQueue (s.asm.queue ++ [r])).reconsiderWithheld

/-- The head entry is in transmission (R153). -/
def State.headInTransmission (s : State) : Bool :=
  match s.bus.attempt with
  | some a => a.sent == .report
  | none => false

/-- An event of a line is handed to the queue: dropped while the line's events-lost flag stands, lost with the flag set when the
queue is full, and queued otherwise (R154). -/
def State.handEvent (s : State) (n : Line) (e : Event) : State :=
  if (s.line n).eventsLost then s
  else if s.freeCount = 0 then s.onLine n fun l => { l with eventsLost := true }
  else s.pushReport (.event n e)

/-- A QUERY answer or a refusal is queued, or dropped when the queue is full (R161). -/
def State.offerReport (s : State) (r : Report) : State := if s.freeCount = 0 then s else s.pushReport r

/-- The line an entry is for; a refusal is for the line its line byte names, if any. -/
def Report.line? : Report → Option Line
  | .event n _ | .digits n _ _ | .state n _ => some n
  | .refusal b _ _ => if h : b.toNat < 8 then some ⟨b.toNat, h⟩ else none

/-- A DIGITS entry holds at most 6 digits (R155). -/
def digitsPerEntry : Nat := 6

/-- The queue with a digit appended to the line's DIGITS entry, when that entry is the last entry for the line, is not in
transmission (`busy` says whether the first entry given is) and holds fewer than 6 digits; none otherwise (R155). -/
def appendDigit (n : Line) (d : Digit) (lost : Bool) : Bool → List Report → Option (List Report)
  | _, [] => none
  | busy, r :: rs =>
    if rs.any (fun x => x.line? == some n) then (appendDigit n d lost false rs).map (r :: ·)
    else match r with
      | .digits m ds l =>
        if m = n ∧ ds.length < digitsPerEntry ∧ busy = false then some (.digits m (ds ++ [d]) (l || lost) :: rs) else none
      | _ => none

/-- The digit at the head of the line's store has been taken, and the digits-lost flag carried with it (R110, R155). -/
def LineState.digitTaken (l : LineState) : LineState :=
  { l with hook := { l.hook with digits := l.hook.digits.tail, digitsLost := false } }

/-- One digit `d` is taken from the head of line `n`'s store into the queue, by appending or, where `mayMake`, in a new entry;
none when it stays in the store (R155). -/
def State.takeDigit (s : State) (mayMake : Bool) (n : Line) (d : Digit) : Option State :=
  let lost := (s.line n).hook.digitsLost
  match appendDigit n d lost s.headInTransmission s.asm.queue with
  | some q => some ((s.setQueue q).onLine n LineState.digitTaken)
  | none =>
    if mayMake && s.freeCount != 0 then some ((s.onLine n LineState.digitTaken).pushReport (.digits n [d] lost)) else none

/-- Digits are taken from a list of stored digits until one stays (R155). -/
def State.takeDigitList (mayMake : Bool) (n : Line) : List Digit → State → State
  | [], s => s
  | d :: ds, s =>
    match s.takeDigit mayMake n d with
    | some t => State.takeDigitList mayMake n ds t
    | none => s

/-- The digits of line `n`'s store are taken into the queue as far as they go (R155). -/
def State.takeDigits (s : State) (mayMake : Bool) (n : Line) : State :=
  State.takeDigitList mayMake n (s.line n).hook.digits s

/-- Waiting digits of every line are taken, in line order (R155, R156). -/
def State.takeAllDigits (s : State) (mayMake : Bool) : State := allLines.foldl (fun s n => s.takeDigits mayMake n) s

/-- The lowest-numbered line whose events-lost flag is set (R156). -/
def State.firstLost (s : State) : Option Line := allLines.find? fun n => (s.line n).eventsLost

/-- Room freed in the queue is filled: one summary for the lowest-numbered line that lost events, or else waiting digits (R156). -/
def State.fillRoom (s : State) : State :=
  match s.firstLost with
  | some n => (s.onLine n fun l => { l with eventsLost := false }).pushReport (.state n true)
  | none => s.takeAllDigits true

/-- The head entry leaves the queue; the free count changes and the room is filled (R153, R121, R156). -/
def State.popReport (s : State) : State := ((s.setQueue s.asm.queue.tail).reconsiderWithheld).fillRoom

/-! ### The error tally (R144) -/

/-- The error tally stops at 15 (R144). -/
def errorTallyMax : Nat := 15

/-- `s` with the Notice Bus Interface replaced. -/
def State.setBus (s : State) (b : Bus) : State := { s with bus := b }

/-- One more notice has been received in error (R144). -/
def State.countError (s : State) : State := s.setBus { s.bus with errors := min errorTallyMax (s.bus.errors + 1) }

end Sys2Proof.Machine
end

