-- ==== Sys2Proof/Machine/Flags.lean ====
section
/-! DEFINITION. Condition flags and outputs computed from the state: CONFIG DEFAULTED, STRAP INVALID, ALM, the refresh flags
(R152), the relay, gate and tone outputs. -/

namespace Sys2Proof.Machine

/-- CONFIG DEFAULTED stands while the image rejected mark or any group defaulted mark is set (R171). -/
def Loader.configDefaulted (l : Loader) : Bool :=
  l.rejected || l.defaulted.ring || l.defaulted.line || l.defaulted.timing || l.defaulted.threshold || l.defaulted.relay
    || l.defaulted.tone

/-- STRAP INVALID stands while the sampled strap address is 24 to 31 (R167). -/
def State.strapInvalid (s : State) : Bool := !s.straps.valid

/-- ALM is asserted while one of its six conditions stands, and released while reset is asserted (R173). -/
def State.alm (s : State) : Bool :=
  s.active && (s.strapInvalid || s.loader.configDefaulted || s.bus.link == .islanded || s.bus.busHeld || s.cadence.markerLost
    || s.bus.degraded)

/-- The flags byte of a refresh: bit 0 CONFIG DEFAULTED, 1 MARKER LOST, 2 ZC LOST, 3 LINK DEGRADED, 4 BUDGET MISMATCH,
5 LISTENING, 6 RECOVERED, 7 zero (R152, R164). -/
def State.refreshFlags (s : State) : Byte :=
  BitVec.ofBool false ++ BitVec.ofBool s.bus.recovered ++ BitVec.ofBool (s.bus.link == .listening)
    ++ BitVec.ofBool s.table.mismatch ++ BitVec.ofBool s.bus.degraded ++ BitVec.ofBool s.cadence.zcLost
    ++ BitVec.ofBool s.cadence.markerLost ++ BitVec.ofBool s.loader.configDefaulted

/-- FDn: the feed relay is closed in FEED alone (R65). -/
def State.feedClosed (s : State) (n : Line) : Bool := (s.line n).relay.position == .feed

/-- RGn: the ring relay is closed in RING alone, with or without the open wait (R65, R76). -/
def State.ringClosed (s : State) (n : Line) : Bool := (s.line n).relay.position == .ring

/-- The gate is open in DIAL, and in RECALL in stutter phases 1, 3, 5 and CONTINUOUS (R119); phases are numbered from 0 here. -/
def Tone.gateOpen : Tone → Bool
  | .withheld => false
  | .dial => true
  | .recall (.burst k) _ => k.val % 2 == 0
  | .recall .continuous _ => true

/-- TGn (R119). -/
def State.gateOpen (s : State) (n : Line) : Bool :=
  match (s.line n).tone.tone with
  | some t => t.gateOpen
  | none => false

/-- Period of the tone wave: the whole number of crystal periods nearest to 4 096 000 / f, a half rounded up (R118). -/
def tonePeriod (p : ToneParams) : Nat := (2 * 4096000 + p.frequency) / (2 * p.frequency)

/-- High part of a period: the whole part of the period times L divided by 16 (R118). -/
def toneHigh (p : ToneParams) : Nat := tonePeriod p * p.level / 16

/-- TONE: low until the end of loading, then the wave, high part first (R118, log 7). -/
def State.toneOut (s : State) : Bool := s.running && s.tonePhase < toneHigh s.params.tone

/-- Bit `k` of a byte on the wire, 0 the start bit, 1 to 8 the data bits most significant first, 9 the stop bit; true is dominant
(R129, R130). -/
def wireDominant (b : Byte) (k : Nat) : Bool :=
  if k = 0 then true else if k ≤ 8 then !b.getLsbD (8 - k) else false

/-- What an attempt drives at its present sample: true holds NB low (R130). -/
def Attempt.drivesLow (a : Attempt) : Bool :=
  match a.bytes[a.sample / 160]? with
  | some b => wireDominant b (a.sample % 160 / 16)
  | none => false

/-- NB as driven by the own station; it drives at no other time than in an attempt (R130, R146). -/
def State.drivesLow (s : State) : Bool :=
  match s.bus.attempt with
  | some a => a.drivesLow
  | none => false

end Sys2Proof.Machine
end

