-- ==== Sys2Proof/Machine/Operands.lean ====
section
/-! DEFINITION. The operand forms of the commands: the fields of received payloads (R164) and the checks of orders (R157, R158). -/

namespace Sys2Proof.Machine

/-- The eight totals carried from byte `k` of a payload on; a byte that is not there reads as 0 (its payload has failed the length
check before). -/
def totalsFrom (payload : List Byte) (k : Nat) : Totals := Vector.ofFn fun t => (payload.getD (k + t.val) 0#8).toNat

/-- Every carried total lies in 0 to 32 (R20, R21). -/
def totalsOk (t : Totals) : Bool := allSlots.all fun k => t[k.val] ≤ 32

/-- A stated budget lies in 1 to 48 (R20). -/
def budgetOk (b : Nat) : Bool := 1 ≤ b && b ≤ 48

/-- The sender's place in the load table: a line station other than the own (R19). -/
def State.peerOf (s : State) (w : Notice) : Option PeerAddr :=
  if h : w.sender.toNat < 24 then if w.sender.toNat = s.address then none else some ⟨w.sender.toNat, h⟩ else none

/-- Payload length of an order kind (9-7). -/
def OrderKind.length : OrderKind → Nat
  | .ring => 4
  | .cancel => 2
  | .tone => 3
  | .mode => 3
  | .query => 2

/-- The order comes from a control station and its target byte is the own address: it is for the own station (R157, R158). -/
def State.orderForUs (s : State) (w : Notice) : Bool :=
  w.fromControlStation && (w.payload.head?.map BitVec.toNat == some s.address)

/-- Byte `k` of a payload as a number; used only where the length check has found it present. -/
def field (w : Notice) (k : Nat) : Nat := (w.payload.getD k 0#8).toNat

/-- Every field beside target and line holds a value of its encoding (R158, R164). -/
def fieldsOk (kind : OrderKind) (w : Notice) : Bool :=
  match kind with
  | .ring => field w 2 ≤ 7 && field w 3 ≤ 63
  | .tone => field w 2 ≤ 2
  | .mode => field w 2 ≤ 2
  | .cancel | .query => true

/-- The line byte as received, or 255 where the payload holds none (R161). -/
def lineByte (w : Notice) : Byte := w.payload.getD 1 0xFF#8

/-- The checks 1 and 2 of R158: the line an order for the own station names, or the reason it is refused for. -/
def State.checkOrder (s : State) (kind : OrderKind) (w : Notice) : Except Reason Line :=
  if w.payload.length = kind.length ∧ fieldsOk kind w then
    if h : field w 1 < 8 then if s.inUse ⟨field w 1, h⟩ then .ok ⟨field w 1, h⟩ else .error .badLine else .error .badLine
  else .error .badOrder

/-- A refusal enters the report queue, or is dropped when it is full (R161). -/
def State.refuse (s : State) (kind : OrderKind) (w : Notice) (r : Reason) : State :=
  s.offerReport (.refusal (lineByte w) kind r)

end Sys2Proof.Machine
end

