-- ==== Sys2Proof/Machine/Relay.lean ====
section
/-! DEFINITION. The relay sequence of one line: dead time, the three requests of the Ring Scheduler, zero-cross switching and the
window class (R66 to R72); and the commands DEAD_TIME_TO_RING, DEAD_TIME_TO_FEED and ZC_WAIT_TIMEOUT. -/

namespace Sys2Proof.Machine

/-- The ring relay may close: it was last to open itself, or the dead time has been reached (R66). -/
def RelayRecord.mayCloseRing (r : RelayRecord) (dead : Nat) : Bool := r.lastOpened == .ring || dead ≤ r.deadTimer

/-- The feed relay may close: it was last to open itself, or the dead time has been reached (R66). -/
def RelayRecord.mayCloseFeed (r : RelayRecord) (dead : Nat) : Bool := r.lastOpened == .feed || dead ≤ r.deadTimer

/-- The ring relay closes, where R66 lets it: position RING, no wait, the settle count at the settle windows, and a new trip run
at 0 (R68, R72, R74). The wait timer, stopped, is left at 0 (DESIGN CHOICE, log 28). -/
def LineState.closeRing (p : RelayParams) (l : LineState) : LineState :=
  if l.relay.mayCloseRing p.deadTime then
    { l with
      relay := { l.relay with position := .ring, wait := .none, waitTimer := 0, settle := p.settle, moved := true }
      sense := { l.sense with tripRun := 0 } }
  else l

/-- The ring relay opens: position TO-FEED, no wait, the dead-time timer started from 0 (R66, R69, R70); the wait timer is left at 0 (log 28). -/
def LineState.openRing (l : LineState) : LineState :=
  { l with relay := { l.relay with position := .toFeed, lastOpened := .ring, deadTimer := 0, deadRunning := true, wait := .none,
                                   waitTimer := 0, moved := true } }

/-- The feed relay opens: position TO-RING, the dead-time timer started from 0 (R66, R67); the wait timer is left at 0 (log 28). -/
def LineState.openFeed (l : LineState) : LineState :=
  { l with relay := { l.relay with position := .toRing, lastOpened := .feed, deadTimer := 0, deadRunning := true, wait := .none,
                                   waitTimer := 0, moved := true } }

/-- The feed relay closes, where R66 lets it; where it does not yet, the line is in TO-FEED with the dead time running on
(R66, R70, R71, R72). A wait ends, and its timer is left at 0 (log 28). -/
def LineState.closeFeed (p : RelayParams) (l : LineState) : LineState :=
  if l.relay.mayCloseFeed p.deadTime then
    { l with relay := { l.relay with position := .feed, wait := .none, waitTimer := 0, settle := p.settle, moved := true } }
  else { l with relay := { l.relay with position := .toFeed, wait := .none, waitTimer := 0 } }

/-- The wait to close begins: RING-WAIT with the wait timer at 0; with ZC LOST set the ring relay closes at once (R67, R68). -/
def LineState.beginCloseWait (p : RelayParams) (zcLost : Bool) (l : LineState) : LineState :=
  let m := { l with relay := { l.relay with position := .ringWait, wait := .toClose, waitTimer := 0 } }
  if zcLost then m.closeRing p else m

/-- Ring request, by the line's position (R67). Where it ends an open wait, the wait timer is left at 0 (log 28). -/
def LineState.ringRequest (p : RelayParams) (zcLost : Bool) (l : LineState) : LineState :=
  match l.relay.position with
  | .feed => l.openFeed
  | .toFeed => l.beginCloseWait p zcLost
  | .toRing | .ringWait => l
  | .ring => if l.relay.wait = .toOpen then { l with relay := { l.relay with wait := .none, waitTimer := 0 } } else l

/-- Immediate feed request, by the line's position (R70); also a synced feed request in TO-RING and RING-WAIT (R69). -/
def LineState.immediateFeed (p : RelayParams) (l : LineState) : LineState :=
  match l.relay.position with
  | .ring => l.openRing
  | .toRing | .ringWait => l.closeFeed p
  | .toFeed | .feed => l

/-- Synced feed request, by the line's position (R69). -/
def LineState.syncedFeed (p : RelayParams) (zcLost : Bool) (l : LineState) : LineState :=
  match l.relay.position with
  | .ring =>
    if l.relay.wait = .toOpen then l
    else if zcLost then l.openRing
    else { l with relay := { l.relay with wait := .toOpen, waitTimer := 0 } }
  | .toRing | .ringWait => l.immediateFeed p
  | .feed | .toFeed => l

/-- A waiting movement is made: the ring relay closes in RING-WAIT and opens in the open wait (R68, R69). -/
def LineState.switchRing (p : RelayParams) (l : LineState) : LineState :=
  match l.relay.position with
  | .ringWait => l.closeRing p
  | .ring => if l.relay.wait = .toOpen then l.openRing else l
  | .feed | .toRing | .toFeed => l

/-- The dead-time timer stands at the dead time and has stopped (R65). -/
def LineState.deadTimeReached (p : RelayParams) (l : LineState) : LineState :=
  { l with relay := { l.relay with deadTimer := p.deadTime, deadRunning := false } }

/-- The class of a window (R72). -/
inductive WindowClass where
  | blanked
  | feed
  | ring
  deriving DecidableEq, Repr

/-- The class of the window that ends now (R72). -/
def RelayRecord.windowClass (r : RelayRecord) : WindowClass :=
  if r.moved || r.settle != 0 then .blanked
  else match r.position with
    | .feed => .feed
    | .ring => .ring
    | .toRing | .ringWait | .toFeed => .blanked

/-- The relay record after a window end: the settle count is lowered by one where no relay moved, and the next window has seen no
movement (R72). -/
def RelayRecord.afterWindow (r : RelayRecord) : RelayRecord :=
  { r with settle := if r.moved then r.settle else r.settle - 1, moved := false }

/-! ### The commands -/

/-- DEAD_TIME_TO_RING: a line in TO-RING enters RING-WAIT, or closes its ring relay at once with ZC LOST set (R68). In another
position there is no such dead time, and nothing changes (log 4). -/
def execDeadTimeToRing (n : Line) (s : State) : Result :=
  .next <|
    if s.serves n && (s.line n).relay.position == .toRing then
      s.onLine n fun l => (l.deadTimeReached s.params.relay).beginCloseWait s.params.relay s.cadence.zcLost
    else s

/-- DEAD_TIME_TO_FEED: the feed relay of a line in TO-FEED closes (R71). In another position nothing changes (log 4). -/
def execDeadTimeToFeed (n : Line) (s : State) : Result :=
  .next <|
    if s.serves n && (s.line n).relay.position == .toFeed then
      s.onLine n fun l => (l.deadTimeReached s.params.relay).closeFeed s.params.relay
    else s

/-- ZC_WAIT_TIMEOUT: the waiting movement of a line is made unsynchronised (R68, R69). Without a wait nothing changes (log 4). -/
def execZcWaitTimeout (n : Line) (s : State) : Result :=
  .next <| if s.serves n && (s.line n).relay.wait != .none then s.onLine n (LineState.switchRing s.params.relay) else s

end Sys2Proof.Machine
end

