-- ==== Sys2Proof/Machine/Placement.lean ====
section
/-! DEFINITION. Rotated masks (R13), totals (R15), the view's derived quantities (R27 to R29, R32) and the placement computation
(R46, R47). -/

namespace Sys2Proof.Machine

/-! ### Ring records -/

/-- Ring state PENDING. -/
def RingRecord.isPending : RingRecord → Bool
  | .pending _ => true
  | .idle | .claiming _ _ | .ringing _ _ _ => false

/-- Ring state CLAIMING. -/
def RingRecord.isClaiming : RingRecord → Bool
  | .claiming _ _ => true
  | .idle | .pending _ | .ringing _ _ _ => false

/-- Ring state RINGING. -/
def RingRecord.isRinging : RingRecord → Bool
  | .ringing _ _ _ => true
  | .idle | .pending _ | .claiming _ _ => false

/-- Ring state IDLE. -/
def RingRecord.isIdle : RingRecord → Bool
  | .idle => true
  | .pending _ | .claiming _ _ | .ringing _ _ _ => false

/-- The order a record holds (R37). -/
def RingRecord.order? : RingRecord → Option Order
  | .idle => none
  | .pending o | .claiming o _ | .ringing o _ _ => some o

/-- The placement a record holds, in CLAIMING and RINGING (R37). -/
def RingRecord.placement? : RingRecord → Option Placement
  | .idle | .pending _ => none
  | .claiming _ p | .ringing _ p _ => some p

/-- The record with its order changed (R37). -/
def RingRecord.mapOrder (f : Order → Order) : RingRecord → RingRecord
  | .idle => .idle
  | .pending o => .pending (f o)
  | .claiming o p => .claiming (f o) p
  | .ringing o p b => .ringing (f o) p b

/-- Ring record of line `n`. -/
def State.ring (s : State) (n : Line) : RingRecord := (s.line n).ring

/-- `s` with the ring record of line `n` replaced. -/
def State.setRing (s : State) (n : Line) (r : RingRecord) : State := s.onLine n fun l => { l with ring := r }

/-- The own RINGING lines, in line order. -/
def State.ringingLines (s : State) : List Line := allLines.filter fun n => (s.ring n).isRinging

/-- The pending list: the PENDING lines in acceptance order (R39). -/
def State.pendingList (s : State) : List Line := s.sched.accepted.filter fun n => (s.ring n).isPending

/-- Acceptance sequence: the line's place in the acceptance order list, counted from 1 at the head (R38). -/
def State.acceptanceSequence (s : State) (n : Line) : Option Nat := (s.sched.accepted.idxOf? n).map (· + 1)

/-! ### Masks and totals -/

/-- The pattern turned later around the cycle by the offset: slot s is set when slot (s − o) mod 8 is set in the pattern (R13). -/
def rotatedMask (pattern : SlotSet) (o : Slot) : SlotSet := pattern.rotateLeft o.val

/-- A slot is in a set of slots. -/
def SlotSet.holds (m : SlotSet) (t : Slot) : Bool := m.getLsbD t.val

/-- The record's rotated mask holds slot `t`; a record without a placement rings in no slot (R37). -/
def RingRecord.rings (r : RingRecord) (t : Slot) : Bool :=
  match r.placement? with
  | some p => SlotSet.holds p.mask t
  | none => false

/-- The load of line `n` in slot `t`: its weight in the slots of its rotated mask, nothing elsewhere (R14). -/
def State.load (s : State) (n : Line) (t : Slot) : Nat := if (s.ring n).rings t then s.params.weight n else 0

/-- The totals of a set of lines (R15). -/
def State.totalsOf (s : State) (ls : List Line) : Totals := Vector.ofFn fun t => (ls.map fun n => s.load n t).sum

/-- The own totals: the RINGING lines (R15, R25). -/
def State.ownTotals (s : State) : Totals := s.totalsOf s.ringingLines

/-- The totals of a claim: the RINGING lines and the claiming line (R15, R48). -/
def State.claimTotals (s : State) (n : Line) : Totals := s.totalsOf (n :: s.ringingLines)

/-! ### What the view gives -/

/-- An entry's total for a slot; an absent station contributes nothing (R17). -/
def entryTotal (e : Option Entry) (t : Slot) : Nat :=
  match e with
  | some e => e.totals[t.val]
  | none => 0

/-- Sum of the totals for a slot of the present peer entries among these addresses. -/
def LoadTable.sumOver (b : LoadTable) (as : List PeerAddr) (t : Slot) : Nat := (as.map fun a => entryTotal b.peers[a.val] t).sum

/-- Peer addresses, lowest first. -/
def allPeers : List PeerAddr := List.finRange 24

/-- Shelf totals T: the sum over all present entries, the own among them (R27). -/
def LoadTable.shelfTotals (b : LoadTable) : Totals := Vector.ofFn fun t => b.own[t.val] + b.sumOver allPeers t

/-- The budgets stated by present peer entries (R28). -/
def LoadTable.statedBudgets (b : LoadTable) : List Nat := allPeers.filterMap fun a => b.peers[a.val].bind Entry.budget

/-- The effective budget: the smallest of the own configured budget and the stated ones (R28). -/
def LoadTable.effectiveBudget (b : LoadTable) (own : Nat) : Nat := b.statedBudgets.foldl min own

/-- BUDGET MISMATCH: a present peer entry holds a budget that differs from the own (R29). -/
def LoadTable.budgetMismatch (b : LoadTable) (own : Nat) : Bool := b.statedBudgets.any (· != own)

/-- The table with T, B and BUDGET MISMATCH recomputed from the entries as they stand (R30). -/
def LoadTable.recompute (b : LoadTable) (own : Nat) : LoadTable :=
  { b with shelf := b.shelfTotals, budget := b.effectiveBudget own, mismatch := b.budgetMismatch own }

/-- `s` with the load table replaced. -/
def State.setTable (s : State) (b : LoadTable) : State := { s with table := b }

/-- Own allowance for a slot that is over: B minus the totals of the present peer entries of lower address, not below 0 (R32). -/
def State.allowance (s : State) (t : Slot) : Nat :=
  s.table.budget - s.table.sumOver (allPeers.filter fun a => a.val < s.address) t

/-- The allowance of a slot that is over allowance; none for the other slots (R31, R32). -/
def State.overAllowance (s : State) (t : Slot) : Option Nat :=
  if s.table.budget < s.table.shelf[t.val] ∧ s.allowance t < s.table.own[t.val] then some (s.allowance t) else none

/-! ### Placement (R46, R47) -/

/-- A mask fits when every slot of it has total plus weight within the budget (R46). -/
def fits (totals : Totals) (budget weight : Nat) (m : SlotSet) : Bool :=
  allSlots.all fun t => !SlotSet.holds m t || totals[t.val] + weight ≤ budget

/-- Score: the largest total plus weight over the slots of the mask (R47). -/
def score (totals : Totals) (weight : Nat) (m : SlotSet) : Nat :=
  allSlots.foldl (fun best t => if SlotSet.holds m t then max best (totals[t.val] + weight) else best) 0

/-- The search order of a station: (A + k) mod 8 for k = 0 to 7 (R47). -/
def searchOrder (address : Nat) : List Slot := allSlots.map fun k => Fin.ofNat 8 (address + k.val)

/-- The better of the best fitting offset so far and one more offset: a strictly lower score wins (R47). -/
def betterOffset (totals : Totals) (budget weight : Nat) (pattern : SlotSet) (best : Option Placement) (o : Slot) :
    Option Placement :=
  let m := rotatedMask pattern o
  if fits totals budget weight m then
    match best with
    | none => some { offset := o, mask := m }
    | some b => if score totals weight m < score totals weight b.mask then some { offset := o, mask := m } else some b
  else best

/-- The placement computation: the fitting offset of lowest score, the earliest tried among equals; none when no offset fits
(R46, R47). -/
def placement (address : Nat) (totals : Totals) (budget weight : Nat) (pattern : SlotSet) : Option Placement :=
  (searchOrder address).foldl (betterOffset totals budget weight pattern) none

/-- The placement computation for line `n` with order `o` on the current view (R46). -/
def State.placementOf (s : State) (n : Line) (o : Order) : Option Placement :=
  placement s.address s.table.shelf s.table.budget (s.params.weight n) (s.params.pattern o.pattern)

end Sys2Proof.Machine
end

