-- ==== Sys2Proof/Machine/Scheduler.lean ====
section
/-! DEFINITION. The Ring Scheduler and the view changes of the Shelf Load Table as shared operations: placement attempts, claims,
re-validation, view changes, the overload check and shedding, release, trips and answers, expiry, link changes. -/

namespace Sys2Proof.Machine

/-- `s` with the scheduler's collections replaced. -/
def State.setSched (s : State) (d : Scheduler) : State := { s with sched := d }

/-- `s` with the claim token in another state (R41). -/
def State.setToken (s : State) (k : Token) : State := s.setSched { s.sched with token := k }

/-- A line leaves the acceptance order list (R38). -/
def State.leaveAccepted (s : State) (n : Line) : State := s.setSched { s.sched with accepted := s.sched.accepted.erase n }

/-- A line leaves the commit order list (R40). -/
def State.leaveCommits (s : State) (n : Line) : State := s.setSched { s.sched with commits := s.sched.commits.erase n }

/-- A line is added to the release mask (R150). -/
def State.oweRelease (s : State) (n : Line) : State :=
  { s with asm := { s.asm with releaseMask := s.asm.releaseMask ||| LineSet.single n } }

/-- An attempt of an own claim is in transmission (R53). -/
def State.claimInTransmission (s : State) : Bool :=
  match s.bus.attempt with
  | some a => match a.sent with
    | .claim _ => true
    | .release _ | .refresh | .report => false
  | none => false

/-! ### Placement attempts and claims (R44, R45, R48 to R51) -/

/-- The placement of a PENDING line on the current view, if an offset fits (R45). -/
def State.pendingPlacement (s : State) (n : Line) : Option Placement :=
  match s.ring n with
  | .pending o => s.placementOf n o
  | .idle | .claiming _ _ | .ringing _ _ _ => none

/-- The first line of a list that has a fitting offset, with its placement (R45). -/
def State.firstPlaceable (s : State) : List Line → Option (Line × Placement)
  | [] => none
  | n :: rest =>
    match s.pendingPlacement n with
    | some p => some (n, p)
    | none => s.firstPlaceable rest

/-- A PENDING line takes the token with a placement: CLAIMING, deferred-reported flag set, token HELD (R48). -/
def State.issueClaim (s : State) (n : Line) (p : Placement) : State :=
  match s.ring n with
  | .pending o => (s.setRing n (.claiming { o with deferred := true } p)).setToken (.held n)
  | .idle | .claiming _ _ | .ringing _ _ _ => s

/-- A placement attempt: it proceeds only when the station is JOINED and the token FREE (R44, R45). -/
def State.placementAttempt (s : State) : State :=
  if s.bus.link = .joined ∧ s.sched.token = .free then
    match s.firstPlaceable s.pendingList with
    | some (n, p) => s.issueClaim n p
    | none => s
  else s

/-- The token becomes FREE, which brings a placement attempt (R41, R44). -/
def State.freeToken (s : State) : State := (s.setToken .free).placementAttempt

/-- A claim whose held offset does not fit is placed afresh: a new offset, or the line back to PENDING with the token FREE (R50). -/
def State.replaceClaim (s : State) (n : Line) (o : Order) : State :=
  match s.placementOf n o with
  | some p => s.setRing n (.claiming o p)
  | none => (s.setRing n (.pending o)).freeToken

/-- Re-validation of a held claim: it stands while its offset fits the view, and is placed afresh otherwise (R49, R50, R51). A claim in
transmission is not tested. -/
def State.revalidate (s : State) : State :=
  match s.sched.token with
  | .held n =>
    if s.claimInTransmission then s
    else match s.ring n with
      | .claiming o p =>
        if fits s.table.shelf s.table.budget (s.params.weight n) p.mask then s else s.replaceClaim n o
      | .idle | .pending _ | .ringing _ _ _ => s
  | .free | .spent _ => s

/-! ### Overload and shedding (R31 to R34, R56) -/

/-- Slot `t` is still over its allowance, the own totals being reckoned over the lines `kept` (R33). -/
def State.stillOver (s : State) (allow : Slot → Option Nat) (kept : List Line) (t : Slot) : Bool :=
  match allow t with
  | some a => a < (s.totalsOf kept)[t.val]
  | none => false

/-- The walk of R33 over the commit order list from its end: a line whose mask holds a slot still over is shed, another is passed over,
and the walk stops when no slot is over. -/
def State.shedWalk (s : State) (allow : Slot → Option Nat) : List Line → List Line → List Line
  | _, [] => []
  | kept, n :: rest =>
    if allSlots.any (s.stillOver allow kept) then
      if allSlots.any fun t => s.stillOver allow kept t && (s.ring n).rings t then
        n :: s.shedWalk allow (kept.erase n) rest
      else s.shedWalk allow kept rest
    else []

/-- One RINGING line is shed: immediate feed request, back to PENDING with its order kept, out of the commit order list, owed a release,
RING SHED reported (R56). -/
def State.shedLine (s : State) (n : Line) : State :=
  match s.ring n with
  | .ringing o _ _ =>
    ((((s.onLine n (LineState.immediateFeed s.params.relay)).setRing n (.pending o)).leaveCommits n).oweRelease n).handEvent n
      .ringShed
  | .idle | .pending _ | .claiming _ _ => s

/-- The lines that the overload check sheds, in the order of the walk (R33). -/
def State.linesToShed (s : State) : List Line :=
  s.shedWalk s.overAllowance s.ringingLines s.sched.commits.reverse

/-- The load table with the own totals formed afresh and T, B and BUDGET MISMATCH recomputed (R25, R30). -/
def State.recomputeOwn (s : State) : State :=
  s.setTable ({ s.table with own := s.ownTotals }.recompute s.params.ring.budget)

/-- The overload check of a JOINED station with the shedding it calls for (R31, R33, R34). The shedding is one view change, which brings
a placement attempt; the check made again after it finds no slot over allowance (R34), so it is not run a second time. -/
def State.overloadCheck (s : State) : State :=
  if s.bus.link = .joined then
    match s.linesToShed with
    | [] => s
    | n :: rest => (((n :: rest).foldl State.shedLine s).recomputeOwn).placementAttempt
  else s

/-! ### View changes (R30) -/

/-- A view change: T, B and BUDGET MISMATCH are recomputed, the scheduler makes a placement attempt, a held claim is re-validated when
the change is a peer notice or a fall of B, and a JOINED station makes the overload check (R30). Each event of a millisecond brings its own, on
the view then standing (R24, DEDUCED, log 21). -/
def State.viewChange (s : State) (byPeerNotice : Bool) : State :=
  let t := (s.setTable (s.table.recompute s.params.ring.budget)).placementAttempt
  (if byPeerNotice || t.table.budget < s.table.budget then t.revalidate else t).overloadCheck

/-- The own entry's totals are recomputed; a change of any of them is a view change (R25, R30). -/
def State.ownLinesChanged (s : State) : State :=
  if s.ownTotals = s.table.own then s else (s.setTable { s.table with own := s.ownTotals }).viewChange false

/-! ### Ending ring work (R53 to R55, R57 to R61) -/

/-- A RINGING line is released: immediate feed request, IDLE, out of both lists, owed a release, own entry recomputed (R55). -/
def State.releaseLine (s : State) (n : Line) : State :=
  (((((s.onLine n (LineState.immediateFeed s.params.relay)).setRing n .idle).leaveCommits n).leaveAccepted n).oweRelease
    n).ownLinesChanged

/-- A CLAIMING line's claim ends: withdrawn with the token FREE, or left to run with the token SPENT while its attempt is in transmission
(R53, R54). -/
def State.endClaim (s : State) (n : Line) : State :=
  let t := (s.setRing n .idle).leaveAccepted n
  if s.claimInTransmission then t.setToken (.spent n) else t.freeToken

/-- The line's ring work ends by its ring state (R57, R58, R61). -/
def State.endRingWork (s : State) (n : Line) : State :=
  match s.ring n with
  | .idle => s
  | .pending _ => (s.setRing n .idle).leaveAccepted n
  | .claiming _ _ => s.endClaim n
  | .ringing _ _ _ => s.releaseLine n

/-- An answered line: OFF-HOOK, IN CALL, seize confirmation and dial-tone timer ended, raw states CLOSED, tone OFF with the dialled flag
kept (R77, R78, R111, R127). -/
def LineState.answered (l : LineState) : LineState :=
  { l with
    hook := { l.hook with raw := .all .closed, state := .offHook, mode := .inCall, seizeTimer := none, breakTimer := none,
                          dialTimer := none }
    tone := { l.tone with tone := none, suspended := none } }

/-- The place of a trip, by the ring state and the ring relay at that moment; none for an IDLE line (R76). -/
def LineState.tripPlace (l : LineState) : Option TripPlace :=
  match l.ring with
  | .idle => none
  | .pending _ | .claiming _ _ => some .beforeRing
  | .ringing _ _ _ => some (if l.relay.position = .ring then .on else .off)

/-- The Ring Scheduler takes a trip: ring work ended, RING TRIPPED with its place, the line answered; no effect on an IDLE line
(R59, R76, R77). -/
def State.takeTrip (s : State) (n : Line) : State :=
  match (s.line n).tripPlace with
  | none => s
  | some place => ((s.endRingWork n).handEvent n (.ringTripped place)).onLine n LineState.answered

/-- A line's order expires: ended by its ring state, RING EXPIRED reported by its rung flag (R61). -/
def State.expire (s : State) (n : Line) : State :=
  match (s.ring n).order? with
  | none => s
  | some o => (s.endRingWork n).handEvent n (.ringExpired o.rung)

/-- A PENDING line whose deferred-reported flag is clear reports RING DEFERRED, and the flag is set (R62). -/
def State.defer (s : State) (n : Line) : State :=
  match s.ring n with
  | .pending o =>
    if o.deferred then s else (s.setRing n (.pending { o with deferred := true })).handEvent n .ringDeferred
  | .idle | .claiming _ _ | .ringing _ _ _ => s

/-- The number of cycle starts in PENDING that brings RING DEFERRED (R62). -/
def deferralCycles : Nat := 8

/-- One line is examined after the counting of a cycle start: it expires at its limit, or reports deferral at its eighth cycle
start (R60). -/
def State.examineOrder (s : State) (n : Line) : State :=
  match (s.ring n).order? with
  | none => s
  | some o =>
    if o.limit ≤ o.elapsed then s.expire n else if o.elapsed = deferralCycles then s.defer n else s

/-- The work of a cycle start on the live orders: cycles elapsed raised, every line examined in line order, then a placement attempt (R60).
The attempt that an expiry's release or freed token brings (R44) is made at that expiry, before the next line is examined (log 23).
`examineOrder` does nothing to a line whose ring state was IDLE. -/
def State.countCycle (s : State) : State :=
  let t := s.mapLines fun l => { l with ring := l.ring.mapOrder fun o => { o with elapsed := o.elapsed + 1 } }
  (allLines.foldl State.examineOrder t).placementAttempt

/-- A RING order is accepted: PENDING with a new record, at the end of the acceptance order list; a placement attempt (R43). -/
def State.acceptRing (s : State) (n : Line) (pattern : Fin 8) (limit : Nat) : State :=
  let o : Order := { pattern := pattern, limit := if limit = 0 then s.params.ring.limit else limit, elapsed := 0,
                     deferred := false, rung := false }
  let t := s.setRing n (.pending o)
  (t.setSched { t.sched with accepted := t.sched.accepted ++ [n] }).placementAttempt

/-! ### Commit and the end of a claim's attempt (R52, R54) -/

/-- The claiming line is committed: RINGING with the claim's placement, at the end of the commit order list, rung flag set, token FREE,
own entry recomputed, RING PLACED reported (R52). -/
def State.commit (s : State) (n : Line) : State :=
  match s.ring n with
  | .claiming o p =>
    let t := (s.setRing n (.ringing { o with rung := true } p true)).setToken .free
    (((t.setSched { t.sched with commits := t.sched.commits ++ [n] }).ownLinesChanged).placementAttempt).handEvent n
      (.ringPlaced p.offset)
  | .idle | .pending _ | .ringing _ _ _ => s

/-- A claim notice of the own station has completed: committed while the token is HELD, owed a release while it is SPENT (R52, R54). -/
def State.claimCompleted (s : State) : State :=
  match s.sched.token with
  | .held n => s.commit n
  | .spent n => (s.oweRelease n).freeToken
  | .free => s

/-- An attempt of a claim ended by loss or clash: a SPENT claim is dropped and the token becomes FREE; a HELD one waits (R54, R149). -/
def State.claimNotCarried (s : State) : State :=
  match s.sched.token with
  | .spent _ => s.freeToken
  | .free | .held _ => s

/-! ### Slot starts (R16) -/

/-- A boundary is classed for one RINGING line and the Relay Sequencer asked accordingly; the line is no longer fresh (R16). -/
def LineState.classBoundary (p : RelayParams) (zcLost : Bool) (previous new : Slot) (l : LineState) : LineState :=
  match l.ring with
  | .ringing o q fresh =>
    let wasOn := !fresh && SlotSet.holds q.mask previous
    let isOn := SlotSet.holds q.mask new
    let m := { l with ring := .ringing o q false }
    if !wasOn && isOn then m.ringRequest p zcLost
    else if wasOn && !isOn then m.syncedFeed p zcLost
    else m
  | .idle | .pending _ | .claiming _ _ => l

/-! ### Link state (R63, R136 to R138) -/

/-- `s` with another link state and period count. -/
def State.setLink (s : State) (k : Link) (period : Nat) : State := s.setBus { s.bus with link := k, period := period }

/-- The station becomes JOINED: period count 2, a placement attempt, and then the overload check of a newly JOINED station (R31, R63, R137,
R138; the order of the two is the model's, log 22). -/
def State.join (s : State) : State := ((s.setLink .joined 2).placementAttempt).overloadCheck

/-- The station returns from ISLANDED: the recovered mark is set and it becomes JOINED (R137). -/
def State.rejoin (s : State) : State := (s.setBus { s.bus with recovered := true }).join

/-- A CLAIMING line goes back to PENDING with the token FREE when its station becomes ISLANDED (R63). -/
def State.dropClaim (s : State) : State :=
  match s.sched.token with
  | .held n =>
    match s.ring n with
    | .claiming o _ => (s.setRing n (.pending o)).setToken .free
    | .idle | .pending _ | .ringing _ _ _ => s.setToken .free
  | .free | .spent _ => s

/-- The station becomes ISLANDED from JOINED or LISTENING: clash count and period count 0, any claim dropped (R63, R136). -/
def State.island (s : State) : State :=
  match s.bus.link with
  | .joined | .listening => (s.setBus { s.bus with link := .islanded, period := 0, clashes := 0 }).dropClaim
  | .islanded | .silent => s

end Sys2Proof.Machine
end

