-- ==== Sys2Proof/Machine/Supervisor.lean ====
section
/-! DEFINITION. The Hook Supervisor and the Tone Generator as shared operations (Sections 6 and 7), and the commands SEIZE_CONFIRM,
GLITCH_LIMIT_REACHED, CLEAR, INTERDIGIT_MAKE, PERMANENT_LOOP and STUTTER_ADVANCE. -/

namespace Sys2Proof.Machine

/-- A limit in milliseconds as an eighth-millisecond sum (R100). -/
def eighths (ms : Nat) : Nat := 8 * ms

/-- A raw loop state enters as the newest entry; HOLD (none) enters as a copy of the newest, also where the three differ (R88, R99, log 25). -/
def RawStates.enter (r : RawStates) (x : Option Loop) : RawStates :=
  { oldest := r.middle, middle := r.newest, newest := x.getD r.newest }

/-- The debounced loop state: the state held by at least two of the three entries (R99). -/
def RawStates.debounced (r : RawStates) : Loop :=
  if r.oldest = r.middle ∨ r.oldest = r.newest then r.oldest else r.middle

/-- The debounced loop state of a line (R99). -/
def LineState.loop (l : LineState) : Loop := l.hook.raw.debounced

/-- A train is in progress while the pulse count is 1 or more (R107). -/
def HookRecord.inTrain (h : HookRecord) : Bool := h.pulses != 0

/-- `s` with line `n`'s hook record changed. -/
def State.onHook (s : State) (n : Line) (f : HookRecord → HookRecord) : State :=
  s.onLine n fun l => { l with hook := f l.hook }

/-- `s` with line `n`'s tone record changed. -/
def State.onTone (s : State) (n : Line) (f : ToneRecord → ToneRecord) : State :=
  s.onLine n fun l => { l with tone := f l.tone }

/-! ### Tone (Section 7) -/

/-- The line is given this tone, and its suspended tone is cleared (R125 to R127). -/
def ToneRecord.give (t : ToneRecord) (x : Option Tone) : ToneRecord := { t with tone := x, suspended := none }

/-- Recall tone from the start of its stutter (R125). -/
def Tone.recallStart : Tone := .recall (.burst 0) 0

/-- A break has lasted the glitch limit: a tone is stopped and held as the suspended tone (R122). -/
def ToneRecord.suspend (t : ToneRecord) : ToneRecord :=
  match t.tone with
  | none => t
  | some x => { t with tone := none, suspended := some x }

/-- A break has ended with a pulse or a flash (R123). -/
def ToneRecord.breakWithEvent (t : ToneRecord) : ToneRecord := { t with suspended := none }

/-- A break has ended without an event: the suspended tone returns unless a digit has been dialled (R123). -/
def ToneRecord.breakWithoutEvent (t : ToneRecord) : ToneRecord :=
  match t.suspended with
  | none => t
  | some x => if t.dialled then { t with suspended := none } else { t with tone := some x, suspended := none }

/-- Tone at a seizure: dialled flag and suspended tone cleared; DIAL with 3 or more queue entries free, WITHHELD otherwise (R120). -/
def State.toneAtSeizure (s : State) (n : Line) : State :=
  s.onTone n fun _ =>
    { tone := some (if 3 ≤ s.freeCount then .dial else .withheld), suspended := none, dialled := false }

/-- The next stutter phase: 1 to 6, then CONTINUOUS (R125). -/
def StutterPhase.next : StutterPhase → StutterPhase
  | .burst k => if h : k.val + 1 < 6 then .burst ⟨k.val + 1, h⟩ else .continuous
  | .continuous => .continuous

/-! ### Digits (R108, R110) -/

/-- The digit store holds at most 16 digits (R110). -/
def storeSize : Nat := 16

/-- The pulse count stops at 15 (R107). -/
def pulseCountMax : Nat := 15

/-- A digit enters the store, or is dropped with the digits-lost flag set when the store is full; the dial-tone timer stops and the
dialled flag is set (R108, R110, R111, R124). -/
def LineState.storeDigit (d : Digit) (l : LineState) : LineState :=
  { l with
    hook :=
      if l.hook.digits.length < storeSize then { l.hook with digits := l.hook.digits ++ [d], dialTimer := none }
      else { l.hook with digitsLost := true, dialTimer := none }
    tone := { l.tone with dialled := true } }

/-- The train is completed: as a digit, 10 pulses giving 0, or as DIGIT ERROR for 11 or more; pulse count 0, make timer stopped (R108). -/
def State.completeTrain (s : State) (n : Line) : State :=
  let c := (s.line n).hook.pulses
  let t := s.onHook n fun h => { h with pulses := 0, makeTimer := none }
  if c ≤ 10 then (t.onLine n (LineState.storeDigit (Fin.ofNat 10 c))).takeDigits true n else t.handEvent n (.digitError c)

/-! ### Seizure, breaks and clears (R101 to R109) -/

/-- SEIZING begins with the seize timer at 0 (R101). -/
def State.beginSeizing (s : State) (n : Line) : State := s.onHook n fun h => { h with state := .seizing, seizeTimer := some 0 }

/-- The seizure fails: ON-HOOK, the seize timer stopped, nothing reported (R102). -/
def State.failSeizure (s : State) (n : Line) : State := s.onHook n fun h => { h with state := .onHook, seizeTimer := none }

/-- The closure is confirmed: a trip for a line with ring work; otherwise SEIZE, the dial-tone timer from 0, and tone by R120
(R76, R102, R111). -/
def State.confirmSeizure (s : State) (n : Line) : State :=
  let t := s.onHook n fun h => { h with state := .offHook, seizeTimer := none }
  if (s.ring n).isIdle then
    ((t.handEvent n .seize).onHook n fun h => { h with dialTimer := some 0 }).toneAtSeizure n
  else t.takeTrip n

/-- A SEIZING line at a window end whose seize timer has reached the seize confirm: the debounced state is tested first (R102). -/
def State.trySeize (s : State) (n : Line) : State :=
  match (s.line n).loop with
  | .opened => s.failSeizure n
  | .closed => s.confirmSeizure n

/-- The Tone Generator is told that the break has lasted the glitch limit (R104, R122). -/
def State.tellGlitchLimit (s : State) (n : Line) : State :=
  (s.onHook n fun h => { h with glitchTold := true }).onTone n ToneRecord.suspend

/-- The glitch limit is told at the first window end of the break at which the break timer has reached it (R104). -/
def State.testGlitchLimit (s : State) (n : Line) : State :=
  let h := (s.line n).hook
  match h.breakTimer with
  | some d => if eighths s.params.timing.glitch ≤ d ∧ h.glitchTold = false then s.tellGlitchLimit n else s
  | none => s

/-- A break begins: BREAK with the break timer at 0 (R104). -/
def State.beginBreak (s : State) (n : Line) : State :=
  (s.onHook n fun h => { h with state := .brk, breakTimer := some 0, glitchTold := false }).testGlitchLimit n

/-- A pulse is counted, and the make timer starts at 0 (R107). -/
def HookRecord.countPulse (h : HookRecord) : HookRecord :=
  { h with pulses := min pulseCountMax (h.pulses + 1), makeTimer := some 0 }

/-- A flash: the train completed first, then FLASH, the dial-tone timer stopped, and recall tone where the flash mode says so
(R109, R123, R125). -/
def State.takeFlash (s : State) (n : Line) : State :=
  let t := if (s.line n).hook.inTrain then s.completeTrain n else s
  let t := (t.onTone n ToneRecord.breakWithEvent).handEvent n .flash
  let t := t.onHook n fun h => { h with dialTimer := none, pulses := 0, makeTimer := none }
  match s.params.flashMode n with
  | .recall => t.onTone n fun x => x.give (some .recallStart)
  | .report => t

/-- The class of a break that ended in a make (R105). -/
inductive BreakClass where
  | glitch
  | pulse
  | ambiguous
  | flash
  deriving DecidableEq, Repr

/-- The class of a break of length `d` eighth-milliseconds (R105). -/
def breakClass (t : TimingParams) (d : Nat) : BreakClass :=
  if d < eighths t.glitch then .glitch
  else if d ≤ eighths t.pulseMax then .pulse
  else if d < eighths t.flashMin then .ambiguous
  else .flash

/-- A break of length `d` ends in a make: it is classed and acted upon, and the line is OFF-HOOK again (R104, R105). -/
def State.endBreak (s : State) (n : Line) (d : Nat) : State :=
  let pulse := (s.onHook n HookRecord.countPulse).onTone n ToneRecord.breakWithEvent
  let nothing := s.onTone n ToneRecord.breakWithoutEvent
  let t := match breakClass s.params.timing d with
    | .glitch => nothing
    | .pulse => pulse
    | .ambiguous => if (s.line n).hook.inTrain then pulse else nothing
    | .flash => s.takeFlash n
  t.onHook n fun h => { h with state := .offHook, breakTimer := none }

/-- A clear is declared: train discarded, ON-HOOK, FREE, timers stopped, tone OFF, CLEAR reported; a closure found at the same window end
begins SEIZING (R106, R127). -/
def State.declareClear (s : State) (n : Line) : State :=
  let t := s.onLine n fun l =>
    { l with
      hook := { l.hook with state := .onHook, mode := .free, pulses := 0, makeTimer := none, breakTimer := none, dialTimer := none }
      tone := { tone := none, suspended := none, dialled := false } }
  let t := t.handEvent n .clear
  match (s.line n).loop with
  | .closed => t.beginSeizing n
  | .opened => t

/-- The make timer of a train in progress has reached the interdigit make (R108). -/
def State.trainDue (s : State) (n : Line) : Bool :=
  let h := (s.line n).hook
  h.inTrain && match h.makeTimer with
    | some t => eighths s.params.timing.interdigit ≤ t
    | none => false

/-- OFF-HOOK at a window end: a due train is completed, then an open loop begins a break (R104, R108). -/
def State.offHookWindow (s : State) (n : Line) (due : Bool) : State :=
  let t := if due then s.completeTrain n else s
  match (s.line n).loop with
  | .opened => t.beginBreak n
  | .closed => t

/-- BREAK at a window end, its timer standing at `d`: glitch limit, then clear, then make (R104). -/
def State.breakWindow (s : State) (n : Line) (d : Nat) : State :=
  let t := s.testGlitchLimit n
  if eighths s.params.timing.flashMax < d then t.declareClear n
  else match (s.line n).loop with
    | .closed => t.endBreak n d
    | .opened => t

/-- The running timers of a line advance by the length of the window that has ended (R100). -/
def HookRecord.advance (w : Nat) (h : HookRecord) : HookRecord :=
  { h with seizeTimer := h.seizeTimer.map (· + w), breakTimer := h.breakTimer.map (· + w), makeTimer := h.makeTimer.map (· + w) }

/-- The supervisor's one pass over a line at a window end: the raw state, the timers, then the rules of its hook state. A PARKED line takes
no raw state (R99, R115). -/
def State.superviseWindow (s : State) (n : Line) (w : Nat) (raw : Option Loop) : State :=
  if (s.line n).hook.mode = .parked then s
  else
    let t := s.onHook n fun h => { h.advance w with raw := h.raw.enter raw }
    let l := t.line n
    match l.hook.state with
    | .onHook =>
      match l.loop with
      | .closed => t.beginSeizing n
      | .opened => t
    | .seizing =>
      match l.loop with
      | .opened => t.failSeizure n
      | .closed => if eighths s.params.timing.seizeConfirm ≤ l.hook.seizeTimer.getD 0 then t.confirmSeizure n else t
    | .offHook => t.offHookWindow n (t.trainDue n)
    | .brk => t.breakWindow n (l.hook.breakTimer.getD 0)

/-! ### Parking (R115) -/

/-- A line enters PARKED: ON-HOOK, timers stopped, train discarded, digit store emptied, tone OFF (R115, R127). -/
def LineState.park (l : LineState) : LineState :=
  { l with
    hook := { l.hook with state := .onHook, mode := .parked, seizeTimer := none, breakTimer := none, makeTimer := none,
                          dialTimer := none, pulses := 0, digits := [], digitsLost := false }
    tone := { tone := none, suspended := none, dialled := false } }

/-- A line leaves PARKED: FREE, ON-HOOK, raw states OPEN (R115). -/
def LineState.unpark (l : LineState) : LineState :=
  { l with hook := { l.hook with raw := .all .opened, state := .onHook, mode := .free } }

/-! ### The commands -/

/-- SEIZE_CONFIRM: the seize timer of a SEIZING line reaches the seize confirm (R102). A line that is not SEIZING has no seizure to confirm,
and nothing changes (log 4). -/
def execSeizeConfirm (n : Line) (s : State) : Result :=
  .next <| if s.serves n && (s.line n).hook.state == .seizing then s.trySeize n else s

/-- GLITCH_LIMIT_REACHED: a break reaches the glitch limit, for the first time (R104, R122). -/
def execGlitchLimitReached (n : Line) (s : State) : Result :=
  .next <|
    if s.serves n && (s.line n).hook.state == .brk && !(s.line n).hook.glitchTold then
      (s.onHook n fun h =>
        { h with breakTimer := some (max (h.breakTimer.getD 0) (eighths s.params.timing.glitch)) }).tellGlitchLimit n
    else s

/-- CLEAR: the break timer of a line in BREAK passes the flash maximum (R106). -/
def execClear (n : Line) (s : State) : Result :=
  .next <| if s.serves n && (s.line n).hook.state == .brk then s.declareClear n else s

/-- INTERDIGIT_MAKE: the make timer of an OFF-HOOK line with a train reaches the interdigit make; an open loop then begins a break
(R104, R108). -/
def execInterdigitMake (n : Line) (s : State) : Result :=
  .next <| if s.serves n && (s.line n).hook.state == .offHook && (s.line n).hook.inTrain then s.offHookWindow n true else s

/-- PERMANENT_LOOP: the running dial-tone timer reaches the timeout; it stops, PERMANENT LOOP is reported, the tone is turned off
(R111, R127). -/
def execPermanentLoop (n : Line) (s : State) : Result :=
  .next <|
    if s.serves n && (s.line n).hook.dialTimer.isSome then
      ((s.onHook n fun h => { h with dialTimer := none }).handEvent n .permanentLoop).onTone n fun t => t.give none
    else s

/-- STUTTER_ADVANCE: the stutter timer of a line in RECALL reaches 100 ms; the next phase begins at 0 (R125). In CONTINUOUS the timer has stopped and
holds 0 (log 26). -/
def execStutterAdvance (n : Line) (s : State) : Result :=
  .next <|
    if s.serves n then
      s.onTone n fun t =>
        match t.tone with
        | some (.recall p _) => { t with tone := some (.recall p.next 0) }
        | some .withheld | some .dial | none => t
    else s

end Sys2Proof.Machine
end

