-- ==== Sys2Proof/Machine/StartUp.lean ====
section
/-! DEFINITION. The Start-up Loader: checking the image (R169), validating each group (R170), the end of loading (R172), and the commands
RESET, END_OF_LOADING and RESET_ASSERTED. -/

namespace Sys2Proof.Machine

/-- Byte `k` of an image as a number. -/
def imageByte (image : List Byte) (k : Nat) : Nat := (image.getD k 0#8).toNat

/-- The two-byte value at byte `k`, most significant byte first (10-3). -/
def imageWord (image : List Byte) (k : Nat) : Nat := 256 * imageByte image k + imageByte image (k + 1)

/-- The image as a whole: signature 4DH, 32H in bytes 0 and 1, byte 47 the CRC-8 of bytes 0 to 46 (R169). -/
def imageOk (image : List Byte) : Bool :=
  image.getD 0 0#8 == 0x4D#8 && image.getD 1 0#8 == 0x32#8 && image.getD 47 0#8 == crc8 (image.take 47)

/-- The ring group as stored, bytes 2 to 11 (10-3). -/
def storedRing (i : List Byte) : RingParams :=
  { budget := imageByte i 2, limit := imageByte i 3, patterns := Vector.ofFn fun k => i.getD (4 + k.val) 0#8 }

/-- The ring group passes (R170). -/
def ringOk (p : RingParams) : Bool := 1 ≤ p.budget && p.budget ≤ 48 && 1 ≤ p.limit && p.limit ≤ 63

/-- The line group as stored, bytes 12 to 19: flash mode in bit 7, weight in bits 2 to 0 (10-3). -/
def storedLine (i : List Byte) : LineParams :=
  { weights := Vector.ofFn fun n => imageByte i (12 + n.val) % 8
    flash := Vector.ofFn fun n => if 128 ≤ imageByte i (12 + n.val) then .recall else .report }

/-- The line group passes: every weight 1 to 4 (R170). -/
def lineOk (p : LineParams) : Bool := allLines.all fun n => 1 ≤ p.weights[n.val] && p.weights[n.val] ≤ 4

/-- The timing group as stored, bytes 20 to 26: units of 4 ms and, for the dial-tone timeout, seconds (10-3). -/
def storedTiming (i : List Byte) : TimingParams :=
  { seizeConfirm := 4 * imageByte i 20, glitch := 4 * imageByte i 21, pulseMax := 4 * imageByte i 22,
    flashMin := 4 * imageByte i 23, flashMax := 4 * imageByte i 24, interdigit := 4 * imageByte i 25,
    dialTimeout := imageByte i 26 }

/-- The timing group passes (R170). -/
def timingOk (p : TimingParams) : Bool :=
  p.glitch < p.pulseMax && p.pulseMax < p.flashMin && p.flashMin ≤ p.flashMax && p.pulseMax < p.interdigit
    && 16 ≤ p.seizeConfirm && 5 ≤ p.dialTimeout && p.dialTimeout ≤ 60

/-- The thresholds group as stored, bytes 27 to 34 (10-3). -/
def storedThreshold (i : List Byte) : ThresholdParams :=
  { leak := imageWord i 27, onHook := imageWord i 29, offHook := imageWord i 31, trip := imageWord i 33 }

/-- The thresholds group passes (R91, R170). -/
def thresholdOk (p : ThresholdParams) : Bool :=
  p.leak < p.onHook && p.onHook < p.offHook && p.offHook ≤ p.trip && p.trip ≤ 4095

/-- The relay and sense group as stored, bytes 35 to 37 (10-3). -/
def storedRelay (i : List Byte) : RelayParams :=
  { deadTime := imageByte i 35, settle := imageByte i 36, tripConfirm := imageByte i 37 }

/-- The relay and sense group passes (R170). -/
def relayOk (p : RelayParams) : Bool :=
  4 ≤ p.deadTime && p.deadTime ≤ 60 && 1 ≤ p.settle && p.settle ≤ 4 && 2 ≤ p.tripConfirm && p.tripConfirm ≤ 8

/-- The tone group as stored, bytes 38 to 40 (10-3). -/
def storedTone (i : List Byte) : ToneParams := { frequency := imageWord i 38, level := imageByte i 40 }

/-- The tone group passes (R170). -/
def toneOk (p : ToneParams) : Bool := 300 ≤ p.frequency && p.frequency ≤ 500 && 1 ≤ p.level && p.level ≤ 7

/-- The parameters of an image that passed R169: each group its stored values when it passes, its defaults when it fails (R170). -/
def validatedParams (i : List Byte) : Params :=
  { ring := if ringOk (storedRing i) then storedRing i else .default
    line := if lineOk (storedLine i) then storedLine i else .default
    timing := if timingOk (storedTiming i) then storedTiming i else .default
    threshold := if thresholdOk (storedThreshold i) then storedThreshold i else .default
    relay := if relayOk (storedRelay i) then storedRelay i else .default
    tone := if toneOk (storedTone i) then storedTone i else .default }

/-- The group defaulted marks of an image that passed R169 (R170). -/
def groupMarks (i : List Byte) : GroupMarks :=
  { ring := !ringOk (storedRing i), line := !lineOk (storedLine i), timing := !timingOk (storedTiming i),
    threshold := !thresholdOk (storedThreshold i), relay := !relayOk (storedRelay i), tone := !toneOk (storedTone i) }

/-- `s` with the loader and the parameters replaced. -/
def State.setConfig (s : State) (l : Loader) (p : Params) : State := { s with loader := l, params := p }

/-- The loader has what the memory gave: with CFGP low every default and no mark (R166); no answer, or an image that fails R169, every
default and the image rejected mark; otherwise each group by R170. -/
def State.configure (s : State) (a : MemoryAnswer) : State :=
  if s.straps.cfgp then
    match a with
    | .silent => s.setConfig { s.loader with rejected := true } .default
    | .image bytes =>
      if imageOk bytes then
        s.setConfig { s.loader with image := bytes, defaulted := groupMarks bytes } (validatedParams bytes)
      else s.setConfig { s.loader with image := bytes, rejected := true } .default
  else s.setConfig s.loader .default

/-- The dead-time timer of a line starts from 0 (R73). -/
def LineState.startDeadTime (l : LineState) : LineState := { l with relay := { l.relay with deadTimer := 0, deadRunning := true } }

/-- Every block begins its work with its parameters: the own entry alone with totals 0, the first window, the dead-time timers of the
lines in use, the tone wave (R35, R73, R95, R118, R172). -/
def State.beginWork (s : State) : State :=
  let own : LoadTable := { LoadTable.reset with budget := s.params.ring.budget }
  let t := { s with phase := .running, table := own, sense := .reset, tonePhase := 0 }
  (allLines.filter t.inUse).foldl (fun t n => t.onLine n LineState.startDeadTime) t

/-! ### The commands -/

/-- RESET: RST is not asserted, the strap pins have these levels and are sampled; every block takes its reset state and loading begins
(R166, R167). -/
def execReset (address : BitVec 5) (l8 cfgp : Bool) (s : State) : Result :=
  .next (State.atReset .loading { address := address, l8 := l8, cfgp := cfgp }
    { s.pins with address := address, l8 := l8, cfgp := cfgp, rst := false } s.order s.pending)

/-- END_OF_LOADING: every block takes its parameters and begins work (R172). Outside loading there is none to end, and nothing changes
(log 4). -/
def execEndOfLoading (a : MemoryAnswer) (s : State) : Result :=
  .next <| if s.phase = .loading then (s.configure a).beginWork else s

/-- RESET_ASSERTED: RST is asserted; every block is held at its reset values, NB and ALM are released, the relays open and an attempt is cut
off (R73, R146, R173). -/
def execResetAsserted (s : State) : Result :=
  .next (State.atReset .held s.straps { s.pins with rst := true } s.order s.pending)

end Sys2Proof.Machine
end

