-- ==== Sys2Proof/Machine/RingCycle.lean ====
section
/-! DEFINITION. The Cadence Timer's commands (Section 1) and the events of a cycle start: SLOT_END, CYCLE_MARKER, MARKER_WINDOW_OPENS,
MARKER_WINDOW_CLOSES, MARKER_LOST, ZERO_CROSS_MARK, ZC_LOST, RING_EXPIRY, RING_DEFERRAL, ENTRY_AGED_OUT, LISTEN_PERIOD_END and
ISLANDED_PERIOD_END. -/

namespace Sys2Proof.Machine

/-- `s` with the Cadence Timer replaced. -/
def State.setCadence (s : State) (c : Cadence) : State := { s with cadence := c }

/-! ### What each block does at a slot start (R2) -/

/-- An entry a cycle start older; one whose age would reach 4 is removed (R23). -/
def Entry.older (e : Entry) : Option Entry := if 3 ≤ e.age then none else some { e with age := e.age + 1 }

/-- The table with every peer entry a cycle start older (R23). -/
def LoadTable.aged (b : LoadTable) : LoadTable := { b with peers := b.peers.map fun e => e.bind Entry.older }

/-- Some peer entry would reach age 4 (R23). -/
def LoadTable.removesSome (b : LoadTable) : Bool :=
  allPeers.any fun a => match b.peers[a.val] with
    | some e => 3 ≤ e.age
    | none => false

/-- Ageing at a cycle start: a view change when entries are removed; the overload check of a JOINED station in either case (R23, R31). -/
def State.ageView (s : State) : State :=
  let t := s.setTable s.table.aged
  if s.table.removesSome then t.viewChange false else t.overloadCheck

/-- A refresh attempt is in transmission (R151). -/
def State.refreshInTransmission (s : State) : Bool :=
  match s.bus.attempt with
  | some a => a.sent == .refresh
  | none => false

/-- The refresh state one step on: NONE to DUE, DUE to ESCALATED (R151). -/
def RefreshState.onward : RefreshState → RefreshState
  | .none => .due
  | .due => .escalated
  | .escalated => .escalated

/-- `s` with the Notice Assembler replaced. -/
def State.setAsm (s : State) (a : Assembler) : State := { s with asm := a }

/-- A refresh falls due at the slot start of slot (own address mod 8) (R151). -/
def State.refreshFallsDue (s : State) (new : Slot) : State :=
  if new.val = s.address % 8 then
    s.setAsm { s.asm with refresh := s.asm.refresh.onward, dueInAttempt := s.asm.dueInAttempt || s.refreshInTransmission }
  else s

/-- A cycle start is counted toward the listen or islanded period, and the second ends it (R137, R138). -/
def State.countPeriod (s : State) : State :=
  match s.bus.link with
  | .listening => if 1 ≤ s.bus.period then s.join else s.setLink .listening (s.bus.period + 1)
  | .islanded => if 1 ≤ s.bus.period then s.rejoin else s.setLink .islanded (s.bus.period + 1)
  | .joined | .silent => s

/-- The Relay Sequencer is directed for every RINGING line (R16). -/
def State.directRelays (s : State) (previous new : Slot) : State :=
  s.mapLines (LineState.classBoundary s.params.relay s.cadence.zcLost previous new)

/-- The tasks that blocks take a slot start for (R2). -/
inductive SlotTask where
  /-- Ring Scheduler: directing the Relay Sequencer. -/
  | direct
  /-- Ring Scheduler: ring limits and deferral. -/
  | count
  /-- Shelf Load Table: ageing and overload check. -/
  | age
  /-- Notice Assembler: a refresh falling due. -/
  | refresh
  /-- Notice Bus Interface: listen and islanded periods. -/
  | link
  deriving DecidableEq, Repr

/-- One task of a slot start from `previous` to `new`. -/
def State.slotTask (previous new : Slot) (s : State) : SlotTask → State
  | .direct => s.directRelays previous new
  | .count => s.countCycle
  | .age => s.ageView
  | .refresh => s.refreshFallsDue new
  | .link => s.countPeriod

/-- The tasks of a slot start for slot `new`: a start of slot 0 is a cycle start (R1). While loading only the Notice Bus Interface counts
(R138). -/
def State.slotTasks (s : State) (new : Slot) : List SlotTask :=
  if s.running then
    if new = 0 then [.direct, .count, .age, .refresh, .link] else [.direct, .refresh]
  else if new = 0 then [.link] else []

/-- A slot start: each block takes it, in the order that `order.slot` names (R2, log 3). -/
def State.slotStart (s : State) (previous new : Slot) : State :=
  (permute s.order.slot (s.slotTasks new)).foldl (State.slotTask previous new) s

/-- A slot boundary to slot `new`: the slot timer begins again at 0, short of every window's close, and a slot start is issued (R1, R4, R6). -/
def State.boundary (s : State) (new : Slot) : State :=
  (s.setCadence { s.cadence with slot := new, slotTimer := 0, past := false }).slotStart s.cadence.slot new

/-- A slot lasts 500 ms (R1). -/
def slotLength : Nat := 500

/-- The marker window opens at 460 ms of slot 7 (R7). -/
def windowOpensAt : Nat := 460

/-- The marker window holds slot 0 up to 40 ms (R3, R7). -/
def lateUpTo : Nat := 40

/-- The first reading of slot 0's timer that is past 40 ms (R7, log 8). -/
def pastWindow : Nat := 41

/-- The class of a cycle marker (R3). -/
inductive MarkerClass where
  | early
  | late
  | outside
  deriving DecidableEq, Repr

/-- A marker is classed by slot number and slot timer alone (R3). -/
def Cadence.markerClass (c : Cadence) : MarkerClass :=
  if c.slot = 7 ∧ windowOpensAt ≤ c.slotTimer then .early
  else if c.slot = 0 ∧ c.slotTimer ≤ lateUpTo then .late
  else .outside

/-- A marker taken, whatever its class: marker met, missed count 0, MARKER LOST clear (R3). -/
def Cadence.markerTaken (c : Cadence) : Cadence := { c with markerMet := true, missed := 0, markerLost := false }

/-- The window closes: a missed window raises the missed count, and a count of 2 sets MARKER LOST (R7). -/
def Cadence.closeWindow (c : Cadence) : Cadence :=
  if c.markerMet then { c with past := true }
  else { c with past := true, missed := min 2 (c.missed + 1), markerLost := c.markerLost || 1 ≤ c.missed }

/-- The marker window closes (R7). -/
def State.closeWindow (s : State) : State := s.setCadence s.cadence.closeWindow

/-- Slot 0's timer reads 40 ms, the last reading of its marker window, which has not closed (R3, R7). -/
def Cadence.closing (c : Cadence) : Bool := c.slot == 0 && c.slotTimer == lateUpTo && !c.past

/-- Where slot 0's timer reads 40 ms and is about to pass it, its marker window closes (R7, R9, log 8). -/
def State.closeDue (s : State) : State := if s.cadence.closing then s.closeWindow else s

/-! ### The commands -/

/-- SLOT_END (R1). -/
def execSlotEnd (s : State) : Result := .next <| if s.active then s.boundary (s.cadence.slot + 1) else s

/-- CYCLE_MARKER: early and outside markers make a boundary to slot 0, a late one restarts slot 0 with no slot start (R3 to R6). -/
def execCycleMarker (s : State) : Result :=
  .next <|
    if s.active then
      let t := s.setCadence s.cadence.markerTaken
      match s.cadence.markerClass with
      | .early => t.boundary 0
      | .late => t.setCadence { t.cadence with slotTimer := 0, past := false }
      | .outside => t.boundary 0
    else s

/-- MARKER_WINDOW_OPENS: the slot timer of slot 7 reaches 460 ms and the marker-met flag is cleared (R7). In another slot no window opens
(log 4). -/
def execMarkerWindowOpens (s : State) : Result :=
  .next <|
    if s.active && s.cadence.slot == 7 then
      s.setCadence { s.cadence with slotTimer := max s.cadence.slotTimer windowOpensAt, markerMet := false }
    else s

/-- MARKER_WINDOW_CLOSES: the slot timer of slot 0 passes 40 ms, and the flag is examined where the clock has not done so; a marker that follows realigns
(R7). In another slot, and in a slot 0 already past 40 ms with its window closed, nothing changes (log 4). -/
def execMarkerWindowCloses (s : State) : Result :=
  .next <|
    if s.active && s.cadence.slot == 0 then
      let t := s.setCadence { s.cadence with slotTimer := max s.cadence.slotTimer pastWindow }
      if s.cadence.past then t else t.closeWindow
    else s

/-- MARKER_LOST: the missed-marker count reaches 2 and MARKER LOST is set (R7, R8). -/
def execMarkerLost (s : State) : Result :=
  .next <| if s.active then s.setCadence { s.cadence with missed := 2, markerLost := true } else s

/-- ZERO_CROSS_MARK: the zero-cross timer is 0, ZC LOST clears, and every relay sequence takes a zero-cross event (R10, R68, R69). -/
def execZeroCrossMark (s : State) : Result :=
  .next <|
    if s.active then
      (s.setCadence { s.cadence with zcTimer := 0, zcLost := false }).mapLines (LineState.switchRing s.params.relay)
    else s

/-- The zero-cross timer stops at 60 ms (R11). -/
def zcLimit : Nat := 60

/-- ZC_LOST: the zero-cross timer reaches 60 ms, ZC LOST is set and every waiting movement is made (R11, R68, R69). -/
def execZcLost (s : State) : Result :=
  .next <|
    if s.active then
      (s.setCadence { s.cadence with zcTimer := zcLimit, zcLost := true }).mapLines (LineState.switchRing s.params.relay)
    else s

/-- RING_EXPIRY: the cycles elapsed of a line's order reach its ring limit (R61). An IDLE line has no order to expire (log 4). -/
def execRingExpiry (n : Line) (s : State) : Result :=
  .next <|
    if s.serves n then (s.setRing n ((s.ring n).mapOrder fun o => { o with elapsed := o.limit })).expire n else s

/-- RING_DEFERRAL: a PENDING line reaches its eighth cycle start unplaced (R62). A line that is not PENDING, whose flag is set, or whose ring
limit is 8 or less has none to report (log 4). -/
def execRingDeferral (n : Line) (s : State) : Result :=
  .next <|
    match s.ring n with
    | .pending o =>
      if s.serves n ∧ deferralCycles < o.limit ∧ o.deferred = false then
        (s.setRing n (.pending { o with elapsed := max o.elapsed deferralCycles })).defer n
      else s
    | .idle | .claiming _ _ | .ringing _ _ _ => s

/-- ENTRY_AGED_OUT: a peer entry whose age would reach 4 is removed, which is a view change (R23, R30). -/
def execEntryAgedOut (a : PeerAddr) (s : State) : Result :=
  .next <|
    if s.running && s.table.peers[a.val].isSome then
      (s.setTable { s.table with peers := s.table.peers.set a.val none }).viewChange false
    else s

/-- LISTEN_PERIOD_END: the second cycle start after reset makes a LISTENING station JOINED (R138). -/
def execListenPeriodEnd (s : State) : Result := .next <| if s.active && s.bus.link == .listening then s.join else s

/-- ISLANDED_PERIOD_END: the second cycle start after islanding makes the station JOINED and sets the recovered mark (R137). -/
def execIslandedPeriodEnd (s : State) : Result := .next <| if s.active && s.bus.link == .islanded then s.rejoin else s

end Sys2Proof.Machine
end

