-- ==== Sys2Proof/Machine/Sensing.lean ====
section
/-! DEFINITION. The Loop Sense Unit (Section 5): readings, classification, leak and trip evidence, and the commands WINDOW_END, RING_TRIP,
LEAK_ON, LEAK_OFF and SENSE_PULSE_EDGE. -/

namespace Sys2Proof.Machine

/-- The largest count and the largest reading (R82, R85). -/
def readingMax : Nat := 4095

/-- Window lengths in eighth-milliseconds by dither index (5-2). -/
def windowLengths : Vector Nat 8 := #v[32, 28, 36, 30, 34, 29, 35, 32]

/-- Length of the current window (R83). -/
def State.windowLength (s : State) : Nat := windowLengths[s.sense.dither.val]

/-- Value of the reading of raw count `c` in a window of length `w`: 4095 when saturated, else the whole part of (64 c + w) / (2 w), at most
4095 (R85). -/
def readingOf (c w : Nat) : Nat := if c = readingMax then readingMax else min readingMax ((64 * c + w) / (2 * w))

/-- Raw loop state of a window: by the thresholds in feed position, HOLD (none) otherwise (R87, R88). -/
def rawLoop (t : ThresholdParams) (k : WindowClass) (reading : Nat) : Option Loop :=
  match k with
  | .feed => if t.offHook ≤ reading then some .closed else if reading < t.onHook then some .opened else none
  | .ring | .blanked => none

/-- The line is eligible for leak counting: ON-HOOK, IDLE and not PARKED (R92). -/
def LineState.leakEligible (l : LineState) : Bool := l.hook.state == .onHook && l.ring.isIdle && l.hook.mode != .parked

/-- The reading is evidence toward a change of the leak flag: in the leak band with the loop OPEN while the flag is clear, below the leak
threshold while it is set (R93, R94). -/
def LineState.leakEvidence (t : ThresholdParams) (reading : Nat) (l : LineState) : Bool :=
  if l.sense.leakFlag then decide (reading < t.leak)
  else decide (t.leak ≤ reading) && decide (reading < t.offHook) && l.loop == .opened

/-- Leak count after a window end (R92 to R94). -/
def LineState.leakCountAfter (t : ThresholdParams) (k : WindowClass) (reading : Nat) (l : LineState) : Nat :=
  if l.leakEligible then
    match k with
    | .blanked => l.sense.leakCount
    | .feed => if l.leakEvidence t reading then l.sense.leakCount + 1 else 0
    | .ring => 0
  else 0

/-- The leak count at which the flag changes (R93, R94). -/
def leakWindows : Nat := 250

/-- Trip run after a window end, before the confirm test (R74). -/
def tripRunAfter (t : ThresholdParams) (k : WindowClass) (reading run : Nat) : Nat :=
  match k with
  | .ring => if t.trip ≤ reading then run + 1 else 0
  | .feed | .blanked => run

/-- The history with a reading appended as the newest and the oldest removed (R89). -/
def pushReading (h : Vector Reading 4) (r : Reading) : Vector Reading 4 := #v[h[1], h[2], h[3], r]

/-- The leak flag of a line changes and its count is 0; the report is LEAK ON or LEAK OFF (R93, R94). -/
def State.turnLeak (s : State) (n : Line) (on : Bool) : State :=
  (s.onLine n fun l => { l with sense := { l.sense with leakFlag := on, leakCount := 0 } }).handEvent n
    (if on then .leakOn else .leakOff)

/-- A trip is handed to the Ring Scheduler and the trip run set to 0 (R74, R76). -/
def State.handTrip (s : State) (n : Line) : State :=
  (s.onLine n fun l => { l with sense := { l.sense with tripRun := 0 } }).takeTrip n

/-- The Loop Sense Unit's own work on a line at a window end of length `w`: reading, history, class, trip run, leak count, settle count
(R72, R74, R84 to R94). -/
def LineState.senseWindow (p : Params) (w : Nat) (l : LineState) : LineState :=
  let k := l.relay.windowClass
  let v := readingOf l.sense.counter w
  { l with
    relay := l.relay.afterWindow
    sense :=
      { counter := 0
        history := pushReading l.sense.history { value := v, blanked := k == .blanked, saturated := l.sense.counter == readingMax }
        tripRun := tripRunAfter p.threshold k v l.sense.tripRun
        leakFlag := l.sense.leakFlag
        leakCount := l.leakCountAfter p.threshold k v } }

/-- One line at a window end: its reading, the supervisor's pass, a trip where the run has reached the trip confirm count, and the leak flag
where the leak count has reached 250 (R84). -/
def State.windowEndOf (w : Nat) (s : State) (n : Line) : State :=
  let l := s.line n
  let k := l.relay.windowClass
  let v := readingOf l.sense.counter w
  let m := l.senseWindow s.params w
  let t := (s.setLine n m).superviseWindow n w (rawLoop s.params.threshold k v)
  let t := if k = .ring ∧ s.params.relay.tripConfirm ≤ m.sense.tripRun then t.handTrip n else t
  if leakWindows ≤ m.sense.leakCount then t.turnLeak n (!l.sense.leakFlag) else t

/-- `s` with the Loop Sense Unit's common state replaced. -/
def State.setSense (s : State) (u : SenseUnit) : State := { s with sense := u }

/-! ### The commands -/

/-- WINDOW_END: the next dither index, the window timer at 0, and every line in use taken, in the order that `order.lines` names
(R83, R84, log 3). -/
def execWindowEnd (s : State) : Result :=
  .next <|
    if s.running then
      (permute s.order.lines (allLines.filter s.inUse)).foldl (State.windowEndOf s.windowLength)
        (s.setSense { dither := s.sense.dither + 1, windowTimer := 0 })
    else s

/-- RING_TRIP: the trip run of a line reaches the trip confirm count (R74). -/
def execRingTrip (n : Line) (s : State) : Result := .next <| if s.serves n then s.handTrip n else s

/-- LEAK_ON: the leak count reaches 250 while the leak flag is clear (R93). A line not eligible counts no leak (log 4). -/
def execLeakOn (n : Line) (s : State) : Result :=
  .next <| if s.serves n && (s.line n).leakEligible && !(s.line n).sense.leakFlag then s.turnLeak n true else s

/-- LEAK_OFF: the leak count reaches 250 while the leak flag is set (R94). A line not eligible counts no leak (log 4). -/
def execLeakOff (n : Line) (s : State) : Result :=
  .next <| if s.serves n && (s.line n).leakEligible && (s.line n).sense.leakFlag then s.turnLeak n false else s

/-- SENSE_PULSE_EDGE: the pulse counter of a line in use is raised by one, unless it stands at 4095 (R82, R96). -/
def execSensePulseEdge (n : Line) (s : State) : Result :=
  .next <|
    if s.serves n then
      s.onLine n fun l => { l with sense := { l.sense with counter := min readingMax (l.sense.counter + 1) } }
    else s

end Sys2Proof.Machine
end

