-- ==== Sys2Proof/Machine/Sending.lean ====
section
/-! DEFINITION. What the station sends: notice payloads (R164), the choice of the next notice (R148), and the commands ATTEMPT_START,
ARBITRATION_LOSS, CLASH, ISLANDING and OWN_NOTICE_COMPLETION. -/

namespace Sys2Proof.Machine

/-! ### Payloads (R164) -/

/-- Two four-bit fields of one byte, the first in bits 7 to 4. -/
def nibbles (high low : Nat) : Byte := BitVec.ofNat 4 high ++ BitVec.ofNat 4 low

/-- Eight totals as bytes, slot 0 first. -/
def totalsBytes (t : Totals) : List Byte := t.toList.map (BitVec.ofNat 8)

/-- A line number as a byte. -/
def lineNumber (n : Line) : Byte := BitVec.ofNat 8 n.val

/-- Payload of a CLAIM: line and weight, pattern and offset, rotated mask, totals with the claiming line (R48, R164). -/
def State.claimPayload (s : State) (n : Line) (o : Order) (p : Placement) : List Byte :=
  nibbles n.val (s.params.weight n) :: nibbles o.pattern.val p.offset.val :: p.mask :: totalsBytes (s.claimTotals n)

/-- Payload of a RELEASE: line mask and own totals (R150, R164). -/
def State.releasePayload (s : State) : List Byte := s.asm.releaseMask :: totalsBytes s.ownTotals

/-- Payload of a REFRESH: own totals, configured budget, flags, error tally and RINGING line count (R152, R164). -/
def State.refreshPayload (s : State) : List Byte :=
  totalsBytes s.ownTotals ++
    [BitVec.ofNat 8 s.params.ring.budget, s.refreshFlags, nibbles s.bus.errors s.ringingLines.length]

/-- Code and data of an event (R163). -/
def Event.codeData : Event → Nat × Nat
  | .seize => (0, 0)
  | .clear => (1, 0)
  | .flash => (2, 0)
  | .ringPlaced o => (3, o.val)
  | .ringTripped .on => (4, 0)
  | .ringTripped .off => (4, 1)
  | .ringTripped .beforeRing => (4, 2)
  | .ringExpired rang => (5, if rang then 0 else 1)
  | .ringDeferred => (6, 0)
  | .ringShed => (7, 0)
  | .permanentLoop => (8, 0)
  | .leakOn => (9, 0)
  | .leakOff => (10, 0)
  | .digitError c => (11, c)

/-- A digit as sent: 0 is sent as 10 (R164). -/
def digitNibble (d : Digit) : Nat := if d.val = 0 then 10 else d.val

/-- Digits two to a byte, the earlier in bits 7 to 4, the last low half 0 for an odd count (R164). -/
def packDigits : List Digit → List Byte
  | [] => []
  | [d] => [nibbles (digitNibble d) 0]
  | d :: e :: rest => nibbles (digitNibble d) (digitNibble e) :: packDigits rest

/-- Code of a hook state (R164). -/
def HookState.code : HookState → BitVec 2
  | .onHook => 0
  | .seizing => 1
  | .offHook => 2
  | .brk => 3

/-- Code of a ring state (R164). -/
def RingRecord.code : RingRecord → BitVec 2
  | .idle => 0
  | .pending _ => 1
  | .claiming _ _ => 2
  | .ringing _ _ _ => 3

/-- Code of a tone state (R164). -/
def toneCode : Option Tone → BitVec 2
  | none => 0
  | some .withheld => 1
  | some .dial => 2
  | some (.recall _ _) => 3

/-- Code of a mode (R164). -/
def Mode.code : Mode → BitVec 2
  | .free => 0
  | .inCall => 1
  | .parked => 2

/-- A history entry as two bytes: blanked mark in bit 15, saturated mark in bit 14, reading in bits 11 to 0 (R164);
bits 13 and 12, to which R164 gives no meaning, are 0 (log 27). Bits 15 to 8 are sent first (DESIGN CHOICE, log 29). -/
def Reading.bytes (r : Reading) : List Byte :=
  let v := BitVec.ofNat 12 r.value
  [BitVec.ofBool r.blanked ++ BitVec.ofBool r.saturated ++ 0#2 ++ v.extractLsb' 8 4, v.extractLsb' 0 8]

/-- Payload of a STATE report: the line's state as it stands now, with the entry's events-lost mark (R97, R162, R164). Bit 5 of byte 2 is 0
(log 27). -/
def LineState.statePayload (l : LineState) (n : Line) (lost : Bool) : List Byte :=
  lineNumber n :: (l.hook.state.code ++ l.ring.code ++ toneCode l.tone.tone ++ l.hook.mode.code)
    :: (BitVec.ofBool lost ++ BitVec.ofBool l.sense.leakFlag ++ 0#1 ++ BitVec.ofNat 5 l.hook.digits.length)
    :: l.sense.history.toList.flatMap Reading.bytes

/-- Number of an order kind as notices are numbered (9-9). -/
def OrderKind.number : OrderKind → Nat
  | .ring => 3
  | .cancel => 4
  | .tone => 5
  | .mode => 6
  | .query => 7

/-- Number of a refusal reason (R164). -/
def Reason.number : Reason → Nat
  | .badLine => 1
  | .badPattern => 2
  | .busy => 3
  | .conflict => 4
  | .badState => 5
  | .badOrder => 6

/-- Kind number and payload of a report entry (R153, R164); a STATE entry's content is formed from the line as it stands. Bits 6 to 3 of a DIGITS
entry's byte 1 are 0 (log 27). -/
def State.reportContent (s : State) : Report → BitVec 4 × List Byte
  | .event n e => (8, [lineNumber n, BitVec.ofNat 8 e.codeData.1, BitVec.ofNat 8 e.codeData.2])
  | .digits n ds lost =>
    (9, lineNumber n :: (BitVec.ofBool lost ++ BitVec.ofNat 7 ds.length) :: packDigits ds)
  | .state n lost => (10, (s.line n).statePayload n lost)
  | .refusal b k r => (11, [b, BitVec.ofNat 8 k.number, BitVec.ofNat 8 r.number])

/-! ### The choice of the next notice (R148) -/

/-- A notice to be sent: what it announces, its class, kind and payload. -/
structure Outgoing where
  sent : Sent
  cls : BitVec 2
  kind : BitVec 4
  payload : List Byte
  deriving DecidableEq, Repr

/-- The claim of the claim slot, when the token is HELD and its line CLAIMING (R148, row 2). -/
def State.heldClaim (s : State) : Option Outgoing :=
  match s.sched.token with
  | .held n =>
    match s.ring n with
    | .claiming o p => some { sent := .claim n, cls := 1, kind := 0, payload := s.claimPayload n o p }
    | .idle | .pending _ | .ringing _ _ _ => none
  | .free | .spent _ => none

/-- The refresh, with this class (R148, rows 3 and 5). -/
def State.refreshNotice (s : State) (cls : BitVec 2) : Outgoing :=
  { sent := .refresh, cls := cls, kind := 2, payload := s.refreshPayload }

/-- The head entry of the report queue or, behind it, a DUE refresh (R148, rows 4 and 5). -/
def State.reportOrDue (s : State) : Option Outgoing :=
  match s.asm.queue with
  | r :: _ => some { sent := .report, cls := 2, kind := (s.reportContent r).1, payload := (s.reportContent r).2 }
  | [] => if s.asm.refresh = .due then some (s.refreshNotice 3) else none

/-- LINK DEGRADED is decided by the error tally at the start of an own refresh attempt (R145). -/
def State.decideDegraded (s : State) : State := s.setBus { s.bus with degraded := decide (8 ≤ s.bus.errors) }

/-- The notice of the first row of R148 that is present. -/
def State.chooseRow (s : State) : Option Outgoing :=
  if s.asm.releaseMask ≠ 0#8 then
    some { sent := .release s.asm.releaseMask, cls := 0, kind := 1, payload := s.releasePayload }
  else match s.heldClaim with
    | some w => some w
    | none => if s.asm.refresh = .escalated then some (s.refreshNotice 1) else s.reportOrDue

/-- The assembler holds a notice to send: some row of R148 is present. -/
def State.hasNotice (s : State) : Bool := s.chooseRow.isSome

/-- The state before the content of the next notice is formed: no release owed, a held claim has been tested against the view (R49, R148);
a refresh chosen, LINK DEGRADED has been decided (R145). -/
def State.prepareNotice (s : State) : State :=
  let t := if s.asm.releaseMask ≠ 0#8 then s else s.revalidate
  match t.chooseRow with
  | some w => if w.sent = .refresh then t.decideDegraded else t
  | none => t

/-- The notice goes on the wire with the own address: SENDING, RECEIVING, the buffer emptied, the start edge taken (R132, R148). -/
def State.beginAttempt (s : State) (w : Outgoing) : State :=
  let notice : Notice := { cls := w.cls, sender := s.straps.address.setWidth 6, payload := w.payload }
  s.setBus
    { s.bus with
      attempt := some { sent := w.sent, bytes := noticeBytes w.kind notice, sample := 0 }
      rx := .receiving, buffer := [], byte := none, idle := 0, idleSamples := 0, recessive := 0, ownLast := false }

/-- What an attempt asks of the bus beside the idle time: link LISTENING or JOINED, BUS HELD clear, NOT SENDING, receiver IDLE and no byte
being taken (R132). -/
def State.mayAttempt (s : State) : Bool :=
  s.running && (s.bus.link == .listening || s.bus.link == .joined) && !s.bus.busHeld && s.bus.attempt.isNone
    && s.bus.rx == .idle && s.bus.byte.isNone

/-! ### The ends of an attempt (R133 to R136, R149) -/

/-- The attempt ends undischarged: NOT SENDING; a refresh clears the due-in-attempt mark; a SPENT claim is dropped; digits are appended
(R54, R149, R151, R155). -/
def State.attemptFailed (s : State) (sent : Sent) : State :=
  let t := s.setBus { s.bus with attempt := none }
  let t := match sent with
    | .refresh => t.setAsm { t.asm with dueInAttempt := false }
    | .claim _ => t.claimNotCarried
    | .release _ | .report => t
  t.takeAllDigits false

/-- The attempt ends by loss; the byte being taken goes on (R133). -/
def State.loseAttempt (s : State) : State :=
  match s.bus.attempt with
  | some a => s.attemptFailed a.sent
  | none => s

/-- One more clash: the count is raised, and where it would reach 8 the station is ISLANDED (R136). -/
def State.countClash (s : State) : State :=
  if 7 ≤ s.bus.clashes then s.island else s.setBus { s.bus with clashes := s.bus.clashes + 1 }

/-- Samples in a bit time (R129). -/
def samplesPerBit : Nat := 16

/-- The receiver discards what is on the wire until the next idle gap; the idle counter counts from the last dominant sample
(R131, R134, R142). The receive buffer is emptied: by R142 for a framing error or a notice too long, and after an own clash too, of which R134 does not say
what the buffer then holds (DESIGN CHOICE, log 31). A command reads no sample, so that the counter then takes the recessive samples of the ticks before it, up to 12 bit times
(DESIGN CHOICE, log 4). -/
def State.discard (s : State) : State :=
  s.setBus { s.bus with rx := .discarding, buffer := [], byte := none, idle := s.bus.recessive / samplesPerBit
                        idleSamples := s.bus.recessive % samplesPerBit }

/-- The attempt ends by clash: what its end brings comes first, the token that a SPENT claim leaves FREE among it, and then the clash is counted, which
may make the station ISLANDED (R54, R134, R136, log 24). The receive buffer is emptied (DESIGN CHOICE, log 31). -/
def State.clashAttempt (s : State) : State :=
  match s.bus.attempt with
  | some a => ((s.attemptFailed a.sent).discard).countClash
  | none => s

/-- A notice has ended in its idle gap: buffer emptied, receiver IDLE, idle counter at 12 (R131, R135, R143). A command reads no sample, so that
the dominant run and the recessive samples stand as the ticks before left them (DESIGN CHOICE, log 4). -/
def State.noticeEnds (s : State) : State :=
  s.setBus { s.bus with rx := .idle, buffer := [], byte := none, idle := 12, idleSamples := 0 }

/-- The refresh state at the completion of a refresh: DUE if the due-in-attempt mark is set, NONE otherwise; tally 0, recovered mark clear
(R144, R151, R152). -/
def State.refreshCompleted (s : State) : State :=
  (s.setAsm { s.asm with refresh := if s.asm.dueInAttempt then .due else .none, dueInAttempt := false }).setBus
    { s.bus with errors := 0, recovered := false }

/-- The thing sent is discharged at the completion of its notice (R149, R150, R151, R153). -/
def State.discharge (s : State) : Sent → State
  | .release carried => (s.setAsm { s.asm with releaseMask := s.asm.releaseMask &&& ~~~carried }).placementAttempt
  | .claim _ => s.claimCompleted
  | .refresh => s.refreshCompleted
  | .report => s.popReport

/-- The own notice is complete: clash count 0, own-last flag set, NOT SENDING, the thing sent discharged, digits appended (R135, R155). -/
def State.completeAttempt (s : State) (a : Attempt) : State :=
  let t := s.noticeEnds
  ((t.setBus { t.bus with attempt := none, clashes := 0, ownLast := true }).discharge a.sent).takeAllDigits false

/-! ### The commands -/

/-- ATTEMPT_START: the bus has been idle long enough; the assembler chooses a notice and forms its content, and the station begins to drive
its start bit (R132, R148). Where R132 does not let an attempt begin, nothing changes (log 4). -/
def execAttemptStart (s : State) : Result :=
  .next <|
    if s.mayAttempt then
      let t := s.prepareNotice
      match t.chooseRow with
      | some w => t.beginAttempt w
      | none => t
    else s

/-- ARBITRATION_LOSS: the attempt ends by loss, and the arbitration byte as read stays in the receive buffer (R133). Commanded after the arbitration
byte, where R133 has no loss, it still ends the attempt by loss, and the winner's byte takes the place of the buffer (DESIGN CHOICE, log 4). -/
def execArbitrationLoss (winner : Byte) (s : State) : Result :=
  .next <|
    if s.running && s.bus.attempt.isSome then
      let t := s.loseAttempt
      t.setBus { t.bus with rx := .receiving, buffer := [winner], byte := none, idle := 0, idleSamples := 0 }
    else s

/-- CLASH: the attempt ends by clash (R134). -/
def execClash (s : State) : Result := .next <| if s.running then s.clashAttempt else s

/-- ISLANDING: the clash count would reach 8; the clash that brings it there has ended any attempt (R136). An ISLANDED or SILENT station makes no
attempt, and nothing changes (log 4). The buffer of an attempt so ended is emptied (log 31). -/
def execIslanding (s : State) : Result :=
  .next <|
    if s.running && (s.bus.link == .listening || s.bus.link == .joined) then
      match s.bus.attempt with
      | some a => ((s.attemptFailed a.sent).discard).island
      | none => s.island
    else s

/-- OWN_NOTICE_COMPLETION: the idle gap after the own check byte reaches 12 bit times (R135). Without an attempt there is none to complete
(log 4). -/
def execOwnNoticeCompletion (s : State) : Result :=
  .next <|
    match s.bus.attempt with
    | some a => if s.running then s.completeAttempt a else s
    | none => s

end Sys2Proof.Machine
end

