-- ==== Sys2Proof/Machine/Receiving.lean ====
section
/-! DEFINITION. What the station receives: peer notices (R19 to R21, R157), orders (R158 to R161) and the receiver's own events, and the
commands CLAIM_RECEIVED, RELEASE_RECEIVED, REFRESH_RECEIVED, RING_ORDER, CANCEL, TONE_ORDER, MODE_ORDER, QUERY, REPORT_NOTICE_HEARD,
NOTICE_INVALID, RECEIVE_FRAMING_ERROR, RECEIVER_IDLE, BUS_HELD, BUS_HELD_CLEAR and START_EDGE. -/

namespace Sys2Proof.Machine

/-! ### Peer notices -/

/-- A peer notice's totals, and the budget of a refresh, are set in the sender's entry with age 0, which is a view change (R20, R21, R30). A
claim or release (no budget) leaves the budget of an entry as it was. -/
def State.applyEntry (s : State) (a : PeerAddr) (totals : Totals) (budget : Option Nat) : State :=
  let kept := budget.or (s.table.peers[a.val].bind Entry.budget)
  (s.setTable { s.table with peers := s.table.peers.set a.val (some { totals := totals, budget := kept, age := 0 }) }).viewChange true

/-- A peer notice from a line station other than the own: wrong length or content out of range counts as a notice in error; otherwise it is
applied (R19, R20, R21, R157). From any other address it is not applied. -/
def State.peerNotice (s : State) (w : Notice) (length totalsAt : Nat) (budgetAt : Option Nat) : State :=
  match s.peerOf w with
  | none => s
  | some a =>
    let totals := totalsFrom w.payload totalsAt
    let budget := budgetAt.map (field w)
    if w.payload.length = length ∧ totalsOk totals ∧ (budget.all budgetOk) = true then s.applyEntry a totals budget
    else s.countError

/-- The receiver works on what is on the wire: loading is over (R19, R146), the receive condition is RECEIVING (R143) and BUS HELD is clear
(R175). -/
def State.hears (s : State) : Bool := s.running && s.bus.rx == .receiving && !s.bus.busHeld

/-- A notice of another station can be ending: the receiver works, and no own attempt is in transmission (R51). -/
def State.receives (s : State) : Bool := s.hears && s.bus.attempt.isNone

/-- A received notice has ended in its idle gap and is acted on (R143). Where none can be ending, nothing changes (log 4). -/
def State.received (s : State) (act : State → State) : State := if s.receives then act s.noticeEnds else s

/-- The notice of an order has ended in its idle gap (R143). While an attempt of the own is in transmission the attempt runs on, and the bus is left alone
(R54, R57, log 4). -/
def State.orderEnds (s : State) : State := if s.bus.attempt.isNone then s.noticeEnds else s

/-- An order has arrived and is acted on by the state of its line. Where none can arrive, nothing changes (log 4). -/
def State.ordered (s : State) (act : State → State) : State := if s.hears then act s.orderEnds else s

/-! ### Orders (R158 to R160) -/

/-- An order for the own station is checked and taken, or refused; any other is ignored (R157, R158, R161). -/
def State.takeOrder (kind : OrderKind) (w : Notice) (take : State → Line → State) (s : State) : State :=
  if s.orderForUs w then
    match s.checkOrder kind w with
    | .ok n => take s n
    | .error r => s.refuse kind w r
  else s

/-- A RING order for line `n`, by the checks of R159. -/
def State.takeRing (w : Notice) (s : State) (n : Line) : State :=
  let pattern : Fin 8 := Fin.ofNat 8 (field w 2)
  let l := s.line n
  if l.hook.mode = .parked then s.refuse .ring w .badLine
  else if s.params.pattern pattern = 0#8 then s.refuse .ring w .badPattern
  else if l.hook.state = .offHook ∨ l.hook.state = .brk then s.refuse .ring w .busy
  else match l.ring.order? with
    | some o => if o.pattern = pattern then s else s.refuse .ring w .conflict
    | none => s.acceptRing n pattern (field w 3)

/-- A TONE order may be taken: OFF-HOOK or BREAK, and not PARKED (R126). -/
def LineState.takesTone (l : LineState) : Bool :=
  (l.hook.state == .offHook || l.hook.state == .brk) && l.hook.mode != .parked

/-- A TONE order for line `n`: 0 OFF, 1 DIAL with the dial-tone timer restarted, 2 RECALL (R111, R126). -/
def State.takeTone (w : Notice) (s : State) (n : Line) : State :=
  if (s.line n).takesTone then
    match field w 2 with
    | 0 => s.onTone n fun t => t.give none
    | 1 => (s.onTone n fun t => t.give (some .dial)).onHook n fun h => { h with dialTimer := some 0 }
    | _ => s.onTone n fun t => t.give (some .recallStart)
  else s.refuse .tone w .badState

/-- MODE FREE: absorbed in FREE, the mode alone changed from IN CALL, PARKED left by R115 (R114). -/
def LineState.modeFree (l : LineState) : LineState :=
  match l.hook.mode with
  | .free => l
  | .inCall => { l with hook := { l.hook with mode := .free } }
  | .parked => l.unpark

/-- MODE IN CALL on an OFF-HOOK or BREAK line: absorbed in IN CALL; from FREE the dial-tone timer stops and the tone ends (R114, R127). -/
def LineState.modeInCall (l : LineState) : LineState :=
  match l.hook.mode with
  | .free => { l with hook := { l.hook with mode := .inCall, dialTimer := none }, tone := l.tone.give none }
  | .inCall | .parked => l

/-- A MODE order for line `n`: 0 FREE, 1 IN CALL, 2 PARKED (R58, R114). -/
def State.takeMode (w : Notice) (s : State) (n : Line) : State :=
  match field w 2 with
  | 0 => s.onLine n LineState.modeFree
  | 1 =>
    if (s.line n).hook.state = .offHook ∨ (s.line n).hook.state = .brk then s.onLine n LineState.modeInCall
    else s.refuse .mode w .badState
  | _ => if (s.line n).hook.mode = .parked then s else (s.endRingWork n).onLine n LineState.park

/-! ### The receiver (R140 to R143) -/

/-- A framing error or a notice too long: the buffer is discarded, the error tally raised, the receiver DISCARDING (R142, R144). -/
def State.framingError (s : State) : State := s.countError.discard

/-- The receive buffer holds 15 bytes (R142). -/
def bufferSize : Nat := 15

/-- A byte enters the receive buffer, which holds 15; the idle counter has been set to 0 by its start edge (R131, R141, R142). -/
def State.takeByte (s : State) (b : Byte) : State :=
  s.setBus { s.bus with buffer := if s.bus.buffer.length < bufferSize then s.bus.buffer ++ [b] else s.bus.buffer
                        idle := 0, idleSamples := 0 }

/-- A start edge has been taken: a dominant sample has been read, and the own-last flag is clear, whoever sends (R132, R141), also where
the edge proves a false start (DEDUCED, log 30). -/
def State.edgeTaken (s : State) : State := s.setBus { s.bus with recessive := 0, ownLast := false }

/-- A notice begins: buffer emptied, RECEIVING (R141). -/
def State.beginNotice (s : State) : State := s.setBus { s.bus with rx := .receiving, buffer := [], idle := 0, idleSamples := 0 }

/-- The first data bit, most significant first, in which a byte read differs from the byte sent was sent recessive (R133). -/
def lostBit (sent read : Byte) : Bool :=
  let diff := sent ^^^ read
  ((List.range 8).map fun k => (diff.getLsbD (7 - k), sent.getLsbD (7 - k))).find? (·.1) == some (true, true)

/-- Samples of one byte on the wire: ten bits (R129). -/
def samplesPerByte : Nat := 160

/-- A byte of the own attempt has been sent and read as sent: it is in the buffer, and the next byte's start bit follows (R130). -/
def State.byteSent (s : State) (a : Attempt) (b : Byte) : State :=
  (s.takeByte b).setBus
    { (s.takeByte b).bus with attempt := some { a with sample := samplesPerByte * (s.bus.buffer.length + 1) } }

/-- A byte of the own attempt is read back and compared with the byte sent: a recessive bit of the arbitration byte read dominant is a loss,
every other mismatch a clash; a start edge after the own check byte is a clash (R133, R134). -/
def State.readBack (s : State) (a : Attempt) (b : Byte) : State :=
  match a.bytes[s.bus.buffer.length]? with
  | none => s.clashAttempt
  | some sent =>
    if sent = b then s.byteSent a b
    else if s.bus.buffer = [] ∧ lostBit sent b = true then s.loseAttempt.takeByte b
    else s.clashAttempt

/-- A start edge within a notice: of the own attempt, or of a notice being received (R134, R141, R142). -/
def State.edgeInNotice (s : State) (dominant : Bool) (b : Byte) : State :=
  match s.bus.attempt with
  | some a => if dominant then s.readBack a b else s.clashAttempt
  | none =>
    if dominant = false then s.framingError
    else if bufferSize ≤ s.bus.buffer.length then s.framingError
    else s.takeByte b

/-! ### The commands -/

/-- CLAIM_RECEIVED: 11 bytes, totals from byte 3 (R21, R157, R164). -/
def execClaimReceived (w : Notice) (s : State) : Result := .next (s.received fun t => t.peerNotice w 11 3 none)

/-- RELEASE_RECEIVED: 9 bytes, totals from byte 1 (R21, R157, R164). -/
def execReleaseReceived (w : Notice) (s : State) : Result := .next (s.received fun t => t.peerNotice w 9 1 none)

/-- REFRESH_RECEIVED: 11 bytes, totals from byte 0, budget in byte 8 (R20, R157, R164). -/
def execRefreshReceived (w : Notice) (s : State) : Result := .next (s.received fun t => t.peerNotice w 11 0 (some 8))

/-- RING_ORDER (R43, R158, R159); while the token is SPENT the line is IDLE and takes the order (R54). -/
def execRingOrder (w : Notice) (s : State) : Result := .next (s.ordered (State.takeOrder .ring w (State.takeRing w)))

/-- CANCEL: the line's ring work ends by its ring state, with no report, also while the token is SPENT; an attempt in transmission is not affected
(R57, R160). -/
def execCancel (w : Notice) (s : State) : Result := .next (s.ordered (State.takeOrder .cancel w State.endRingWork))

/-- TONE_ORDER (R126, R160). -/
def execToneOrder (w : Notice) (s : State) : Result := .next (s.ordered (State.takeOrder .tone w (State.takeTone w)))

/-- MODE_ORDER (R114, R160). -/
def execModeOrder (w : Notice) (s : State) : Result := .next (s.ordered (State.takeOrder .mode w (State.takeMode w)))

/-- QUERY: a STATE entry without the events-lost mark at the end of the queue, if there is room (R160, R161). -/
def execQuery (w : Notice) (s : State) : Result :=
  .next (s.ordered (State.takeOrder .query w fun t n => t.offerReport (.state n false)))

/-- REPORT_NOTICE_HEARD: the notice has ended and is ignored (R143, R157). -/
def execReportNoticeHeard (_kind : BitVec 4) (_w : Notice) (s : State) : Result := .next (s.received id)

/-- NOTICE_INVALID: a notice that fails a check of R143 is discarded and counted in error (R143, R144). -/
def execNoticeInvalid (s : State) : Result := .next (s.received State.countError)

/-- RECEIVE_FRAMING_ERROR: within a notice being received (R142, R144). In another receive condition no byte is taken, and in an own attempt
a bit read other than sent is a clash and no framing error (R134), so then nothing changes (log 4). -/
def execReceiveFramingError (s : State) : Result := .next <| if s.receives then s.framingError else s

/-- RECEIVER_IDLE: in WAITING or DISCARDING the idle counter reaches 12 (R142, R146). In another condition nothing changes (log 4). -/
def execReceiverIdle (s : State) : Result :=
  .next <|
    if s.running && (s.bus.rx == .waiting || s.bus.rx == .discarding) && !s.bus.busHeld then s.noticeEnds else s

/-- A dominant run of 20 bit times is a held bus (R140). -/
def heldRun : Nat := 20

/-- The bus is held: BUS HELD set, the run at 20 bit times, the idle counter at 0 since the wire is dominant. The hold has broken what was being
received, so a receiver that is not WAITING is DISCARDING; in IDLE and RECEIVING the hold makes the one framing error that the tally counts for it
(R131, R140, R142, R144). There its start edge, with which it was first taken, has cleared own-last (R132, R140). -/
def Bus.held (b : Bus) : Bus :=
  { b with busHeld := true, dominantRun := heldRun, dominantSamples := 0, recessive := 0, idle := 0, idleSamples := 0, buffer := []
           byte := none, rx := if b.rx = .waiting then .waiting else .discarding
           errors := if b.rx = .idle ∨ b.rx = .receiving then min errorTallyMax (b.errors + 1) else b.errors
           ownLast := if b.rx = .idle ∨ b.rx = .receiving then false else b.ownLast }

/-- BUS_HELD: the dominant run reaches 20 bit times (R140). The framing error of the hold is counted here, unless RECEIVE_FRAMING_ERROR has counted it
and left the receiver DISCARDING. A hold that begins in an own attempt has ended the attempt before its run reaches 20, so while one is in transmission
nothing changes (log 4). -/
def execBusHeld (s : State) : Result :=
  .next <| if s.running && s.bus.attempt.isNone then s.setBus s.bus.held else s

/-- BUS_HELD_CLEAR: the wire has been recessive for 12 bit times; BUS HELD clears, the idle counter stands at 12, the receiver is IDLE
(R140). -/
def execBusHeldClear (s : State) : Result :=
  .next <|
    if s.running && s.bus.busHeld then
      s.noticeEnds.setBus { s.noticeEnds.bus with busHeld := false, dominantRun := 0, dominantSamples := 0 }
    else s

/-- START_EDGE: in IDLE a start bit dominant at sample 8 begins a notice and its first byte, and any other is a false start, which leaves receiver
and idle counter as they were; in RECEIVING a byte of the notice begins (R131, R141, R142). Under BUS HELD, in WAITING, in DISCARDING and
within a byte no start edge is taken. -/
def execStartEdge (dominant : Bool) (b : Byte) (s : State) : Result :=
  .next <|
    if s.running && !s.bus.busHeld && s.bus.byte.isNone then
      match s.bus.rx with
      | .idle => if dominant then s.edgeTaken.beginNotice.takeByte b else s.edgeTaken
      | .receiving => s.edgeTaken.edgeInNotice dominant b
      | .waiting | .discarding => s
    else s

end Sys2Proof.Machine
end

