-- ==== Sys2Proof/Machine/Dispatch.lean ====
section
/-! DEFINITION. The one table from commands to their meanings. -/

namespace Sys2Proof.Machine

/-- The effect of a command on everything but the queue of waiting commands. -/
def exec (i : Instr) (s : State) : Host.Outcome State Fault Refusal :=
  match i with
  | .reset address l8 cfgp => Sys2Proof.Machine.execReset address l8 cfgp s
  | .endOfLoading answer => Sys2Proof.Machine.execEndOfLoading answer s
  | .slotEnd => Sys2Proof.Machine.execSlotEnd s
  | .cycleMarker => Sys2Proof.Machine.execCycleMarker s
  | .markerWindowOpens => Sys2Proof.Machine.execMarkerWindowOpens s
  | .markerWindowCloses => Sys2Proof.Machine.execMarkerWindowCloses s
  | .markerLost => Sys2Proof.Machine.execMarkerLost s
  | .zeroCrossMark => Sys2Proof.Machine.execZeroCrossMark s
  | .zcLost => Sys2Proof.Machine.execZcLost s
  | .deadTimeToRing n => Sys2Proof.Machine.execDeadTimeToRing n s
  | .deadTimeToFeed n => Sys2Proof.Machine.execDeadTimeToFeed n s
  | .zcWaitTimeout n => Sys2Proof.Machine.execZcWaitTimeout n s
  | .ringExpiry n => Sys2Proof.Machine.execRingExpiry n s
  | .ringDeferral n => Sys2Proof.Machine.execRingDeferral n s
  | .entryAgedOut a => Sys2Proof.Machine.execEntryAgedOut a s
  | .listenPeriodEnd => Sys2Proof.Machine.execListenPeriodEnd s
  | .islandedPeriodEnd => Sys2Proof.Machine.execIslandedPeriodEnd s
  | .windowEnd => Sys2Proof.Machine.execWindowEnd s
  | .ringTrip n => Sys2Proof.Machine.execRingTrip n s
  | .leakOn n => Sys2Proof.Machine.execLeakOn n s
  | .leakOff n => Sys2Proof.Machine.execLeakOff n s
  | .seizeConfirm n => Sys2Proof.Machine.execSeizeConfirm n s
  | .glitchLimitReached n => Sys2Proof.Machine.execGlitchLimitReached n s
  | .clear n => Sys2Proof.Machine.execClear n s
  | .interdigitMake n => Sys2Proof.Machine.execInterdigitMake n s
  | .permanentLoop n => Sys2Proof.Machine.execPermanentLoop n s
  | .stutterAdvance n => Sys2Proof.Machine.execStutterAdvance n s
  | .attemptStart => Sys2Proof.Machine.execAttemptStart s
  | .arbitrationLoss winner => Sys2Proof.Machine.execArbitrationLoss winner s
  | .clash => Sys2Proof.Machine.execClash s
  | .islanding => Sys2Proof.Machine.execIslanding s
  | .ownNoticeCompletion => Sys2Proof.Machine.execOwnNoticeCompletion s
  | .claimReceived w => Sys2Proof.Machine.execClaimReceived w s
  | .releaseReceived w => Sys2Proof.Machine.execReleaseReceived w s
  | .refreshReceived w => Sys2Proof.Machine.execRefreshReceived w s
  | .ringOrder w => Sys2Proof.Machine.execRingOrder w s
  | .cancel w => Sys2Proof.Machine.execCancel w s
  | .toneOrder w => Sys2Proof.Machine.execToneOrder w s
  | .modeOrder w => Sys2Proof.Machine.execModeOrder w s
  | .query w => Sys2Proof.Machine.execQuery w s
  | .reportNoticeHeard kind w => Sys2Proof.Machine.execReportNoticeHeard kind w s
  | .noticeInvalid => Sys2Proof.Machine.execNoticeInvalid s
  | .receiveFramingError => Sys2Proof.Machine.execReceiveFramingError s
  | .receiverIdle => Sys2Proof.Machine.execReceiverIdle s
  | .busHeld => Sys2Proof.Machine.execBusHeld s
  | .busHeldClear => Sys2Proof.Machine.execBusHeldClear s
  | .startEdge dominantAtSample8 byte => Sys2Proof.Machine.execStartEdge dominantAtSample8 byte s
  | .sensePulseEdge n => Sys2Proof.Machine.execSensePulseEdge n s
  | .resetAsserted => Sys2Proof.Machine.execResetAsserted s

end Sys2Proof.Machine
end

