-- ==== Sys2Proof/Machine/Tick.lean ====
section
/-! DEFINITION. What the part does by itself while no command waits: one period of the 4.096 MHz crystal (0-7). The input pins are read, every
timer and counter of the three time bases advances, and the commands that fall due are run. Reading NB bit by bit (R129 to R131, R133,
R134, R140 to R143), the transfer from the configuration memory (R168) and the CFGCK and CFGDA outputs stand here. -/

namespace Sys2Proof.Machine

/-- A command that falls due inside a tick. -/
def State.run (s : State) (c : Instr) : State :=
  match exec c s with
  | .next t => t
  | .fault _ => s
  | .refused _ => s

/-! ### Time bases (0-7) -/

/-- Crystal periods in a millisecond. -/
def crystalPerMs : Nat := 4096

/-- Crystal periods in an eighth-millisecond. -/
def crystalPerEighth : Nat := 512

/-- Crystal periods in a bus sample. -/
def crystalPerSample : Nat := 8

/-! ### Millisecond base -/

/-- A leading edge stands on CYM: read high now, low before (R3, log 20). -/
def State.cymEdge (s : State) : Bool := s.pins.cym && !s.last.cym

/-- The millisecond in which slot 0's timer reads 40 ms runs out, and the window closes (R7, R9). A marker edge of the same crystal period finds slot 0 past
40 ms; where the state puts the marker first, the window that it begins is open and the old one does not close (R7, log 8). -/
def State.closeMs (s : State) : State :=
  let t := if s.order.lateClose && s.cymEdge then s else s.closeDue
  if s.cadence.closing && s.cymEdge then t.setCadence { t.cadence with slotTimer := pastWindow } else t

/-- The slot timer advances; a slot end and the opening of the marker window fall due (R1, R7). -/
def State.slotMs (s : State) : State :=
  let t := s.setCadence { s.cadence with slotTimer := s.cadence.slotTimer + 1 }
  if slotLength ≤ t.cadence.slotTimer then t.run .slotEnd
  else if t.cadence.slot = 7 ∧ t.cadence.slotTimer = windowOpensAt then t.run .markerWindowOpens
  else t

/-- The zero-cross timer advances and stays at 60 ms, at which ZC LOST falls due (R11). -/
def State.zcMs (s : State) : State :=
  if s.cadence.zcTimer < zcLimit then
    let t := s.setCadence { s.cadence with zcTimer := s.cadence.zcTimer + 1 }
    if zcLimit ≤ t.cadence.zcTimer then t.run .zcLost else t
  else s

/-- The zero-cross wait lasts at most 25 ms (R68). -/
def waitLimit : Nat := 25

/-- The running relay timers of a line are a millisecond on; the wait timer stands at 25 ms at most (R65). -/
def LineState.countRelay (l : LineState) : LineState :=
  { l with relay := { l.relay with
      waitTimer := if l.relay.wait = .none then l.relay.waitTimer else min waitLimit (l.relay.waitTimer + 1)
      deadTimer := if l.relay.deadRunning then l.relay.deadTimer + 1 else l.relay.deadTimer } }

/-- A dead time that has been reached: the timer stops and the line's movement is made (R65, R68, R71). -/
def State.deadDue (s : State) (n : Line) : State :=
  if (s.line n).relay.deadRunning = true ∧ s.params.relay.deadTime ≤ (s.line n).relay.deadTimer then
    match (s.line n).relay.position with
    | .toRing => s.run (.deadTimeToRing n)
    | .toFeed => s.run (.deadTimeToFeed n)
    | .feed | .ringWait | .ring => s.onLine n (LineState.deadTimeReached s.params.relay)
  else s

/-- A wait that has lasted 25 ms (R68, R69). -/
def State.waitDue (s : State) (n : Line) : State :=
  if (s.line n).relay.wait ≠ .none ∧ waitLimit ≤ (s.line n).relay.waitTimer then s.run (.zcWaitTimeout n) else s

/-- The relay timers of a line count, and then what is due happens, so that a timer begun at this millisecond stands at 0 (R65). -/
def State.relayMs (s : State) (n : Line) : State := ((s.onLine n LineState.countRelay).deadDue n).waitDue n

/-- The dial-tone timer of a line advances (R111). -/
def State.dialMs (s : State) (n : Line) : State :=
  match (s.line n).hook.dialTimer with
  | none => s
  | some d =>
    if 1000 * s.params.timing.dialTimeout ≤ d + 1 then s.run (.permanentLoop n)
    else s.onHook n fun h => { h with dialTimer := some (d + 1) }

/-- A stutter phase lasts 100 ms (R125). -/
def stutterLength : Nat := 100

/-- The stutter timer of a line in RECALL advances; it stands still while the tone is suspended (R122, R125). -/
def State.stutterMs (s : State) (n : Line) : State :=
  match (s.line n).tone.tone with
  | some (.recall (.burst k) d) =>
    if stutterLength ≤ d + 1 then s.run (.stutterAdvance n)
    else s.onTone n fun t => { t with tone := some (.recall (.burst k) (d + 1)) }
  | some (.recall .continuous _) | some .withheld | some .dial | none => s

/-- The millisecond timers of one line in use. -/
def State.lineMs (s : State) (n : Line) : State := ((s.relayMs n).dialMs n).stutterMs n

/-- Loading ends at the first millisecond after reset with CFGP low, and at the first after the stop mark with it high (R166, R168). -/
def State.loadingMs (s : State) : State :=
  if s.phase = .loading ∧ (s.straps.cfgp = false ∨ s.loader.finished = true) then
    s.run (.endOfLoading (if s.loader.image.length = 48 then .image s.loader.image else .silent))
  else s

/-- One millisecond of the millisecond base. The timers of the lines come first, so that a timer that a slot start, a mark or anything else of
this millisecond begins stands at 0 (R65, log 2). -/
def State.msTick (s : State) : State :=
  (if s.running then (allLines.filter s.inUse).foldl State.lineMs s else s).slotMs.zcMs

/-! ### Sense base -/

/-- One eighth-millisecond: the window timer advances and the window end falls due at the window's length (R83). -/
def State.senseTick (s : State) : State :=
  if s.running then
    let t := s.setSense { s.sense with windowTimer := s.sense.windowTimer + 1 }
    if s.windowLength ≤ t.sense.windowTimer then t.run .windowEnd else t
  else s

/-! ### The transfer of R168 -/

/-- Crystal periods in a clock of CFGCK (10-2). -/
def crystalPerClock : Nat := 32

/-- Clocks of the whole transfer, start and stop marks included (R168). -/
def transferClocks : Nat := 452

/-- Place in its group of nine of a clock that carries image bits, 8 being the answer clock; clocks 19 to 450 carry them. -/
def imageClock (k : Nat) : Option Nat := if 19 ≤ k ∧ k ≤ 450 then some ((k - 19) % 9) else none

/-- The loader reads CFGDA in the middle of the high half of a clock (log 11): an answer bit read high is noted; an image bit is clocked
in (R168). -/
def Loader.readBit (l : Loader) (high : Bool) : Loader :=
  let k := l.position / crystalPerClock
  if k = 9 ∨ k = 18 then { l with unanswered := high }
  else match imageClock k with
    | some i =>
      let b := (l.shift <<< 1) ||| (BitVec.ofBool high).setWidth 8
      if i < 7 then { l with shift := b }
      else if i = 7 then { l with shift := 0#8, image := l.image ++ [b] }
      else l
    | none => l

/-- The transfer moves on by one crystal period; the answer clock of a memory that has not answered is followed by the clock of the stop
mark (R168). -/
def Loader.moveOn (l : Loader) : Loader :=
  let p := l.position + 1
  { l with position := if l.unanswered = true ∧ p % crystalPerClock = 0 then max p ((transferClocks - 1) * crystalPerClock) else p }

/-- The stop mark has been made: the transfer is over, and where the memory has not answered the image is rejected (R168). -/
def Loader.stop (l : Loader) : Loader := { l with finished := true, rejected := l.rejected || l.unanswered }

/-- One crystal period of the transfer (R168). -/
def Loader.clock (l : Loader) (cfgda : Bool) : Loader :=
  let m := (if l.position % crystalPerClock = 24 then l.readBit cfgda else l).moveOn
  if transferClocks * crystalPerClock ≤ m.position then m.stop else m

/-- The loader works while configuration is loading from a fitted memory (R166, R168). -/
def State.loaderTick (s : State) : State :=
  if s.phase = .loading ∧ s.straps.cfgp = true ∧ s.loader.finished = false then
    { s with loader := s.loader.clock s.pins.cfgda }
  else s

/-- The loader drives the transfer now. -/
def State.transferring (s : State) : Bool := s.phase == .loading && s.straps.cfgp && !s.loader.finished

/-- CFGCK: low with CFGP low (R166). With CFGP high it is high all through the start mark and in the second half of every other clock, and low after the
stop mark and while RST is asserted (R168, DESIGN CHOICE, log 11). -/
def State.cfgck (s : State) : Bool :=
  s.transferring && (s.loader.position < crystalPerClock || crystalPerClock / 2 ≤ s.loader.position % crystalPerClock)

/-- Bit of the request D5H (clocks 1 to 8) or the address 00H (clocks 10 to 17) that the loader sends (R168). -/
def requestBit (k : Nat) : Option Bool :=
  if 1 ≤ k ∧ k ≤ 8 then some (0xD5#8 |>.getLsbD (8 - k)) else if 10 ≤ k ∧ k ≤ 17 then some false else none

/-- The loader holds CFGDA low: in the second half of the start mark, for bits of value 0, for its answer after every byte but the last, and
up to the stop mark's rise (R168). The start mark's fall is at the middle of its clock, the stop mark's rise at period 24 of its clock, and a data bit
changes in the period in which CFGCK falls (DESIGN CHOICE, log 11). -/
def State.cfgdaLow (s : State) : Bool :=
  let k := s.loader.position / crystalPerClock
  let q := s.loader.position % crystalPerClock
  s.transferring &&
    (if k = 0 then decide (crystalPerClock / 2 ≤ q)
     else if k = transferClocks - 1 then decide (q < 24)
     else match requestBit k with
       | some b => !b
       | none => decide (imageClock k = some 8) && decide (k < transferClocks - 2))

/-! ### Bus samples (R129 to R135, R140 to R143) -/

/-- The idle counter counts one more recessive sample, stopping at 24 bit times (R131). -/
def Bus.countIdle (b : Bus) : Bus :=
  if b.idleSamples + 1 < samplesPerBit then { b with idleSamples := b.idleSamples + 1 }
  else { b with idleSamples := 0, idle := min 24 (b.idle + 1) }

/-- The idle counter at 0 (R131). -/
def Bus.stopIdle (b : Bus) : Bus := { b with idle := 0, idleSamples := 0 }

/-- The samples read recessive since the last dominant one (R142), at most 12 bit times. -/
def State.countRecessive (s : State) (dominant : Bool) : State :=
  s.setBus { s.bus with recessive := if dominant then 0 else min (12 * samplesPerBit) (s.bus.recessive + 1) }

/-- The dominant run counts one more sample; BUS HELD falls due at 20 bit times (R140). -/
def State.countDominant (s : State) (dominant : Bool) : State :=
  if dominant then
    if s.bus.dominantSamples + 1 < samplesPerBit then
      s.setBus { s.bus with dominantSamples := s.bus.dominantSamples + 1 }
    else
      let t := s.setBus { s.bus with dominantSamples := 0, dominantRun := min heldRun (s.bus.dominantRun + 1) }
      if heldRun ≤ t.bus.dominantRun ∧ t.bus.busHeld = false then t.run .busHeld else t
  else s.setBus { s.bus with dominantSamples := 0, dominantRun := 0 }

/-- Waiting for an idle gap: WAITING, DISCARDING or BUS HELD (R131, R140, R142). -/
def State.awaitIdle (s : State) (dominant : Bool) : State :=
  if dominant then s.setBus s.bus.stopIdle
  else
    let t := s.setBus s.bus.countIdle
    if 12 ≤ t.bus.idle then t.run (if t.bus.busHeld then .busHeldClear else .receiverIdle) else t

/-- The bit sent at bit `k` of the byte now being sent, true for recessive; none outside an attempt. -/
def State.sentRecessive (s : State) (k : Nat) : Option Bool :=
  match s.bus.attempt with
  | some a => (a.bytes[s.bus.buffer.length]?).map fun b => !wireDominant b k
  | none => none

/-- A bit of the own attempt has been read other than sent: a loss for a recessive data bit of the arbitration byte, otherwise a clash
(R133, R134). -/
def State.mismatch (s : State) (sentRecessive : Bool) : State :=
  if s.bus.buffer = [] ∧ sentRecessive = true then s.loseAttempt else s.run .clash

/-- The test of a start bit at its sample 8 (R141, R142). A false start sets the idle counter back with the part of a bit time it had counted before
the edge; the samples of the false start itself are not counted (R131, log 9), and the own-last flag that its edge cleared stays clear (log 30). -/
def State.testStartBit (s : State) (b : ByteInProgress) (dominant : Bool) : State :=
  if s.bus.attempt.isSome then
    if dominant then s.setBus { s.bus with byte := some b } else s.run .clash
  else match s.bus.rx with
    | .receiving =>
      if dominant then
        if bufferSize ≤ s.bus.buffer.length then s.run .receiveFramingError else s.setBus { s.bus with byte := some b }
      else s.run .receiveFramingError
    | .idle =>
      if dominant then s.beginNotice.setBus { s.beginNotice.bus with byte := some b }
      else s.setBus { s.bus with byte := none, idle := b.idleBefore, idleSamples := b.idleSamplesBefore }
    | .waiting | .discarding => s

/-- A data bit has been read by the majority of its samples; the byte `b` holds it (R129, R133, R134). -/
def State.takeDataBit (s : State) (b : ByteInProgress) (k : Nat) (recessive : Bool) : State :=
  let t := s.setBus { s.bus with byte := some b }
  match s.sentRecessive k with
  | some sent => if sent = recessive then t else t.mismatch sent
  | none => t

/-- The stop bit has been read by majority: recessive, the byte enters the buffer; otherwise a clash or a framing error
(R134, R141, R142). -/
def State.takeStopBit (s : State) (b : ByteInProgress) (recessive : Bool) : State :=
  if recessive then (s.takeByte b.shift).setBus { (s.takeByte b.shift).bus with byte := some b }
  else if s.bus.attempt.isSome then s.run .clash
  else s.run .receiveFramingError

/-- One more sample of the byte being taken: bit `k / 16`, sample `k % 16` of it (R129). -/
def State.sampleByte (s : State) (b : ByteInProgress) (dominant : Bool) : State :=
  let k := b.sample + 1
  let at_ := k % samplesPerBit
  let votes := if at_ = 7 then dominant.toNat else if at_ = 8 ∨ at_ = 9 then b.votes + dominant.toNat else b.votes
  let recessive := decide (votes < 2)
  let c := { b with sample := k, votes := votes }
  if k = 8 then s.testStartBit c dominant
  else if k = 159 then s.setBus { s.bus with byte := none, idle := 0, idleSamples := 0 }
  else if at_ = 9 ∧ samplesPerBit ≤ k then
    if k / samplesPerBit ≤ 8 then
      s.takeDataBit { c with shift := (b.shift <<< 1) ||| (BitVec.ofBool recessive).setWidth 8 } (k / samplesPerBit) recessive
    else s.takeStopBit c recessive
  else s.setBus { s.bus with byte := some c }

/-- A start edge is taken at this sample: a byte begins, the idle counter is at 0, and the own-last flag clears (R131, R132, R141), also where the edge then
proves a false start (DEDUCED, log 30). -/
def Bus.takeEdge (b : Bus) : Bus := { b.stopIdle with byte := some ⟨0, 0, 0#8, b.idle, b.idleSamples⟩, ownLast := false }

/-- No byte is being taken: a dominant sample is a start edge; a recessive one is counted, and at 12 bit times the notice ends
(R131, R134, R135, R141, R143). -/
def State.watchEdge (s : State) (dominant : Bool) : State :=
  if dominant then
    match s.bus.attempt with
    | some a => if a.bytes.length ≤ s.bus.buffer.length then s.run .clash else s.setBus s.bus.takeEdge
    | none => s.setBus s.bus.takeEdge
  else
    let t := s.setBus s.bus.countIdle
    if t.bus.rx = .receiving ∧ 12 ≤ t.bus.idle then
      t.run (if t.bus.attempt.isSome then .ownNoticeCompletion else decodeNotice t.bus.buffer)
    else t

/-- The receiver takes one sample (R140 to R143). -/
def State.receiveSample (s : State) (dominant : Bool) : State :=
  if s.bus.busHeld || s.bus.rx == .waiting || s.bus.rx == .discarding then s.awaitIdle dominant
  else match s.bus.byte with
    | some b => s.sampleByte b dominant
    | none => s.watchEdge dominant

/-- The bus has been idle long enough for an attempt: 12 bit times, or 24 after an own notice (R132). -/
def State.idleEnough (s : State) : Bool := (if s.bus.ownLast then 24 else 12) ≤ s.bus.idle

/-- The attempt has driven one more sample (R130). -/
def State.driveOn (s : State) : State :=
  s.setBus { s.bus with attempt := s.bus.attempt.map fun a => { a with sample := a.sample + 1 } }

/-- One sample of the 512 kHz sample clock: an attempt begins where R132 lets it, the wire is low while anyone drives it, and the receiver reads
it (8-1, R129, R132). -/
def State.busSample (s : State) : State :=
  if s.running then
    let t := if s.mayAttempt && s.hasNotice && s.idleEnough then s.run .attemptStart else s
    let dominant := t.pins.nbLow || t.drivesLow
    ((t.driveOn.countRecessive dominant).countDominant dominant).receiveSample dominant
  else s

/-! ### Pins and the crystal -/

/-- The sense inputs are read, and a read of high after a read of low is an edge (R82). -/
def State.readSense (s : State) : State :=
  allLines.foldl
    (fun t n => if s.pins.sns.getLsbD n.val && !s.last.sns.getLsbD n.val then t.run (.sensePulseEdge n) else t) s

/-- The inputs are read once in each crystal period; a read of high after a read of low is a leading edge, as R82 says for SNSn and as is taken for
CYM and ZCM too (R3, R10, log 20). Within one crystal period SNSn are taken first, then CYM, then ZCM, so a wait that the marker's slot start begins
sees the mark of the same period: R68 and R82 allow either order (DESIGN CHOICE, log 2). -/
def State.readPins (s : State) : State :=
  let t := s.readSense
  let t := if s.cymEdge then t.run .cycleMarker else t
  let t := if s.pins.zcm && !s.last.zcm then t.run .zeroCrossMark else t
  { t with last := { sns := s.pins.sns, cym := s.pins.cym, zcm := s.pins.zcm } }

/-- The TONE wave moves on by one crystal period (R118). -/
def State.toneTick (s : State) : State :=
  if s.running then { s with tonePhase := (s.tonePhase + 1) % tonePeriod s.params.tone } else s

/-- The last crystal period of a millisecond. -/
def lastPeriod : Nat := crystalPerMs - 1

/-- One crystal period of a part that is not held in reset: the window close, the millisecond, the eighth-millisecond and the bus sample that fall in it,
the end of loading and the pins, in this order (log 2, log 8). -/
def State.advance (s : State) : State :=
  let x := (s.crystal + 1) % crystalPerMs
  let s := if x = lastPeriod then s.closeMs else s
  let t := ({ s with crystal := x }).toneTick.loaderTick
  let t := if x = 0 then t.msTick else t
  let t := if x % crystalPerEighth = 0 then t.senseTick else t
  let t := if x % crystalPerSample = 0 then t.busSample else t
  (if x = 0 then t.loadingMs else t).readPins

/-- One crystal period. While RST is asserted every block is held; the reset ends when RST is no longer asserted (R166). -/
def State.tick (s : State) : State :=
  if s.pins.rst then if s.phase = .held then s else s.run .resetAsserted
  else if s.phase = .held then s.run (.reset s.pins.address s.pins.l8 s.pins.cfgp)
  else s.advance

end Sys2Proof.Machine
end

