-- ==== Sys2Proof/Safety.lean ====
section
/-! DEFINITION. What a sound state of the controller is, in the terms the claims use: the scheduler's lists agree with the ring records, the
load view with its entries, every line's records with one another, and every count with its range. -/

namespace Sys2Proof.Machine

/-- The collections of the Ring Scheduler agree with the ring records (R38, R40, R41). -/
structure State.SchedulerOk (s : State) : Prop where
  acceptedNodup : s.sched.accepted.Nodup
  commitsNodup : s.sched.commits.Nodup
  /-- The acceptance order list holds the lines that are not IDLE (R38). -/
  acceptedIff : ∀ n : Line, n ∈ s.sched.accepted ↔ (s.ring n).isIdle = false
  /-- The commit order list holds the RINGING lines (R40). -/
  commitsIff : ∀ n : Line, n ∈ s.sched.commits ↔ (s.ring n).isRinging = true
  /-- A line is CLAIMING exactly while the token is HELD for it (R41). -/
  heldIff : ∀ n : Line, s.sched.token = .held n ↔ (s.ring n).isClaiming = true
  /-- Before loading has ended no line has an order (R42). -/
  idleBefore : s.phase ≠ .running → ∀ n : Line, s.ring n = .idle

/-- The load view: the own totals are those of the own RINGING lines (R25), and T, B and BUDGET MISMATCH those of the entries as they stand
(R27 to R29). -/
structure State.ViewOk (s : State) : Prop where
  own : s.table.own = s.ownTotals
  derived : s.table = s.table.recompute s.params.ring.budget

/-- A JOINED station has no slot over its own allowance (R31 to R34). -/
def State.WithinAllowance (s : State) : Prop := s.bus.link = .joined → ∀ t : Slot, s.overAllowance t = none

/-- The records of one line agree with one another. -/
structure LineState.Ok (l : LineState) : Prop where
  /-- A line with ring work is on-hook or seizing (R119). -/
  ringOnHook : l.ring.isIdle = false → l.hook.state = .onHook ∨ l.hook.state = .seizing
  /-- A tone, or a suspended one, only on an OFF-HOOK or BREAK line that is not PARKED (R119). -/
  toneOffHook : l.tone.tone.isSome = true ∨ l.tone.suspended.isSome = true →
    (l.hook.state = .offHook ∨ l.hook.state = .brk) ∧ l.hook.mode ≠ .parked
  /-- IN CALL only while OFF-HOOK or BREAK (R113). -/
  inCallOffHook : l.hook.mode = .inCall → l.hook.state = .offHook ∨ l.hook.state = .brk
  /-- A PARKED line is ON-HOOK with no ring work (R58, R115). -/
  parkedOnHook : l.hook.mode = .parked → l.hook.state = .onHook ∧ l.ring = .idle
  /-- The ring relay is closed, or on its way to close, only while the line is RINGING (4-3). -/
  ringRelay : l.relay.position = .ring ∨ l.relay.position = .ringWait ∨ l.relay.position = .toRing → l.ring.isRinging = true
  /-- The wait to close stands in RING-WAIT alone, the open wait in RING alone (R65). -/
  waitToClose : l.relay.wait = .toClose ↔ l.relay.position = .ringWait
  waitToOpen : l.relay.wait = .toOpen → l.relay.position = .ring
  /-- The feed relay was last to open in TO-RING, the ring relay in TO-FEED (R67, R69, R70). -/
  toRingOpened : l.relay.position = .toRing → l.relay.lastOpened = .feed
  toFeedOpened : l.relay.position = .toFeed → l.relay.lastOpened = .ring
  /-- The seize timer runs in SEIZING alone, the break timer in BREAK alone (R101 to R106). -/
  seizeTimer : l.hook.seizeTimer.isSome = true ↔ l.hook.state = .seizing
  breakTimer : l.hook.breakTimer.isSome = true ↔ l.hook.state = .brk
  /-- The dial-tone timer runs in OFF-HOOK and BREAK (R111). -/
  dialTimer : l.hook.dialTimer.isSome = true → l.hook.state = .offHook ∨ l.hook.state = .brk
  /-- The make timer runs while a train is in progress, which is in OFF-HOOK and BREAK (R107). -/
  makeTimer : l.hook.makeTimer.isSome = true ↔ l.hook.pulses ≠ 0
  trainOffHook : l.hook.pulses ≠ 0 → l.hook.state = .offHook ∨ l.hook.state = .brk

/-- Every line's records agree. -/
def State.LinesOk (s : State) : Prop := ∀ n : Line, (s.line n).Ok

/-- Every count, timer and store of one line lies in the range the spec gives it. -/
structure LineState.CountsOk (l : LineState) : Prop where
  counter : l.sense.counter ≤ 4095
  leakCount : l.sense.leakCount < 250
  tripRun : l.sense.tripRun ≤ 8
  pulses : l.hook.pulses ≤ 15
  store : l.hook.digits.length ≤ 16
  settle : l.relay.settle ≤ 4
  deadTimer : l.relay.deadTimer ≤ 60
  waitTimer : l.relay.waitTimer ≤ 25
  /-- The stutter timer, of a tone or of a suspended one (R122, R125). -/
  stutter : ∀ (p : StutterPhase) (d : Nat), l.tone.tone = some (.recall p d) ∨ l.tone.suspended = some (.recall p d) → d < 100
  dialTimer : ∀ d : Nat, l.hook.dialTimer = some d → d < 60000
  /-- Cycles elapsed, against the ring limit of the live order (R37). -/
  elapsed : ∀ o : Order, l.ring.order? = some o → o.elapsed ≤ o.limit

/-- Every count of the Notice Bus Interface lies in the range the spec gives it; samples of a bit time are counted below 16 (R129). -/
structure Bus.CountsOk (b : Bus) : Prop where
  errors : b.errors ≤ 15
  clashes : b.clashes ≤ 7
  period : b.period ≤ 2
  idle : b.idle ≤ 24
  idleSamples : b.idleSamples < 16
  dominantRun : b.dominantRun ≤ 20
  dominantSamples : b.dominantSamples < 16
  recessive : b.recessive ≤ 12 * 16
  buffer : b.buffer.length ≤ 15
  /-- The idle counter as a start edge found it (R131). -/
  before : ∀ y : ByteInProgress, b.byte = some y → y.idleBefore ≤ 24 ∧ y.idleSamplesBefore < 16

/-- Every count of the station lies in the range the spec gives it. -/
structure State.CountsOk (s : State) : Prop where
  slotTimer : s.cadence.slotTimer ≤ 499
  /-- A closed window is one of slot 0, with its timer at 40 ms or more (R7, R9). -/
  past : s.cadence.past = true → s.cadence.slot = 0 ∧ 40 ≤ s.cadence.slotTimer
  missed : s.cadence.missed ≤ 2
  /-- MARKER LOST stands exactly while the missed-marker count is 2 (R3, R7). -/
  markerLost : s.cadence.markerLost = true ↔ s.cadence.missed = 2
  zcTimer : s.cadence.zcTimer ≤ 60
  /-- ZC LOST stands exactly while the zero-cross timer is at 60 ms (R10, R11). -/
  zcLost : s.cadence.zcLost = true ↔ s.cadence.zcTimer = 60
  /-- The age of every peer entry is at most 3 (R23). -/
  ages : ∀ a : PeerAddr, ∀ e : Entry, s.table.peers[a.val] = some e → e.age ≤ 3
  queue : s.asm.queue.length ≤ 12
  windowTimer : s.sense.windowTimer < s.windowLength
  bus : s.bus.CountsOk
  lines : ∀ n : Line, (s.line n).CountsOk
  /-- The parameters that bound the counts above (R170). -/
  deadTime : s.params.relay.deadTime ≤ 60
  settle : s.params.relay.settle ≤ 4
  tripConfirm : s.params.relay.tripConfirm ≤ 8
  dialTimeout : s.params.timing.dialTimeout ≤ 60

end Sys2Proof.Machine
end

