-- ==== Sys2Proof/Certificates/Slice0/Obligations.lean ====
section
/-! DEFINITION. The statements for the provers, and the relations they are written in. A conclusion names the next state field by field, so
that it also says what a command leaves alone. -/

namespace Sys2Proof.Claims

open Sys2Proof.Machine

/-! ### Relations the statements share -/

/-- `t` is `s` with `r` at the end of the report queue, which takes it; a WITHHELD line becomes DIAL where 3 or more entries are then free
(R121, R153). -/
def Queued (s : State) (r : Report) (t : State) : Prop :=
  t = { s with asm := { s.asm with queue := s.asm.queue ++ [r] }, lines := t.lines } ∧
  ∀ m : Line, t.line m =
    if s.asm.queue.length < 9 ∧ (s.line m).tone.tone = some .withheld then
      { s.line m with tone := { (s.line m).tone with tone := some .dial } }
    else s.line m

/-- `t` is what the handing of an event of line `n` leaves of `s` (R154). -/
def Handed (s : State) (n : Line) (e : Event) (t : State) : Prop :=
  ((s.line n).eventsLost = true → t = s) ∧
  ((s.line n).eventsLost = false → 12 ≤ s.asm.queue.length → t = s.setLine n { s.line n with eventsLost := true }) ∧
  ((s.line n).eventsLost = false → s.asm.queue.length < 12 → Queued s (.event n e) t)

/-- `t` is what the offer of a QUERY answer or a refusal leaves of `s` (R161). -/
def Offered (s : State) (r : Report) (t : State) : Prop :=
  (12 ≤ s.asm.queue.length → t = s) ∧ (s.asm.queue.length < 12 → Queued s r t)

/-- Every line keeps its hook record. -/
def HooksKept (s t : State) : Prop := ∀ m : Line, (t.line m).hook = (s.line m).hook

/-- Every line keeps its hook record and its sense record. -/
def LoopsKept (s t : State) : Prop := ∀ m : Line, (t.line m).hook = (s.line m).hook ∧ (t.line m).sense = (s.line m).sense

/-- Every line but `n` keeps its order, in whatever ring state. -/
def OtherOrdersKept (n : Line) (s t : State) : Prop :=
  ∀ m : Line, m ≠ n → ((t.ring m).order?.map fun o => (o.pattern, o.limit, o.elapsed, o.rung)) =
    ((s.ring m).order?.map fun o => (o.pattern, o.limit, o.elapsed, o.rung))

/-- Only ring work has changed: the lines, the scheduler's collections, the load table and the assembler's reports and release mask. -/
def RingWorkOnly (s t : State) : Prop := t = { s with lines := t.lines, sched := t.sched, table := t.table, asm := t.asm }

/-- The window length for a dither index, in eighth-milliseconds (5-2). -/
def lengthOf (d : Fin 8) : Nat := #v[32, 28, 36, 30, 34, 29, 35, 32][d.val]

/-- A notice of another station can be ending: the receive condition is RECEIVING, with loading over, no own attempt in transmission and BUS HELD
clear (R51, R143, R146, R175). -/
def Receiving (s : State) : Prop := s.phase = .running ∧ s.bus.rx = .receiving ∧ s.bus.attempt = none ∧ s.bus.busHeld = false

/-- The notice of another station has ended in its idle gap: the receiver is IDLE with its buffer empty and its idle counter at 12. The dominant run and the
recessive samples stand as the ticks before left them (log 4). -/
def NoticeOver (s : State) : State :=
  { s with bus := { s.bus with rx := .idle, buffer := [], byte := none, idle := 12, idleSamples := 0 } }

/-- An order can arrive: the receive condition is RECEIVING, with loading over and BUS HELD clear, an attempt of the own in transmission or not
(R54, R57, R143, R146, R175). -/
def Hearing (s : State) : Prop := s.phase = .running ∧ s.bus.rx = .receiving ∧ s.bus.busHeld = false

/-- An order has arrived: its notice has ended, but for an own attempt in transmission, which goes on unchanged with its bus (R54, R57, log 4). -/
def Heard (s : State) : State := if s.bus.attempt = none then NoticeOver s else s

/-- `t` is what a millisecond of the relay, dial-tone and stutter timers of line `n` leaves of `s`: each running timer is a millisecond on, and where it
reaches its limit the command of that event is taken: DEAD_TIME_TO_RING or DEAD_TIME_TO_FEED at the dead time, ZC_WAIT_TIMEOUT at 25 ms, PERMANENT_LOOP at
the dial-tone timeout, STUTTER_ADVANCE at 100 ms (R65, R68, R69, R71, R111, R125). -/
def LineTimed (s : State) (n : Line) (t : State) : Prop :=
  ∃ b c d : State,
    (let r := (s.line n).relay
     let counted : RelayRecord := { r with
       waitTimer := if r.wait = .none then r.waitTimer else min 25 (r.waitTimer + 1)
       deadTimer := if r.deadRunning = true then r.deadTimer + 1 else r.deadTimer }
     let a := s.setLine n { s.line n with relay := counted }
     let due := r.deadRunning = true ∧ s.params.relay.deadTime ≤ counted.deadTimer
     (due → r.position = .toRing → exec (.deadTimeToRing n) a = .next b) ∧
     (due → r.position = .toFeed → exec (.deadTimeToFeed n) a = .next b) ∧
     (due → r.position = .feed ∨ r.position = .ringWait ∨ r.position = .ring →
       b = s.setLine n { s.line n with relay := { counted with deadTimer := s.params.relay.deadTime, deadRunning := false } }) ∧
     (¬ due → b = a)) ∧
    ((b.line n).relay.wait ≠ .none → 25 ≤ (b.line n).relay.waitTimer → exec (.zcWaitTimeout n) b = .next c) ∧
    ((b.line n).relay.wait = .none ∨ (b.line n).relay.waitTimer < 25 → c = b) ∧
    ((c.line n).hook.dialTimer = none → d = c) ∧
    (∀ k : Nat, (c.line n).hook.dialTimer = some k →
      (1000 * s.params.timing.dialTimeout ≤ k + 1 → exec (.permanentLoop n) c = .next d) ∧
      (k + 1 < 1000 * s.params.timing.dialTimeout →
        d = c.setLine n { c.line n with hook := { (c.line n).hook with dialTimer := some (k + 1) } })) ∧
    (∀ (k : Fin 6) (m : Nat), (d.line n).tone.tone = some (.recall (.burst k) m) →
      (100 ≤ m + 1 → exec (.stutterAdvance n) d = .next t) ∧
      (m + 1 < 100 → t = d.setLine n { d.line n with tone := { (d.line n).tone with tone := some (.recall (.burst k) (m + 1)) } })) ∧
    ((∀ (k : Fin 6) (m : Nat), (d.line n).tone.tone ≠ some (.recall (.burst k) m)) → t = d)

/-- `t` is what a millisecond of the timers of these lines, in turn, leaves of `s`. -/
def LinesTimed : List Line → State → State → Prop
  | [], s, t => t = s
  | n :: rest, s, t => ∃ u : State, LineTimed s n u ∧ LinesTimed rest u t

/-- The bus is quiet: the receiver is IDLE with no byte, hold or own attempt, fewer than 12 idle bit times counted and nobody driving. -/
def QuietBus (s : State) : Prop :=
  s.bus.rx = .idle ∧ s.bus.byte = none ∧ s.bus.busHeld = false ∧ s.bus.attempt = none ∧ s.bus.idle < 12 ∧ s.pins.nbLow = false

/-- Of what a crystal period can bring, neither a slot end, nor the loss of the zero-cross mark, nor a window end, nor anything of the bus, nor an edge on CYM
or ZCM falls in this one. -/
def OnlyTimersRun (s : State) : Prop :=
  s.cadence.slotTimer < 499 ∧ s.cadence.zcTimer ≠ 59 ∧ s.sense.windowTimer + 1 < lengthOf s.sense.dither ∧ QuietBus s ∧
  (s.pins.cym = false ∨ s.last.cym = true) ∧ (s.pins.zcm = false ∨ s.last.zcm = true)

/-- `t` is what the reading of the pins leaves of `s`: the leading edges on SNSn are counted, and then CYCLE_MARKER and ZERO_CROSS_MARK are taken, each
where its pin has a leading edge (R3, R10, R82; log 2, 20). -/
def PinsRead (s t : State) : Prop :=
  ∃ m u v : State, m = { s with lines := m.lines } ∧
    (∀ n : Line,
      let edge := s.serves n = true ∧ s.pins.sns.getLsbD n.val = true ∧ s.last.sns.getLsbD n.val = false
      (edge → m.line n = { s.line n with sense := { (s.line n).sense with counter := min 4095 ((s.line n).sense.counter + 1) } }) ∧
      (¬ edge → m.line n = s.line n)) ∧
    (s.pins.cym = true → s.last.cym = false → exec .cycleMarker m = .next u) ∧ (s.pins.cym = false ∨ s.last.cym = true → u = m) ∧
    (s.pins.zcm = true → s.last.zcm = false → exec .zeroCrossMark u = .next v) ∧ (s.pins.zcm = false ∨ s.last.zcm = true → v = u) ∧
    t = { v with last := { sns := s.pins.sns, cym := s.pins.cym, zcm := s.pins.zcm } }

/-- The Cadence Timer `c` as the marker window closes: the flag is examined, and a missed window counted (R7). -/
def WindowClosed (c : Cadence) : Cadence :=
  if c.markerMet = true then { c with past := true }
  else if c.missed = 0 then { c with past := true, missed := 1 } else { c with past := true, missed := 2, markerLost := true }

/-- The crystal period to come is the last of the millisecond in which slot 0's timer reads 40 ms, and the marker window is open (R7, R9; log 8). -/
abbrev WindowCloses (s : State) : Prop :=
  (s.crystal + 1) % 4096 = 4095 ∧ s.cadence.slot = 0 ∧ s.cadence.slotTimer = 40 ∧ s.cadence.past = false

/-- The Cadence Timer as the pins of a crystal period without a millisecond find it: an open window has closed as the reading of 40 ms runs out, and a marker
edge seen there finds slot 0 past 40 ms; where the state puts the marker first, the close does not come (R7, log 8). -/
def WindowPassed (s : State) : Cadence :=
  if WindowCloses s then
    if s.pins.cym = true ∧ s.last.cym = false then
      { (if s.order.lateClose = true then s.cadence else WindowClosed s.cadence) with slotTimer := 41 }
    else WindowClosed s.cadence
  else s.cadence

/-- The crystal period of a transfer in which CFGDA is read in clock `k` of CFGCK (R168, log 11). -/
def readAt (k : Nat) : Nat := 32 * k + 24

/-- The loader after `k` crystal periods of a transfer, CFGDA reading as `d` gives. -/
def transferred (d : Nat → Bool) (l : Loader) : Nat → Loader
  | 0 => l
  | k + 1 => (transferred d l k).clock (d k)

end Sys2Proof.Claims

open Sys2Proof Sys2Proof.Machine Sys2Proof.Claims

/-! ### The step and the whole machine -/

/-- A waiting command is run on the state with the queue's rest. -/
def Obligations.StepRunsFrontCommand : Prop :=
  ∀ (c : Instr) (rest : List Instr) (s : State), step { s with pending := c :: rest } = exec c { s with pending := rest }

/-- With no command waiting, a step is one period of the 4.096 MHz crystal (the model's choice, log 1 and 2): the crystal count moves on, pins, orders and
queue stand; with RST asserted the part is held in reset. With loading over the tone wave moves on by a crystal period. Every eighth of a millisecond the
window timer moves on, and a window that has its length ends. Every millisecond the slot timer moves on, or the slot ends at 500 ms, and the zero-cross timer
moves on up to 60 ms, where no edge on CYM or ZCM sets them back. Every eighth crystal period is a bus sample: with the receiver IDLE and the bus quiet a
recessive one counts toward the idle counter. Between these moments nothing of the three moves, but that an open marker window closes as slot 0's reading of
40 ms runs out (log 8). In a crystal period that ends no eighth of a millisecond the state is that of the bus sample, where one falls, and then of the pins
read. A leading edge is a high reading after a low one (PRESUMED for CYM and ZCM, log 20). In a millisecond in which nothing else falls due, the relay,
dial-tone and stutter timers of every line in use move on, each command whose limit is reached being taken, and an edge on SNSn counts. While configuration is
loading from a fitted memory the transfer moves on by a crystal period. A transfer whose two answer bits are low takes 452 clocks and reads the 48 bytes as
CFGDA gives them; a high answer bit leaves the image unread and rejected after the stop mark, one clock later (moments within a clock: the model's choice, log
11). Loading ends at the first millisecond with CFGP low or with the transfer over, by END_OF_LOADING with the image read. -/
def Obligations.IdleStepIsOneCrystalPeriod : Prop :=
  (∀ s : State, s.pending = [] →
    ∃ t : State, step s = .next t ∧ t.pending = [] ∧ t.pins = s.pins ∧ t.order = s.order ∧
      (s.pins.rst = false → s.phase ≠ .held → t.crystal = (s.crystal + 1) % 4096) ∧
      (s.pins.rst = true → t.phase = .held) ∧
      (s.pins.rst = false → s.phase = .held →
        t.phase = .loading ∧ t.straps = { address := s.pins.address, l8 := s.pins.l8, cfgp := s.pins.cfgp }) ∧
      (s.pins.rst = false → s.phase = .loading → (s.crystal + 1) % 4096 ≠ 0 → t.phase = .loading ∧ t.params = s.params ∧
        t.loader = if s.straps.cfgp = true ∧ s.loader.finished = false then s.loader.clock s.pins.cfgda else s.loader) ∧
      (s.pins.rst = false → s.phase = .loading → (s.crystal + 1) % 4096 = 0 →
        let l := if s.straps.cfgp = true ∧ s.loader.finished = false then s.loader.clock s.pins.cfgda else s.loader
        (s.straps.cfgp = true → l.finished = false → t.phase = .loading ∧ t.params = s.params ∧ t.loader = l) ∧
        (s.straps.cfgp = false ∨ l.finished = true → ∃ v w y : State,
          v = { s with crystal := 0, loader := l, cadence := v.cadence, table := v.table, sched := v.sched, bus := v.bus, asm := v.asm,
                       lines := v.lines } ∧
          (s.cadence.slotTimer < 499 → s.cadence.zcTimer ≠ 59 → v = { s with crystal := 0, loader := l, cadence := v.cadence }) ∧
          exec (.endOfLoading (if l.image.length = 48 then .image l.image else .silent)) v = .next w ∧
          PinsRead w y ∧ t = { y with cadence := t.cadence })) ∧
      (s.pins.rst = false → s.phase = .running →
        let x := (s.crystal + 1) % 4096
        let noMarker := s.pins.cym = false ∨ s.last.cym = true
        let noCross := s.pins.zcm = false ∨ s.last.zcm = true
        t.last = { sns := s.pins.sns, cym := s.pins.cym, zcm := s.pins.zcm } ∧
        t.tonePhase = (s.tonePhase + 1) % tonePeriod s.params.tone ∧
        (let moved : State := { s with crystal := x, tonePhase := (s.tonePhase + 1) % tonePeriod s.params.tone, cadence := WindowPassed s }
         x % 512 ≠ 0 → PinsRead (if x % 8 = 0 then moved.busSample else moved) t) ∧
        (x % 512 ≠ 0 → t.sense = s.sense) ∧
        (x % 512 = 0 → s.sense.windowTimer + 1 < lengthOf s.sense.dither → t.sense = { s.sense with windowTimer := s.sense.windowTimer + 1 }) ∧
        (x % 512 = 0 → lengthOf s.sense.dither ≤ s.sense.windowTimer + 1 → t.sense = { dither := s.sense.dither + 1, windowTimer := 0 }) ∧
        (x ≠ 0 → noMarker → noCross → t.cadence = WindowPassed s) ∧
        (x = 0 → noMarker →
          (s.cadence.slotTimer < 499 → t.cadence.slot = s.cadence.slot ∧ t.cadence.slotTimer = s.cadence.slotTimer + 1) ∧
          (499 ≤ s.cadence.slotTimer → t.cadence.slot = s.cadence.slot + 1 ∧ t.cadence.slotTimer = 0)) ∧
        (x = 0 → noCross →
          (s.cadence.zcTimer < 59 → t.cadence.zcTimer = s.cadence.zcTimer + 1 ∧ t.cadence.zcLost = s.cadence.zcLost) ∧
          (s.cadence.zcTimer = 59 → t.cadence.zcTimer = 60 ∧ t.cadence.zcLost = true) ∧
          (60 ≤ s.cadence.zcTimer → t.cadence.zcTimer = s.cadence.zcTimer ∧ t.cadence.zcLost = s.cadence.zcLost)) ∧
        (x % 8 ≠ 0 → noMarker → t.bus = s.bus) ∧
        (x % 8 = 0 → x ≠ 0 → noMarker → QuietBus s →
          t.bus = { s.bus with
            recessive := min 192 (s.bus.recessive + 1), dominantRun := 0, dominantSamples := 0
            idle := if s.bus.idleSamples + 1 < 16 then s.bus.idle else s.bus.idle + 1
            idleSamples := if s.bus.idleSamples + 1 < 16 then s.bus.idleSamples + 1 else 0 }))) ∧
  (∀ s : State, s.pending = [] → s.pins.rst = false → s.phase = .running → (s.crystal + 1) % 4096 = 0 → OnlyTimersRun s →
    ∃ m t : State, step s = .next t ∧
      LinesTimed ((List.finRange 8).filter fun n => s.inUse n)
        { s with crystal := 0, tonePhase := (s.tonePhase + 1) % tonePeriod s.params.tone } m ∧
      t = { m with cadence := t.cadence, sense := t.sense, bus := t.bus, last := t.last, lines := t.lines } ∧
      ∀ n : Line,
        let edge := s.inUse n = true ∧ s.pins.sns.getLsbD n.val = true ∧ s.last.sns.getLsbD n.val = false
        (edge → t.line n = { m.line n with sense := { (m.line n).sense with counter := min 4095 ((m.line n).sense.counter + 1) } }) ∧
        (¬ edge → t.line n = m.line n)) ∧
  ∀ (l : Loader) (d : Nat → Bool), l.position = 0 → l.shift = 0#8 → l.image = [] → l.unanswered = false → l.finished = false →
    (d (readAt 9) = false → d (readAt 18) = false →
      (∀ k : Nat, k < 452 * 32 → (transferred d l k).finished = false) ∧
      ∀ image : List Byte, image.length = 48 → (∀ j b : Nat, j < 48 → b < 8 → d (readAt (19 + 9 * j + b)) = (image.getD j 0#8).getLsbD (7 - b)) →
        transferred d l (452 * 32) = { l with position := 452 * 32, image := image, finished := true }) ∧
    (∀ k : Nat, (k = 9 ∨ k = 18 ∧ d (readAt 9) = false) → d (readAt k) = true →
      (∀ m : Nat, m < (k + 2) * 32 → (transferred d l m).finished = false) ∧
      transferred d l ((k + 2) * 32) =
        { l with position := 452 * 32, unanswered := true, finished := true, rejected := true })

/-- Every command answers a next state in every state, and none touches the queue, the chosen orders or what the outside holds on the sense, marker,
notice bus and memory pins. That a command whose event cannot occur is no stop is the model's choice (log 4). -/
def Obligations.EveryCommandCompletes : Prop :=
  ∀ (c : Instr) (s : State), ∃ t : State, exec c s = .next t ∧ t.pending = s.pending ∧ t.order = s.order ∧
    t.pins.sns = s.pins.sns ∧ t.pins.cym = s.pins.cym ∧ t.pins.zcm = s.pins.zcm ∧ t.pins.nbLow = s.pins.nbLow ∧
    t.pins.cfgda = s.pins.cfgda

/-- Parameters, straps and configuration marks stand from the end of loading to the next reset, whatever is commanded. -/
def Obligations.ConfigurationStands : Prop :=
  ∀ (c : Instr) (s t : State), s.phase = .running → exec c s = .next t → (∀ a l8 cfgp, c ≠ .reset a l8 cfgp) → c ≠ .resetAsserted →
    t.phase = .running ∧ t.params = s.params ∧ t.straps = s.straps ∧ t.loader = s.loader

/-! ### Reset -/

/-- RESET leaves the Notice Bus Interface and the Notice Assembler at the values of R146 and R147; while loading, nothing is driven on NB, no attempt
begins and no sample is taken. (The samples read recessive since the last dominant one, 0 at reset, are the model's choice, log 6.) -/
def Obligations.ResetBusAndAssembler : Prop :=
  ∀ (a : BitVec 5) (l8 cfgp : Bool) (s : State), ∃ t : State, exec (.reset a l8 cfgp) s = .next t ∧
    t.phase = .loading ∧ t.straps = { address := a, l8 := l8, cfgp := cfgp } ∧
    t.bus.link = (if a.toNat ≤ 23 then .listening else .silent) ∧ t.bus.period = 0 ∧ t.bus.rx = .waiting ∧ t.bus.idle = 0 ∧
    t.bus.idleSamples = 0 ∧ t.bus.dominantRun = 0 ∧ t.bus.dominantSamples = 0 ∧ t.bus.recessive = 0 ∧ t.bus.buffer = [] ∧ t.bus.byte = none ∧
    t.bus.attempt = none ∧ t.bus.ownLast = false ∧ t.bus.recovered = false ∧ t.bus.clashes = 0 ∧ t.bus.errors = 0 ∧
    t.bus.degraded = false ∧ t.bus.busHeld = false ∧ t.drivesLow = false ∧
    t.asm = { releaseMask := 0#8, refresh := .none, dueInAttempt := false, queue := [] } ∧ t.sched.token = .free ∧
    (∀ n : Line, (t.line n).eventsLost = false) ∧
    (∀ u : State, u.phase = .loading → u.busSample = u ∧ exec .attemptStart u = .next u)

/-- RESET leaves every other block at its reset values: the cadence timer at the start of slot 0, no peer entry, no order, both relays of every
line open, readings of 0 marked blanked, every line ON-HOOK and FREE with no tone, no mark of the loader set; the strap address decides the silent
state. -/
def Obligations.ResetOtherBlocks : Prop :=
  ∀ (a : BitVec 5) (l8 cfgp : Bool) (s : State), ∃ t : State, exec (.reset a l8 cfgp) s = .next t ∧
    t.cadence = { slot := 0, slotTimer := 0, past := false, markerMet := true, missed := 0, markerLost := false, zcTimer := 0, zcLost := false } ∧
    (∀ p : PeerAddr, t.table.peers[p.val] = none) ∧ (∀ k : Slot, t.table.own[k.val] = 0 ∧ t.table.shelf[k.val] = 0) ∧
    t.table.mismatch = false ∧ t.sched = { accepted := [], commits := [], token := .free } ∧
    t.sense = { dither := 0, windowTimer := 0 } ∧ t.loader.rejected = false ∧ t.loader.configDefaulted = false ∧
    t.strapInvalid = decide (24 ≤ a.toNat) ∧ t.toneOut = false ∧
    ∀ n : Line, t.ring n = .idle ∧ t.feedClosed n = false ∧ t.ringClosed n = false ∧ (t.line n).relay.position = .toFeed ∧
      (t.line n).relay.lastOpened = .ring ∧ (t.line n).relay.deadTimer = 0 ∧ (t.line n).relay.deadRunning = false ∧
      (t.line n).relay.wait = .none ∧ (t.line n).relay.settle = 0 ∧
      (t.line n).sense.counter = 0 ∧ (∀ k : Fin 4, (t.line n).sense.history[k.val] = { value := 0, blanked := true, saturated := false }) ∧
      (t.line n).sense.tripRun = 0 ∧ (t.line n).sense.leakFlag = false ∧ (t.line n).sense.leakCount = 0 ∧
      (t.line n).hook.state = .onHook ∧ (t.line n).hook.mode = .free ∧ (t.line n).hook.raw = ⟨.opened, .opened, .opened⟩ ∧
      (t.line n).loop = .opened ∧ (t.line n).hook.seizeTimer = none ∧ (t.line n).hook.breakTimer = none ∧
      (t.line n).hook.makeTimer = none ∧ (t.line n).hook.dialTimer = none ∧ (t.line n).hook.pulses = 0 ∧
      (t.line n).hook.digits = [] ∧ (t.line n).hook.digitsLost = false ∧
      (t.line n).tone = { tone := none, suspended := none, dialled := false } ∧ t.gateOpen n = false

/-- While RST is asserted the part is held: NB and ALM are released, both relays of every line are open, every gate is closed, TONE is low, and an attempt
in transmission is cut off. -/
def Obligations.ResetAssertedReleasesEverything : Prop :=
  ∀ s : State, ∃ t : State, exec .resetAsserted s = .next t ∧ t.phase = .held ∧ t.pins.rst = true ∧ t.bus.attempt = none ∧
    t.drivesLow = false ∧ t.alm = false ∧ t.toneOut = false ∧ t.sched = { accepted := [], commits := [], token := .free } ∧
    t.asm.queue = [] ∧ t.asm.releaseMask = 0#8 ∧
    ∀ n : Line, t.ring n = .idle ∧ t.feedClosed n = false ∧ t.ringClosed n = false ∧ t.gateOpen n = false

/-! ### The end of loading -/

namespace Sys2Proof.Claims

/-- Every block has begun its work with the parameters `t` holds: the own entry alone in the load table, with totals 0 and the configured budget; the
dead-time timers of the lines in use running from 0, lines out of use as they were; the first window. Where the tone wave begins is left open (log 7). -/
def BegunWork (s t : State) : Prop :=
  t = { s with phase := .running, loader := t.loader, params := t.params, table := t.table, sense := { dither := 0, windowTimer := 0 },
               tonePhase := t.tonePhase, lines := t.lines } ∧
  (∀ p : PeerAddr, t.table.peers[p.val] = none) ∧ (∀ k : Slot, t.table.own[k.val] = 0 ∧ t.table.shelf[k.val] = 0) ∧
  t.table.budget = t.params.ring.budget ∧ t.table.mismatch = false ∧
  ∀ n : Line, t.line n =
    if n.val < 4 ∨ s.straps.l8 = true then { s.line n with relay := { (s.line n).relay with deadTimer := 0, deadRunning := true } }
    else s.line n

/-- Every parameter at its default. -/
def AllDefaults (p : Params) : Prop :=
  p.ring.budget = 12 ∧ p.ring.limit = 23 ∧
  p.ring.patterns = #v[0b00000011#8, 0b00000101#8, 0b00010101#8, 0b00000001#8, 0b00000111#8, 0b00110011#8, 0b00001001#8, 0#8] ∧
  (∀ n : Line, p.weight n = 1 ∧ p.flashMode n = .report) ∧
  p.timing = { seizeConfirm := 40, glitch := 20, pulseMax := 100, flashMin := 150, flashMax := 700, interdigit := 200, dialTimeout := 15 } ∧
  p.threshold = { leak := 80, onHook := 400, offHook := 600, trip := 1600 } ∧
  p.relay = { deadTime := 12, settle := 2, tripConfirm := 3 } ∧ p.tone = { frequency := 400, level := 3 }

/-- Byte `k` of an image. -/
def byteAt (image : List Byte) (k : Nat) : Nat := (image.getD k 0#8).toNat

/-- The two-byte value at byte `k` of an image, most significant byte first. -/
def wordAt (image : List Byte) (k : Nat) : Nat := 256 * byteAt image k + byteAt image (k + 1)

/-- The image as a whole passes: signature 4DH, 32H, and byte 47 the CRC-8 of bytes 0 to 46. -/
def ImagePasses (image : List Byte) : Prop :=
  byteAt image 0 = 0x4D ∧ byteAt image 1 = 0x32 ∧ image.getD 47 0#8 = crc8 (image.take 47)

end Sys2Proof.Claims

/-- Where no memory is fitted, or it does not answer, or its image fails the signature or the check byte, every parameter takes its default, and every
block begins its work; the image rejected mark is set only where a memory is fitted. -/
def Obligations.LoadingWithoutImageTakesDefaults : Prop :=
  ∀ (s : State) (answer : MemoryAnswer), s.phase = .loading →
    (s.straps.cfgp = false ∨ answer = .silent ∨ ∃ image, answer = .image image ∧ ¬ ImagePasses image) →
    ∃ t : State, exec (.endOfLoading answer) s = .next t ∧ AllDefaults t.params ∧ BegunWork s t ∧
      t.loader.rejected = (s.loader.rejected || s.straps.cfgp) ∧ t.loader.defaulted = s.loader.defaulted

/-- On an image that passes as a whole each group is validated by itself: it gives all its stored values when it passes, and all its defaults with
its defaulted mark when it fails. -/
def Obligations.LoadingValidatesEachGroup : Prop :=
  ∀ (s : State) (i : List Byte), s.phase = .loading → s.straps.cfgp = true → ImagePasses i →
    ∃ t : State, exec (.endOfLoading (.image i)) s = .next t ∧ BegunWork s t ∧ t.loader.rejected = s.loader.rejected ∧
      (if 1 ≤ byteAt i 2 ∧ byteAt i 2 ≤ 48 ∧ 1 ≤ byteAt i 3 ∧ byteAt i 3 ≤ 63 then
        t.loader.defaulted.ring = false ∧ t.params.ring.budget = byteAt i 2 ∧ t.params.ring.limit = byteAt i 3 ∧
          ∀ k : Fin 8, t.params.pattern k = i.getD (4 + k.val) 0#8
      else t.loader.defaulted.ring = true ∧ t.params.ring = RingParams.default) ∧
      (if ∀ n : Line, 1 ≤ byteAt i (12 + n.val) % 8 ∧ byteAt i (12 + n.val) % 8 ≤ 4 then
        t.loader.defaulted.line = false ∧ ∀ n : Line, t.params.weight n = byteAt i (12 + n.val) % 8 ∧
          t.params.flashMode n = if 128 ≤ byteAt i (12 + n.val) then .recall else .report
      else t.loader.defaulted.line = true ∧ t.params.line = LineParams.default) ∧
      (if byteAt i 21 < byteAt i 22 ∧ byteAt i 22 < byteAt i 23 ∧ byteAt i 23 ≤ byteAt i 24 ∧ byteAt i 22 < byteAt i 25 ∧
          4 ≤ byteAt i 20 ∧ 5 ≤ byteAt i 26 ∧ byteAt i 26 ≤ 60 then
        t.loader.defaulted.timing = false ∧
          t.params.timing = { seizeConfirm := 4 * byteAt i 20, glitch := 4 * byteAt i 21, pulseMax := 4 * byteAt i 22,
                              flashMin := 4 * byteAt i 23, flashMax := 4 * byteAt i 24, interdigit := 4 * byteAt i 25,
                              dialTimeout := byteAt i 26 }
      else t.loader.defaulted.timing = true ∧ t.params.timing = TimingParams.default) ∧
      (if wordAt i 27 < wordAt i 29 ∧ wordAt i 29 < wordAt i 31 ∧ wordAt i 31 ≤ wordAt i 33 ∧ wordAt i 33 ≤ 4095 then
        t.loader.defaulted.threshold = false ∧
          t.params.threshold = { leak := wordAt i 27, onHook := wordAt i 29, offHook := wordAt i 31, trip := wordAt i 33 }
      else t.loader.defaulted.threshold = true ∧ t.params.threshold = ThresholdParams.default) ∧
      (if 4 ≤ byteAt i 35 ∧ byteAt i 35 ≤ 60 ∧ 1 ≤ byteAt i 36 ∧ byteAt i 36 ≤ 4 ∧ 2 ≤ byteAt i 37 ∧ byteAt i 37 ≤ 8 then
        t.loader.defaulted.relay = false ∧
          t.params.relay = { deadTime := byteAt i 35, settle := byteAt i 36, tripConfirm := byteAt i 37 }
      else t.loader.defaulted.relay = true ∧ t.params.relay = RelayParams.default) ∧
      (if 300 ≤ wordAt i 38 ∧ wordAt i 38 ≤ 500 ∧ 1 ≤ byteAt i 40 ∧ byteAt i 40 ≤ 7 then
        t.loader.defaulted.tone = false ∧ t.params.tone = { frequency := wordAt i 38, level := byteAt i 40 }
      else t.loader.defaulted.tone = true ∧ t.params.tone = ToneParams.default)

/-- One wrong byte anywhere in an image that would pass makes the whole image rejected: every parameter takes its default and CONFIG DEFAULTED
stands. -/
def Obligations.OneWrongByteRejectsTheImage : Prop :=
  ∀ (s : State) (i : List Byte) (k : Nat) (b : Byte), s.phase = .loading → s.straps.cfgp = true → i.length = 48 → ImagePasses i → k < 48 →
    b ≠ i.getD k 0#8 →
    ∃ t : State, exec (.endOfLoading (.image (i.set k b))) s = .next t ∧ t.loader.rejected = true ∧ t.loader.configDefaulted = true ∧
      AllDefaults t.params

/-! ### Relays and the cadence timer -/

namespace Sys2Proof.Claims

/-- The ring relay may close: it was the last to open, or the dead time has been reached (R66). -/
def RingMayClose (p : RelayParams) (r : RelayRecord) : Prop := r.lastOpened = .ring ∨ p.deadTime ≤ r.deadTimer

/-- The line with its ring relay just closed: RING, no wait, the settle windows to be blanked, a new trip run (R68, R72, R74). -/
def RingClosed (p : RelayParams) (l : LineState) : LineState :=
  { l with relay := { l.relay with position := .ring, wait := .none, waitTimer := 0, settle := p.settle, moved := true },
           sense := { l.sense with tripRun := 0 } }

/-- The line with its ring relay just opened: TO-FEED, no wait, the dead-time timer running from 0 (R66, R69, R70). -/
def RingOpened (l : LineState) : LineState :=
  { l with relay := { l.relay with position := .toFeed, lastOpened := .ring, deadTimer := 0, deadRunning := true, wait := .none,
                                   waitTimer := 0, moved := true } }

/-- The line with its feed relay just opened: TO-RING, the dead-time timer running from 0 (R66, R67). -/
def FeedOpened (l : LineState) : LineState :=
  { l with relay := { l.relay with position := .toRing, lastOpened := .feed, deadTimer := 0, deadRunning := true, wait := .none,
                                   waitTimer := 0, moved := true } }

/-- The line with its feed relay just closed: FEED, the settle windows to be blanked (R70, R71, R72). -/
def FeedClosed (p : RelayParams) (l : LineState) : LineState :=
  { l with relay := { l.relay with position := .feed, wait := .none, waitTimer := 0, settle := p.settle, moved := true } }

/-- The line waiting to close its ring relay (R67, R68): the wait timer runs from 0. -/
def WaitingToClose (l : LineState) : LineState :=
  { l with relay := { l.relay with position := .ringWait, wait := .toClose, waitTimer := 0 } }

/-- `l'` is what a waiting movement made at this moment leaves of `l` (R68, R69). -/
def MovementMade (p : RelayParams) (l l' : LineState) : Prop :=
  (l.relay.position = .ringWait → RingMayClose p l.relay → l' = RingClosed p l) ∧
  (l.relay.position = .ringWait → ¬ RingMayClose p l.relay → l' = l) ∧
  (l.relay.position = .ring → l.relay.wait = .toOpen → l' = RingOpened l) ∧
  (l.relay.position = .ring → l.relay.wait ≠ .toOpen → l' = l) ∧
  (l.relay.position = .feed ∨ l.relay.position = .toRing ∨ l.relay.position = .toFeed → l' = l)

/-- `l'` is what a ring request leaves of `l` (R67, R68). -/
def RingRequested (p : RelayParams) (zcLost : Bool) (l l' : LineState) : Prop :=
  (l.relay.position = .feed → l' = FeedOpened l) ∧
  (l.relay.position = .toFeed → zcLost = false → l' = WaitingToClose l) ∧
  (l.relay.position = .toFeed → zcLost = true → RingMayClose p l.relay → l' = RingClosed p l) ∧
  (l.relay.position = .toFeed → zcLost = true → ¬ RingMayClose p l.relay → l' = WaitingToClose l) ∧
  (l.relay.position = .toRing ∨ l.relay.position = .ringWait → l' = l) ∧
  (l.relay.position = .ring → l.relay.wait = .toOpen → l' = { l with relay := { l.relay with wait := .none, waitTimer := 0 } }) ∧
  (l.relay.position = .ring → l.relay.wait ≠ .toOpen → l' = l)

/-- `l'` is what an immediate feed request leaves of `l` (R70). -/
def FeedRequestedNow (p : RelayParams) (l l' : LineState) : Prop :=
  (l.relay.position = .ring → l' = RingOpened l) ∧
  (l.relay.position = .toRing ∨ l.relay.position = .ringWait →
    (l.relay.lastOpened = .feed ∨ p.deadTime ≤ l.relay.deadTimer → l' = FeedClosed p l) ∧
    (l.relay.lastOpened = .ring → l.relay.deadTimer < p.deadTime →
      l' = { l with relay := { l.relay with position := .toFeed, wait := .none, waitTimer := 0 } })) ∧
  (l.relay.position = .toFeed ∨ l.relay.position = .feed → l' = l)

/-- `l'` is what a synced feed request leaves of `l` (R69). -/
def FeedRequestedSynced (p : RelayParams) (zcLost : Bool) (l l' : LineState) : Prop :=
  (l.relay.position = .ring → l.relay.wait ≠ .toOpen → zcLost = false →
    l' = { l with relay := { l.relay with wait := .toOpen, waitTimer := 0 } }) ∧
  (l.relay.position = .ring → l.relay.wait ≠ .toOpen → zcLost = true → l' = RingOpened l) ∧
  (l.relay.position = .ring → l.relay.wait = .toOpen → l' = l) ∧
  (l.relay.position ≠ .ring → FeedRequestedNow p l l')

/-- `l'` is what the boundary from the slot of `s` to slot `new` leaves of the RINGING line `l` with this placement (R16). -/
def RelaysDirected (s : State) (p : Placement) (fresh : Bool) (new : Slot) (l l' : LineState) : Prop :=
  let wasOn := fresh = false ∧ p.mask.getLsbD s.cadence.slot.val = true
  let isOn := p.mask.getLsbD new.val = true
  (¬ wasOn → ¬ isOn → l' = l) ∧ (wasOn → isOn → l' = l) ∧
  (¬ wasOn → isOn → RingRequested s.params.relay s.cadence.zcLost l l') ∧
  (wasOn → ¬ isOn → FeedRequestedSynced s.params.relay s.cadence.zcLost l l')

/-- A refresh has fallen due (R151). -/
def RefreshDue (s t : State) : Prop :=
  t.asm = { s.asm with
    refresh := if s.asm.refresh = .none then .due else .escalated
    dueInAttempt := s.asm.dueInAttempt || (s.bus.attempt.any fun a => a.sent == .refresh) }

/-- A cycle marker found now is late in the window (R3). -/
def LateMarker (s : State) : Prop := s.cadence.slot = 0 ∧ s.cadence.slotTimer ≤ 40

/-- Command `c` makes a cycle start in `s`: the end of slot 7, or a marker that is not late. -/
def MakesCycleStart (c : Instr) (s : State) : Prop :=
  (c = .slotEnd ∧ s.cadence.slot = 7) ∨ (c = .cycleMarker ∧ ¬ LateMarker s)

end Sys2Proof.Claims

/-- SLOT_END: the next slot around the cycle begins at 0 ms. Hook records stand, and so does everything outside ring work, the link and the assembler;
while loading, a boundary that is no cycle start changes nothing else. -/
def Obligations.SlotEndBeginsTheNextSlot : Prop :=
  ∀ s : State, s.phase ≠ .held → ∃ t : State, exec .slotEnd s = .next t ∧
    t.cadence = { s.cadence with slot := s.cadence.slot + 1, slotTimer := 0, past := false } ∧ (s.cadence.slot = 7 → t.cadence.slot = 0) ∧
    t = { s with cadence := t.cadence, lines := t.lines, sched := t.sched, table := t.table, asm := t.asm, bus := t.bus } ∧
    HooksKept s t ∧
    (s.phase = .loading → s.cadence.slot ≠ 7 → t = { s with cadence := t.cadence }) ∧
    (s.phase = .loading → s.cadence.slot = 7 → s.bus.link = .listening → s.bus.period = 0 →
      t = { s with cadence := t.cadence, bus := { s.bus with period := 1 } })

/-- A boundary inside the cycle directs the relays of each RINGING line by its rotated mask, the previous slot taken as OFF at the first boundary after
the commit; it makes a refresh due in the own slot, and changes nothing else. A cycle start, however made, directs the relays of every line that rings on
after it in the same way, slot 0 being the new slot, and a line that was not RINGING keeps its relays.
A wait timer that has stopped holds 0: the model's choice (log 28). -/
def Obligations.BoundaryDirectsRelays : Prop :=
  (∀ s : State, s.phase = .running → s.cadence.slot ≠ 7 → ∃ t : State, exec .slotEnd s = .next t ∧
    t = { s with cadence := { s.cadence with slot := s.cadence.slot + 1, slotTimer := 0, past := false }, lines := t.lines, asm := t.asm } ∧
    ((s.cadence.slot + 1).val = s.address % 8 → RefreshDue s t) ∧ ((s.cadence.slot + 1).val ≠ s.address % 8 → t.asm = s.asm) ∧
    ∀ n : Line, ((s.ring n).isRinging = false → t.line n = s.line n) ∧
      ∀ (o : Order) (p : Placement) (fresh : Bool), s.ring n = .ringing o p fresh →
        RelaysDirected s p fresh (s.cadence.slot + 1) { s.line n with ring := .ringing o p false } (t.line n)) ∧
  (∀ (c : Instr) (s : State), s.phase = .running → MakesCycleStart c s → ∃ t : State, exec c s = .next t ∧
    ∀ n : Line, ((s.ring n).isRinging = false → (t.line n).relay = (s.line n).relay) ∧
      ∀ (o o' : Order) (p p' : Placement) (fresh fresh' : Bool), s.ring n = .ringing o p fresh → t.ring n = .ringing o' p' fresh' →
        p' = p ∧ fresh' = false ∧ ∃ l : LineState, RelaysDirected s p fresh 0 (s.line n) l ∧
          (t.line n).relay = l.relay ∧ (t.line n).sense = l.sense)

/-- CYCLE_MARKER: whatever its class, the marker is met, the missed count is 0, MARKER LOST clears, and slot 0 is timed from the marker; a marker late in
the window makes no slot start, so nothing else changes. -/
def Obligations.CycleMarkerRestartsSlotZero : Prop :=
  ∀ s : State, s.phase ≠ .held → ∃ t : State, exec .cycleMarker s = .next t ∧
    t.cadence = { s.cadence with slot := 0, slotTimer := 0, past := false, markerMet := true, missed := 0, markerLost := false } ∧
    (LateMarker s → t = { s with cadence := t.cadence }) ∧
    t = { s with cadence := t.cadence, lines := t.lines, sched := t.sched, table := t.table, asm := t.asm, bus := t.bus } ∧
    HooksKept s t

/-- A cycle start, however made, raises the cycles elapsed of every live order, which ends at its ring limit; it ages every peer entry, removing one
whose age stood at 3; and it counts toward the listen and islanded periods. -/
def Obligations.CycleStartCountsAndAges : Prop :=
  ∀ (c : Instr) (s : State), s.phase = .running → MakesCycleStart c s → ∃ t : State, exec c s = .next t ∧
    (∀ n : Line, s.ring n = .idle → t.ring n = .idle) ∧
    (∀ (n : Line) (o : Order), (s.ring n).order? = some o → o.limit ≤ o.elapsed + 1 → t.ring n = .idle) ∧
    (∀ (n : Line) (o : Order), (s.ring n).order? = some o → o.elapsed + 1 < o.limit →
      ∃ o' : Order, (t.ring n).order? = some o' ∧ o'.elapsed = o.elapsed + 1 ∧ o'.pattern = o.pattern ∧ o'.limit = o.limit ∧
        o'.rung = o.rung) ∧
    (∀ a : PeerAddr, t.table.peers[a.val] =
      match s.table.peers[a.val] with
      | some e => if 3 ≤ e.age then none else some { e with age := e.age + 1 }
      | none => none) ∧
    (s.bus.link = .listening ∨ s.bus.link = .islanded → s.bus.period = 0 → t.bus = { s.bus with period := 1 }) ∧
    (s.bus.link = .listening → 1 ≤ s.bus.period → t.bus = { s.bus with link := .joined, period := 2 }) ∧
    (s.bus.link = .islanded → 1 ≤ s.bus.period → t.bus = { s.bus with link := .joined, period := 2, recovered := true }) ∧
    (s.bus.link = .joined ∨ s.bus.link = .silent → t.bus = s.bus)

/-- The marker window: it opens at 460 ms of slot 7 and closes as slot 0 passes 40 ms, so that a marker after the close realigns; a marker that was not met
there is missed, and the second miss in a row sets MARKER LOST. Nothing outside the Cadence Timer changes. That the command brings the timer or count of
its event to its limit is the model's choice (log 4). By the clock, in every phase but reset, the window opens in the millisecond in which slot 7 comes to
460 ms, and closes while slot 0 reads 40 ms, in the last crystal period of that reading (DEDUCED, log 8). A marker edge in that crystal period realigns, with
the count at 0 and MARKER LOST clear, in either order of the two; in every other one in which slot 0 reads 40 ms or less it is late. -/
def Obligations.MarkerWindowWatchesForMarkers : Prop :=
  (∀ s : State, s.phase ≠ .held → s.cadence.slot = 7 → s.cadence.slotTimer ≤ 460 →
    exec .markerWindowOpens s = .next { s with cadence := { s.cadence with slotTimer := 460, markerMet := false } }) ∧
  (∀ s : State, s.phase ≠ .held → s.cadence.slot = 0 →
    (s.cadence.slotTimer ≤ 41 → s.cadence.past = false →
      exec .markerWindowCloses s = .next { s with cadence := WindowClosed { s.cadence with slotTimer := 41 } }) ∧
    ∃ t : State, exec .markerWindowCloses s = .next t ∧ MakesCycleStart .cycleMarker t) ∧
  (∀ s : State, s.phase ≠ .held →
    exec .markerLost s = .next { s with cadence := { s.cadence with missed := 2, markerLost := true } }) ∧
  ∀ s : State, s.pending = [] → s.pins.rst = false → s.phase ≠ .held →
    ∃ t : State, step s = .next t ∧
      let crossed (c : Cadence) : Cadence := { c with zcTimer := t.cadence.zcTimer, zcLost := t.cadence.zcLost }
      let edge : Prop := s.pins.cym = true ∧ s.last.cym = false
      let aligned : Cadence := { s.cadence with slotTimer := 0, past := false, markerMet := true, missed := 0, markerLost := false }
      ((s.crystal + 1) % 4096 = 0 → s.cadence.slotTimer < 499 → ¬ edge →
        let c : Cadence := { s.cadence with slotTimer := s.cadence.slotTimer + 1 }
        (s.cadence.slot = 7 → s.cadence.slotTimer = 459 → t.cadence = crossed { c with markerMet := false }) ∧
        (s.cadence.slot ≠ 7 ∨ s.cadence.slotTimer ≠ 459 → t.cadence = crossed c)) ∧
      ((s.crystal + 1) % 4096 ≠ 0 → ¬ edge →
        (WindowCloses s → t.cadence = crossed (WindowClosed s.cadence)) ∧
        (¬ WindowCloses s → t.cadence = crossed s.cadence)) ∧
      ((s.crystal + 1) % 4096 ≠ 0 → edge →
        (WindowCloses s → t.cadence = crossed aligned ∧
          (s.phase = .loading → s.bus.link = .listening → s.bus.period = 0 → t.bus = { s.bus with period := 1 })) ∧
        (¬ WindowCloses s → LateMarker s → t.cadence = crossed aligned ∧ (s.phase = .loading → t.bus = s.bus)))

/-- A zero-cross mark sets the zero-cross timer to 0 and clears ZC LOST; the timer reaching 60 ms sets ZC LOST; at either, every waiting movement of
every line is made, and nothing else changes. That the command brings the timer or count of its event to its limit is the model's choice (log 4).
A wait timer that has stopped holds 0: the model's choice (log 28). -/
def Obligations.ZeroCrossMakesWaitingMovements : Prop :=
  ∀ s : State, s.phase ≠ .held →
    (∃ t : State, exec .zeroCrossMark s = .next t ∧
      t = { s with cadence := { s.cadence with zcTimer := 0, zcLost := false }, lines := t.lines } ∧
      ∀ n : Line, MovementMade s.params.relay (s.line n) (t.line n)) ∧
    (∃ t : State, exec .zcLost s = .next t ∧
      t = { s with cadence := { s.cadence with zcTimer := 60, zcLost := true }, lines := t.lines } ∧
      ∀ n : Line, MovementMade s.params.relay (s.line n) (t.line n))

/-- The dead time reached in TO-RING begins the wait to close, or closes the ring relay at once with ZC LOST set; reached in TO-FEED it closes the
feed relay; a wait that has lasted 25 ms makes its movement. Nothing but the one line changes. That the command brings the timer or count of its event
to its limit is the model's choice (log 4).
A wait timer that has stopped holds 0: the model's choice (log 28). -/
def Obligations.RelayTimersMoveTheirLine : Prop :=
  ∀ (s : State) (n : Line), s.serves n = true →
    ((s.line n).relay.position = .toRing → s.cadence.zcLost = false →
      exec (.deadTimeToRing n) s = .next (s.setLine n (WaitingToClose
        { s.line n with relay := { (s.line n).relay with deadTimer := s.params.relay.deadTime, deadRunning := false } }))) ∧
    ((s.line n).relay.position = .toRing → s.cadence.zcLost = true →
      exec (.deadTimeToRing n) s = .next (s.setLine n (RingClosed s.params.relay
        { s.line n with relay := { (s.line n).relay with deadTimer := s.params.relay.deadTime, deadRunning := false } }))) ∧
    ((s.line n).relay.position = .toFeed →
      exec (.deadTimeToFeed n) s = .next (s.setLine n (FeedClosed s.params.relay
        { s.line n with relay := { (s.line n).relay with deadTimer := s.params.relay.deadTime, deadRunning := false } }))) ∧
    ((s.line n).relay.wait ≠ .none →
      ∃ l : LineState, MovementMade s.params.relay (s.line n) l ∧ exec (.zcWaitTimeout n) s = .next (s.setLine n l))

/-- No command takes a line from a closed feed relay to a closed ring relay, or from a closed ring relay to a closed feed relay: between the two there is
always a state in which both are open. A dead time is configured as 4 ms or more. -/
def Obligations.NoCommandMakesBeforeBreak : Prop :=
  ∀ (c : Instr) (s t : State) (n : Line), 1 ≤ s.params.relay.deadTime → exec c s = .next t →
    (s.feedClosed n = true → t.ringClosed n = false) ∧ (s.ringClosed n = true → t.feedClosed n = false)

/-! ### Placement, claims and the load view -/

namespace Sys2Proof.Claims

/-- A mask fits a view: in every slot of it the shelf total and the weight stay within the budget (R46). -/
def Fits (totals : Totals) (budget weight : Nat) (m : SlotSet) : Prop :=
  ∀ t : Slot, m.getLsbD t.val = true → totals[t.val] + weight ≤ budget

/-- `k` is the score of a mask: the largest total plus weight over its slots (R47). -/
def IsScore (totals : Totals) (weight : Nat) (m : SlotSet) (k : Nat) : Prop :=
  (∃ t : Slot, m.getLsbD t.val = true ∧ totals[t.val] + weight = k) ∧
  ∀ t : Slot, m.getLsbD t.val = true → totals[t.val] + weight ≤ k

/-- Place of an offset in the search order of station `A`: 0 for A mod 8, 1 for the next (R47). -/
def searchPlace (A : Nat) (o : Slot) : Nat := (o.val + 8 - A % 8) % 8

/-- The placement of an order of line `n`, from its five inputs: the own address, the shelf totals, the effective budget, the weight of the line and the
configured pattern that the order names (R46). -/
def placed (s : State) (n : Line) (o : Order) : Option Placement :=
  placement s.address s.table.shelf s.table.budget (s.params.weight n) (s.params.pattern o.pattern)

/-- Line `n` is PENDING with order `o` and no offset fits it. -/
def CannotBePlaced (s : State) (n : Line) : Prop := ∀ o : Order, s.ring n = .pending o → placed s n o = none

/-- `t` is what the release of a RINGING line leaves: IDLE, off both lists, its relays asked for feed at once, the release owed, the own totals formed
afresh (R55). -/
def Released (s : State) (n : Line) (t : State) : Prop :=
  t.ring n = .idle ∧ t.sched.accepted = s.sched.accepted.erase n ∧ t.sched.commits.Sublist (s.sched.commits.erase n) ∧
  (∀ m : Line, t.asm.releaseMask.getLsbD m.val = true → m ≠ n → s.asm.releaseMask.getLsbD m.val = true ∨ m ∈ s.sched.commits) ∧
  (∀ m : Line, s.asm.releaseMask.getLsbD m.val = true ∨ m = n → t.asm.releaseMask.getLsbD m.val = true) ∧
  t.table.own = t.ownTotals ∧ t.table.peers = s.table.peers ∧
  (∃ l : LineState, FeedRequestedNow s.params.relay (s.line n) l ∧ (t.line n).relay = l.relay) ∧
  LoopsKept s t ∧ OtherOrdersKept n s t ∧ RingWorkOnly s t

/-- Slot `k` is still over its allowance once the RINGING lines of `gone` are reckoned away from the own totals (R32, R33). -/
def StillOver (s : State) (gone : List Line) (k : Slot) : Prop :=
  ∃ allowed : Nat, s.overAllowance k = some allowed ∧
    allowed < ∑ m : Line, if (s.ring m).isRinging = true ∧ m ∉ gone then s.load m k else 0

/-- `t` is what shedding these RINGING lines in turn leaves of `s` (R56). -/
def ShedInTurn : List Line → State → State → Prop
  | [], s, t => t = s
  | n :: rest, s, t => ∃ (o : Order) (p : Placement) (b : Bool) (l : LineState) (u : State), s.ring n = .ringing o p b ∧
      FeedRequestedNow s.params.relay (s.line n) l ∧
      Handed { s.setLine n { l with ring := .pending o } with
        sched := { s.sched with commits := s.sched.commits.erase n }
        asm := { s.asm with releaseMask := s.asm.releaseMask ||| LineSet.single n } } n .ringShed u ∧
      ShedInTurn rest u t

/-- The line IDLE, off the acceptance order list. -/
def Ended (s : State) (n : Line) : State :=
  { s.setLine n { s.line n with ring := .idle } with sched := { s.sched with accepted := s.sched.accepted.erase n } }

/-- `t` is what the end of a line's ring work leaves, by its ring state (R53, R54, R55, R57, R61). -/
def RingWorkEnded (s : State) (n : Line) (t : State) : Prop :=
  (s.ring n = .idle → t = s) ∧
  (∀ o : Order, s.ring n = .pending o → t = Ended s n) ∧
  (∀ (o : Order) (p : Placement), s.ring n = .claiming o p → (∀ a : Attempt, ∀ m : Line, s.bus.attempt = some a → a.sent ≠ .claim m) →
    t = ({ Ended s n with sched := { (Ended s n).sched with token := .free } }).placementAttempt) ∧
  (∀ (o : Order) (p : Placement) (a : Attempt) (m : Line), s.ring n = .claiming o p → s.bus.attempt = some a → a.sent = .claim m →
    t = { Ended s n with sched := { (Ended s n).sched with token := .spent n } }) ∧
  (∀ (o : Order) (p : Placement) (b : Bool), s.ring n = .ringing o p b → Released s n t)

/-- An answered line: OFF-HOOK and IN CALL with the loop taken as closed, no seizure, break or dial-tone timing, and no tone (R77, R78). -/
def Answered (l : LineState) : LineState :=
  { l with hook := { l.hook with raw := ⟨.closed, .closed, .closed⟩, state := .offHook, mode := .inCall, seizeTimer := none,
                                 breakTimer := none, dialTimer := none },
           tone := { l.tone with tone := none, suspended := none } }

/-- `t` is what a trip of a line with ring work leaves: the work ended, RING TRIPPED with this place, the line answered (R59, R76, R77). -/
def Tripped (s : State) (n : Line) (place : TripPlace) (t : State) : Prop :=
  ∃ u v : State, RingWorkEnded s n u ∧ Handed u n (.ringTripped place) v ∧ t = v.setLine n (Answered (v.line n))

end Sys2Proof.Claims

/-- The rotated mask is the pattern turned later around the cycle by the offset; offset 0 gives the pattern itself. -/
def Obligations.RotatedMaskTurnsThePattern : Prop :=
  ∀ (pattern : SlotSet) (o t : Slot), (rotatedMask pattern o).getLsbD t.val = pattern.getLsbD (t - o).val ∧
    rotatedMask pattern 0 = pattern

/-- The placement computation chooses, of the offsets that fit, one of lowest score, and the earliest tried of those; it has no result exactly when no
offset fits. -/
def Obligations.PlacementTakesLowestScore : Prop :=
  ∀ (A : Nat) (T : Totals) (B w : Nat) (P : SlotSet),
    (placement A T B w P = none ↔ ∀ o : Slot, ¬ Fits T B w (rotatedMask P o)) ∧
    ∀ p : Placement, placement A T B w P = some p →
      p.mask = rotatedMask P p.offset ∧ Fits T B w p.mask ∧
      ∀ (o : Slot) (chosen other : Nat), Fits T B w (rotatedMask P o) → IsScore T w p.mask chosen → IsScore T w (rotatedMask P o) other →
        chosen ≤ other ∧ (chosen = other → searchPlace A p.offset ≤ searchPlace A o)

/-- A placement attempt proceeds only when the station is JOINED and the token FREE; the first line of the pending list, in acceptance order, that an
offset fits becomes CLAIMING and takes the token, and where none fits nothing changes. -/
def Obligations.PlacementAttemptClaimsFirstFit : Prop :=
  ∀ s : State,
    (s.bus.link ≠ .joined ∨ s.sched.token ≠ .free → s.placementAttempt = s) ∧
    ((∀ n ∈ s.sched.accepted, CannotBePlaced s n) → s.placementAttempt = s) ∧
    ∀ (before after : List Line) (n : Line) (o : Order) (p : Placement), s.bus.link = .joined → s.sched.token = .free →
      s.sched.accepted = before ++ n :: after → (∀ m ∈ before, CannotBePlaced s m) → s.ring n = .pending o →
      placed s n o = some p →
      s.placementAttempt =
        { s.setLine n { s.line n with ring := .claiming { o with deferred := true } p } with sched := { s.sched with token := .held n } }

/-- A view change leaves the shelf totals, the effective budget and BUDGET MISMATCH as the entries then give them; it keeps every peer entry, every order
and every loop. A claim in transmission is not tested. A held claim is tested again when the change is a peer notice or a fall of the budget: it stands
while its offset fits, and is placed afresh otherwise, or goes back to PENDING where none fits. -/
def Obligations.ViewChangeRecomputesTheView : Prop :=
  ∀ (s : State) (byPeerNotice : Bool), ∃ t : State, s.viewChange byPeerNotice = t ∧ RingWorkOnly s t ∧ LoopsKept s t ∧
    t.table.peers = s.table.peers ∧ t.sched.accepted = s.sched.accepted ∧
    (∀ n : Line, ((t.ring n).order?.map fun o => (o.pattern, o.limit, o.elapsed, o.rung)) =
      ((s.ring n).order?.map fun o => (o.pattern, o.limit, o.elapsed, o.rung))) ∧
    (∀ k : Slot, t.table.shelf[k.val] = t.table.own[k.val] +
      ∑ a : PeerAddr, (match t.table.peers[a.val] with | some e => e.totals[k.val] | none => 0)) ∧
    t.table.budget ≤ s.params.ring.budget ∧
    (∀ (a : PeerAddr) (e : Entry) (b : Nat), t.table.peers[a.val] = some e → e.budget = some b → t.table.budget ≤ b) ∧
    (t.table.budget = s.params.ring.budget ∨
      ∃ (a : PeerAddr) (e : Entry), t.table.peers[a.val] = some e ∧ e.budget = some t.table.budget) ∧
    (t.table.mismatch = true ↔
      ∃ (a : PeerAddr) (e : Entry) (b : Nat), t.table.peers[a.val] = some e ∧ e.budget = some b ∧ b ≠ s.params.ring.budget) ∧
    (let v : State := { s with table := s.table.recompute s.params.ring.budget }
     ((∀ n : Line, s.sched.token ≠ .held n) → t = v.placementAttempt.overloadCheck) ∧
     ∀ (n : Line) (o : Order) (p : Placement), s.sched.token = .held n → s.ring n = .claiming o p →
      ((∃ (b : Attempt) (m : Line), s.bus.attempt = some b ∧ b.sent = .claim m) → t = v.overloadCheck) ∧
      (byPeerNotice = false → s.table.budget ≤ v.table.budget → t = v.overloadCheck) ∧
      (Fits v.table.shelf v.table.budget (s.params.weight n) p.mask → t = v.overloadCheck) ∧
      ((∀ (b : Attempt) (m : Line), s.bus.attempt = some b → b.sent ≠ .claim m) → byPeerNotice = true ∨ v.table.budget < s.table.budget →
        ¬ Fits v.table.shelf v.table.budget (s.params.weight n) p.mask →
        (∀ q : Placement, placed v n o = some q → t = (v.setLine n { v.line n with ring := .claiming o q }).overloadCheck) ∧
        (placed v n o = none →
          t = ({ v.setLine n { v.line n with ring := .pending o } with sched := { s.sched with token := .free } }).placementAttempt.overloadCheck)))

/-- The overload check leaves no slot over the own allowance, whatever was over before: the walk from the newest commit always ends there. Where no slot is
over allowance it changes nothing. A line is shed exactly when it rings in a slot still over allowance once the newer lines shed are gone, the others being
passed over; each line shed is asked for feed at once, goes back to PENDING with its order, is owed a release and reported RING SHED; the own totals are
formed afresh once, and a placement attempt follows.
A wait timer that has stopped holds 0: the model's choice (log 28). -/
def Obligations.OverloadCheckRelievesEverySlot : Prop :=
  ∀ s : State, s.bus.link = .joined →
    (s.SchedulerOk → s.ViewOk → ∀ k : Slot, s.overloadCheck.overAllowance k = none) ∧
    ((∀ k : Slot, s.overAllowance k = none) → s.overloadCheck = s) ∧
    (s.SchedulerOk → ∃ shed : List Line, shed.Sublist s.sched.commits.reverse ∧
      (∀ (newer older : List Line) (n : Line), s.sched.commits.reverse = newer ++ n :: older →
        (n ∈ shed ↔ ∃ k : Slot, StillOver s (shed.filter fun m => m ∈ newer) k ∧ (s.ring n).rings k = true)) ∧
      (shed = [] → s.overloadCheck = s) ∧
      (shed ≠ [] → ∃ u : State, ShedInTurn shed s u ∧
        s.overloadCheck = ({ u with table := ({ u.table with own := u.ownTotals }).recompute u.params.ring.budget }).placementAttempt))

/-- RING_ORDER, well formed and for the own station: refused, absorbed or accepted by the checks of R159 in their order, an own attempt in transmission
or not; while the token is SPENT the line waits in PENDING. That an attempt and its bus go on unchanged is the model's choice (log 4).
What a notice's end leaves of the runs of samples counted before it is the model's choice (log 4). -/
def Obligations.RingOrderIsTakenByItsChecks : Prop :=
  ∀ (s : State) (w : Notice) (n : Line) (k : Fin 8) (limit : Nat), s.serves n = true → Hearing s →
    48 ≤ w.sender.toNat → w.sender.toNat ≤ 55 → limit ≤ 63 →
    w.payload = [BitVec.ofNat 8 s.address, BitVec.ofNat 8 n.val, BitVec.ofNat 8 k.val, BitVec.ofNat 8 limit] →
    let u := Heard s
    let refused (r : Reason) : Prop := ∃ t : State, exec (.ringOrder w) s = .next t ∧ Offered u (.refusal (BitVec.ofNat 8 n.val) .ring r) t
    let l := s.line n
    (l.hook.mode = .parked → refused .badLine) ∧
    (l.hook.mode ≠ .parked → s.params.pattern k = 0#8 → refused .badPattern) ∧
    (l.hook.mode ≠ .parked → s.params.pattern k ≠ 0#8 → l.hook.state = .offHook ∨ l.hook.state = .brk → refused .busy) ∧
    (l.hook.mode ≠ .parked → s.params.pattern k ≠ 0#8 → l.hook.state = .onHook ∨ l.hook.state = .seizing →
      (∀ o : Order, l.ring.order? = some o → o.pattern = k → exec (.ringOrder w) s = .next u) ∧
      (∀ o : Order, l.ring.order? = some o → o.pattern ≠ k → refused .conflict) ∧
      (l.ring = .idle → exec (.ringOrder w) s = .next
        ({ u.setLine n { l with ring := .pending { pattern := k, limit := if limit = 0 then s.params.ring.limit else limit, elapsed := 0,
                                                    deferred := false, rung := false } } with
           sched := { s.sched with accepted := s.sched.accepted ++ [n] } }).placementAttempt))

namespace Sys2Proof.Claims

/-- The command that a valid notice of an order kind is. -/
def orderCommand (kind : OrderKind) (w : Notice) : Instr :=
  match kind with
  | .ring => .ringOrder w
  | .cancel => .cancel w
  | .tone => .toneOrder w
  | .mode => .modeOrder w
  | .query => .query w

/-- Payload length of an order kind. -/
def orderLength : OrderKind → Nat
  | .ring => 4
  | .cancel => 2
  | .tone => 3
  | .mode => 3
  | .query => 2

/-- The fields beside target and line hold values of their encoding. -/
def orderFieldsOk (kind : OrderKind) (w : Notice) : Prop :=
  match kind with
  | .ring => (w.payload.getD 2 0#8).toNat ≤ 7 ∧ (w.payload.getD 3 0#8).toNat ≤ 63
  | .tone => (w.payload.getD 2 0#8).toNat ≤ 2
  | .mode => (w.payload.getD 2 0#8).toNat ≤ 2
  | .cancel => True
  | .query => True

end Sys2Proof.Claims

/-- An order of any kind: ignored unless a control station sent it with the own address as its target; refused BAD ORDER for a wrong length or a field outside
its encoding, with the line byte as received or 255; then refused BAD LINE for a line that is not in use.
What a notice's end leaves of the runs of samples counted before it is the model's choice (log 4). -/
def Obligations.OrdersAreCheckedForTargetFormAndLine : Prop :=
  ∀ (s : State) (kind : OrderKind) (w : Notice), Hearing s →
    let u := Heard s
    (w.sender.toNat < 48 ∨ 55 < w.sender.toNat ∨ w.payload = [] ∨ (∃ b : Byte, w.payload.head? = some b ∧ b.toNat ≠ s.address) →
      exec (orderCommand kind w) s = .next u) ∧
    (48 ≤ w.sender.toNat → w.sender.toNat ≤ 55 → (∃ b : Byte, w.payload.head? = some b ∧ b.toNat = s.address) →
      (w.payload.length ≠ orderLength kind ∨ ¬ orderFieldsOk kind w →
        ∃ t : State, exec (orderCommand kind w) s = .next t ∧ Offered u (.refusal (w.payload.getD 1 0xFF#8) kind .badOrder) t) ∧
      (w.payload.length = orderLength kind → orderFieldsOk kind w →
        8 ≤ (w.payload.getD 1 0#8).toNat ∨ (4 ≤ (w.payload.getD 1 0#8).toNat ∧ s.straps.l8 = false) →
        ∃ t : State, exec (orderCommand kind w) s = .next t ∧ Offered u (.refusal (w.payload.getD 1 0#8) kind .badLine) t))

/-- CANCEL, well formed and for the own station: the line's ring work ends by its ring state, with no report; with an own attempt in transmission, the
token SPENT or HELD, it acts by that state too, and the attempt goes on unchanged (log 4). (A view that is over allowance might shed
other lines with their reports; with sound lists and view, and no slot over allowance, it is not.)
A wait timer that has stopped holds 0: the model's choice (log 28).
What a notice's end leaves of the runs of samples counted before it is the model's choice (log 4). -/
def Obligations.CancelEndsRingWork : Prop :=
  ∀ (s : State) (w : Notice) (n : Line), s.serves n = true → Hearing s → 48 ≤ w.sender.toNat → w.sender.toNat ≤ 55 →
    w.payload = [BitVec.ofNat 8 s.address, BitVec.ofNat 8 n.val] →
    ∃ t : State, exec (.cancel w) s = .next t ∧ RingWorkEnded (Heard s) n t ∧
      (s.SchedulerOk → s.ViewOk → s.WithinAllowance → t.asm.queue = s.asm.queue ∧ ∀ m : Line, (t.line m).eventsLost = (s.line m).eventsLost)

/-- RING_EXPIRY ends a line's order by its ring state and reports RING EXPIRED by its rung flag; RING_DEFERRAL reports RING DEFERRED once for an order
still PENDING at its eighth cycle start. That the command brings the timer or count of its event to its limit is the model's choice (log 4).
A wait timer that has stopped holds 0: the model's choice (log 28). -/
def Obligations.OrdersExpireAndReportDeferral : Prop :=
  ∀ (s : State) (n : Line) (o : Order), s.serves n = true →
    ((s.ring n).order? = some o →
      ∃ u t : State, RingWorkEnded s n u ∧ Handed u n (.ringExpired o.rung) t ∧ exec (.ringExpiry n) s = .next t) ∧
    (s.ring n = .pending o → 8 < o.limit → o.deferred = false →
      ∃ t : State, Handed (s.setLine n { s.line n with ring := .pending { o with elapsed := max o.elapsed 8, deferred := true } }) n
          .ringDeferred t ∧ exec (.ringDeferral n) s = .next t)

/-- RING_TRIP: the trip run begins again at 0; a line with ring work is tripped, at the place its ring state and ring relay give, and an IDLE line is left as
it is.
A wait timer that has stopped holds 0: the model's choice (log 28). -/
def Obligations.TripIsTakenByRingState : Prop :=
  ∀ (s : State) (n : Line), s.serves n = true →
    let u := s.setLine n { s.line n with sense := { (s.line n).sense with tripRun := 0 } }
    (s.ring n = .idle → exec (.ringTrip n) s = .next u) ∧
    (∀ o : Order, s.ring n = .pending o → ∃ t : State, Tripped u n .beforeRing t ∧ exec (.ringTrip n) s = .next t) ∧
    (∀ (o : Order) (p : Placement), s.ring n = .claiming o p →
      ∃ t : State, Tripped u n .beforeRing t ∧ exec (.ringTrip n) s = .next t) ∧
    (∀ (o : Order) (p : Placement) (b : Bool), s.ring n = .ringing o p b →
      ∃ t : State, Tripped u n (if s.ringClosed n = true then .on else .off) t ∧ exec (.ringTrip n) s = .next t)

/-- The completion of the own claim commits the claiming line: RINGING with the offset and mask carried, last on the commit order list, its weight in the own
totals, RING PLACED reported where the queue takes it. The claim fits the view, as it did when its attempt began.
What a notice's end leaves of the runs of samples counted before it is the model's choice (log 4). -/
def Obligations.CompletedClaimIsCommitted : Prop :=
  ∀ (s : State) (n m : Line) (a : Attempt) (o : Order) (p : Placement), s.phase = .running → s.SchedulerOk → s.ViewOk → s.WithinAllowance →
    s.bus.attempt = some a → a.sent = .claim m → s.ring n = .claiming o p → Fits s.table.shelf s.table.budget (s.params.weight n) p.mask →
    ∃ t : State, exec .ownNoticeCompletion s = .next t ∧ t.ring n = .ringing { o with rung := true } p true ∧
      t.sched.commits = s.sched.commits ++ [n] ∧ t.sched.accepted = s.sched.accepted ∧ t.sched.token ≠ .held n ∧
      (∀ k : Slot, t.table.own[k.val] = s.table.own[k.val] + if p.mask.getLsbD k.val = true then s.params.weight n else 0) ∧
      t.table.peers = s.table.peers ∧ t.asm.releaseMask = s.asm.releaseMask ∧
      ((s.line n).eventsLost = false → s.asm.queue.length < 12 → .event n (.ringPlaced p.offset) ∈ t.asm.queue) ∧
      t.bus = { s.bus with attempt := none, clashes := 0, ownLast := true, rx := .idle, buffer := [], byte := none, idle := 12,
                           idleSamples := 0 }

/-- An own completion discharges what its notice carried: the carried lines leave the release mask; a claim whose line has left CLAIMING is owed a release;
a refresh is no longer owed, unless one fell due in its attempt, and sets the error tally back; a report leaves the queue. Waiting digits are then appended
to their entries.
What a notice's end leaves of the runs of samples counted before it is the model's choice (log 4). -/
def Obligations.CompletionDischargesWhatWasSent : Prop :=
  ∀ (s : State) (a : Attempt), s.phase = .running → s.bus.attempt = some a →
    let u : State := { s with bus := { s.bus with attempt := none, clashes := 0, ownLast := true, rx := .idle, buffer := [], byte := none,
                                                  idle := 12, idleSamples := 0 } }
    (∀ carried : LineSet, a.sent = .release carried → exec .ownNoticeCompletion s = .next
      ((({ u with asm := { u.asm with releaseMask := u.asm.releaseMask &&& ~~~carried } }).placementAttempt).takeAllDigits false)) ∧
    (∀ m n : Line, a.sent = .claim m → s.sched.token = .spent n → exec .ownNoticeCompletion s = .next
      ((({ u with asm := { u.asm with releaseMask := u.asm.releaseMask ||| LineSet.single n },
                  sched := { u.sched with token := .free } }).placementAttempt).takeAllDigits false)) ∧
    (a.sent = .refresh → exec .ownNoticeCompletion s = .next
      (({ u with asm := { u.asm with refresh := if s.asm.dueInAttempt = true then .due else .none, dueInAttempt := false },
                 bus := { u.bus with errors := 0, recovered := false } }).takeAllDigits false)) ∧
    (a.sent = .report → exec .ownNoticeCompletion s = .next (u.popReport.takeAllDigits false))

namespace Sys2Proof.Claims

/-- Eight totals as a payload carries them from byte `k` on. -/
def carriedTotals (payload : List Byte) (k : Nat) : Totals := Vector.ofFn fun t : Fin 8 => (payload.getD (k + t.val) 0#8).toNat

/-- Every total carried lies in 0 to 32. -/
def TotalsInRange (t : Totals) : Prop := ∀ k : Slot, t[k.val] ≤ 32

/-- `s` with a notice's totals in the entry of address `a`, its age 0, with this budget. -/
def WithEntry (s : State) (a : PeerAddr) (totals : Totals) (budget : Option Nat) : State :=
  { s with table := { s.table with peers := s.table.peers.set a.val (some { totals := totals, budget := budget, age := 0 }) } }

/-- The budget the entry of address `a` holds, if any. -/
def heldBudget (s : State) (a : PeerAddr) : Option Nat := (s.table.peers[a.val]).bind Entry.budget

end Sys2Proof.Claims

/-- CLAIM_RECEIVED, RELEASE_RECEIVED and REFRESH_RECEIVED from another line station, of the right length and with content in range, set the sender's totals and
age; a claim or release leaves the budget as it was and a refresh sets it; each is a view change. ENTRY_AGED_OUT removes the entry, a view change too.
What a notice's end leaves of the runs of samples counted before it is the model's choice (log 4). -/
def Obligations.PeerNoticesAreAppliedToTheView : Prop :=
  ∀ (s : State) (w : Notice) (a : PeerAddr), s.phase = .running →
    ((s.table.peers[a.val]).isSome = true → exec (.entryAgedOut a) s = .next
      (({ s with table := { s.table with peers := s.table.peers.set a.val none } }).viewChange false)) ∧
    (Receiving s → w.sender.toNat = a.val → a.val ≠ s.address →
      (w.payload.length = 11 → TotalsInRange (carriedTotals w.payload 3) → exec (.claimReceived w) s = .next
        ((WithEntry (NoticeOver s) a (carriedTotals w.payload 3) (heldBudget s a)).viewChange true)) ∧
      (w.payload.length = 9 → TotalsInRange (carriedTotals w.payload 1) → exec (.releaseReceived w) s = .next
        ((WithEntry (NoticeOver s) a (carriedTotals w.payload 1) (heldBudget s a)).viewChange true)) ∧
      (w.payload.length = 11 → TotalsInRange (carriedTotals w.payload 0) → 1 ≤ (w.payload.getD 8 0#8).toNat →
        (w.payload.getD 8 0#8).toNat ≤ 48 → exec (.refreshReceived w) s = .next
        ((WithEntry (NoticeOver s) a (carriedTotals w.payload 0) (some (w.payload.getD 8 0#8).toNat)).viewChange true)))

/-- A peer notice of the wrong length, or with a total or a budget out of range, is not applied and counts in the error tally, which stops at 15; a peer notice
from the own address or from an address above 23 is not applied and not counted.
What a notice's end leaves of the runs of samples counted before it is the model's choice (log 4). -/
def Obligations.UnfitPeerNoticesAreNotApplied : Prop :=
  ∀ (s : State) (w : Notice), Receiving s →
    let u := NoticeOver s
    let counted : State := { u with bus := { u.bus with errors := min 15 (s.bus.errors + 1) } }
    (w.sender.toNat < 24 → w.sender.toNat ≠ s.address →
      (w.payload.length ≠ 11 ∨ ¬ TotalsInRange (carriedTotals w.payload 3) → exec (.claimReceived w) s = .next counted) ∧
      (w.payload.length ≠ 9 ∨ ¬ TotalsInRange (carriedTotals w.payload 1) → exec (.releaseReceived w) s = .next counted) ∧
      (w.payload.length ≠ 11 ∨ ¬ TotalsInRange (carriedTotals w.payload 0) ∨ (w.payload.getD 8 0#8).toNat = 0 ∨
        48 < (w.payload.getD 8 0#8).toNat → exec (.refreshReceived w) s = .next counted)) ∧
    (24 ≤ w.sender.toNat ∨ w.sender.toNat = s.address →
      exec (.claimReceived w) s = .next u ∧ exec (.releaseReceived w) s = .next u ∧ exec (.refreshReceived w) s = .next u)

/-! ### Link state, attempts and reports -/

namespace Sys2Proof.Claims

/-- Every line keeps its order, in whatever ring state. -/
def OrdersKept (s t : State) : Prop :=
  ∀ n : Line, ((t.ring n).order?.map fun o => (o.pattern, o.limit, o.elapsed, o.rung)) =
    ((s.ring n).order?.map fun o => (o.pattern, o.limit, o.elapsed, o.rung))

/-- What may begin an attempt beside the idle time (R132). -/
def MayBegin (s : State) : Prop :=
  s.phase = .running ∧ (s.bus.link = .listening ∨ s.bus.link = .joined) ∧ s.bus.busHeld = false ∧ s.bus.attempt = none ∧
    s.bus.rx = .idle ∧ s.bus.byte = none

/-- `s` with an attempt begun: this notice of the own station on the wire, at the first sample of its start bit. -/
def Begun (s : State) (sent : Sent) (cls : BitVec 2) (kind : BitVec 4) (payload : List Byte) : State :=
  { s with bus := { s.bus with
      attempt := some { sent := sent, sample := 0,
                        bytes := noticeBytes kind { cls := cls, sender := s.straps.address.setWidth 6, payload := payload } }
      rx := .receiving, buffer := [], byte := none, idle := 0, idleSamples := 0, recessive := 0, ownLast := false } }

/-- `s` with LINK DEGRADED decided by the error tally (R145). -/
def Decided (s : State) : State := { s with bus := { s.bus with degraded := decide (8 ≤ s.bus.errors) } }

/-- Totals as payload bytes, slot 0 first (R164). -/
def bytesOf (t : Totals) : List Byte := t.toList.map (BitVec.ofNat 8)

/-- The payload of a refresh formed in this state (R152, R164). -/
def refreshBytes (s : State) : List Byte :=
  bytesOf s.ownTotals ++
    [BitVec.ofNat 8 s.params.ring.budget,
     BitVec.ofBool false ++ BitVec.ofBool s.bus.recovered ++ BitVec.ofBool (s.bus.link == .listening) ++ BitVec.ofBool s.table.mismatch
       ++ BitVec.ofBool s.bus.degraded ++ BitVec.ofBool s.cadence.zcLost ++ BitVec.ofBool s.cadence.markerLost
       ++ BitVec.ofBool s.loader.configDefaulted,
     BitVec.ofNat 4 s.bus.errors ++ BitVec.ofNat 4 s.ringingLines.length]

/-- The payload of a claim of line `n` formed in this state (R48, R164). -/
def claimBytes (s : State) (n : Line) (o : Order) (p : Placement) : List Byte :=
  (BitVec.ofNat 4 n.val ++ BitVec.ofNat 4 (s.params.weight n) : Byte) :: (BitVec.ofNat 4 o.pattern.val ++ BitVec.ofNat 4 p.offset.val : Byte)
    :: p.mask :: bytesOf (s.claimTotals n)

/-- Code and data of an event (R163). -/
def eventBytes : Event → List Byte
  | .seize => [0, 0]
  | .clear => [1, 0]
  | .flash => [2, 0]
  | .ringPlaced o => [3, BitVec.ofNat 8 o.val]
  | .ringTripped .on => [4, 0]
  | .ringTripped .off => [4, 1]
  | .ringTripped .beforeRing => [4, 2]
  | .ringExpired true => [5, 0]
  | .ringExpired false => [5, 1]
  | .ringDeferred => [6, 0]
  | .ringShed => [7, 0]
  | .permanentLoop => [8, 0]
  | .leakOn => [9, 0]
  | .leakOff => [10, 0]
  | .digitError c => [11, BitVec.ofNat 8 c]

/-- A digit on the wire: 0 is sent as 10 (R164). -/
def wireDigit (d : Digit) : BitVec 4 := if d.val = 0 then 10#4 else BitVec.ofNat 4 d.val

/-- Digits two to a byte, the earlier in bits 7 to 4; the last low half is 0 for an odd count (R164). -/
def digitBytes (ds : List Digit) : List Byte :=
  (List.range ((ds.length + 1) / 2)).map fun j => ((ds[2 * j]?).elim 0#4 wireDigit ++ (ds[2 * j + 1]?).elim 0#4 wireDigit : Byte)

/-- A history entry: blanked mark in bit 15, saturated mark in bit 14, reading in bits 11 to 0 (R164); bits 13 and 12 are 0 (log 27) and bits 15 to 8
come first (log 29). -/
def historyBytes (r : Reading) : List Byte :=
  [BitVec.ofBool r.blanked ++ BitVec.ofBool r.saturated ++ 0#2 ++ BitVec.ofNat 4 (r.value / 256), BitVec.ofNat 8 r.value]

/-- Byte 1 of a STATE report: hook state, ring state, tone state and mode, two bits each (R164). -/
def stateByte (l : LineState) : Byte :=
  (match l.hook.state with | .onHook => 0#2 | .seizing => 1#2 | .offHook => 2#2 | .brk => 3#2) ++
  (match l.ring with | .idle => 0#2 | .pending _ => 1#2 | .claiming _ _ => 2#2 | .ringing _ _ _ => 3#2) ++
  (match l.tone.tone with | none => 0#2 | some .withheld => 1#2 | some .dial => 2#2 | some (.recall _ _) => 3#2) ++
  (match l.hook.mode with | .free => 0#2 | .inCall => 1#2 | .parked => 2#2)

/-- Kind and payload of a report formed in this state (R162 to R164, 9-9). Bit 5 of byte 2 of a STATE report and the unused bits of byte 1 of a DIGITS
report, which counts 1 to 6, are 0 (log 27). -/
def reportBytes (s : State) : Report → BitVec 4 × List Byte
  | .event n e => (8, BitVec.ofNat 8 n.val :: eventBytes e)
  | .digits n ds lost => (9, BitVec.ofNat 8 n.val :: (BitVec.ofBool lost ++ BitVec.ofNat 7 ds.length : Byte) :: digitBytes ds)
  | .state n lost =>
    let l := s.line n
    (10, BitVec.ofNat 8 n.val :: stateByte l ::
      (BitVec.ofBool lost ++ BitVec.ofBool l.sense.leakFlag ++ 0#1 ++ BitVec.ofNat 5 l.hook.digits.length : Byte) ::
      (historyBytes l.sense.history[0] ++ historyBytes l.sense.history[1] ++ historyBytes l.sense.history[2] ++ historyBytes l.sense.history[3]))
  | .refusal b k r =>
    (11, [b, match k with | .ring => 3 | .cancel => 4 | .tone => 5 | .mode => 6 | .query => 7,
      match r with | .badLine => 1 | .badPattern => 2 | .busy => 3 | .conflict => 4 | .badState => 5 | .badOrder => 6])

/-- The digits of line `n` in the report queue, oldest first. -/
def queuedDigits (n : Line) (q : List Report) : List Digit :=
  q.flatMap fun r => match r with
    | .digits m ds _ => if m = n then ds else []
    | .event _ _ => []
    | .state _ _ => []
    | .refusal _ _ _ => []

end Sys2Proof.Claims

/-- LISTEN_PERIOD_END and ISLANDED_PERIOD_END make the station JOINED with the period count at 2; a return from ISLANDED sets the recovered mark.
Orders are kept, and with sound lists and view no slot is over allowance afterwards. That the command brings the timer or count of its event to its
limit is the model's choice (log 4). -/
def Obligations.PeriodEndsJoinTheStation : Prop :=
  ∀ s : State, s.phase ≠ .held →
    (s.bus.link = .listening → ∃ t : State, exec .listenPeriodEnd s = .next t ∧ t.bus = { s.bus with link := .joined, period := 2 } ∧
      RingWorkOnly s { t with bus := s.bus } ∧ LoopsKept s t ∧ OrdersKept s t ∧ t.table.peers = s.table.peers ∧
      (s.SchedulerOk → s.ViewOk → ∀ k : Slot, t.overAllowance k = none)) ∧
    (s.bus.link = .islanded → ∃ t : State, exec .islandedPeriodEnd s = .next t ∧
      t.bus = { s.bus with link := .joined, period := 2, recovered := true } ∧
      RingWorkOnly s { t with bus := s.bus } ∧ LoopsKept s t ∧ OrdersKept s t ∧ t.table.peers = s.table.peers ∧
      (s.SchedulerOk → s.ViewOk → ∀ k : Slot, t.overAllowance k = none))

/-- ISLANDING: a JOINED or LISTENING station becomes ISLANDED with its counts at 0; a CLAIMING line goes back to PENDING with its order and the token is FREE;
RINGING lines ring on and every order is kept. -/
def Obligations.IslandingDropsTheClaim : Prop :=
  ∀ s : State, s.phase = .running → s.bus.link = .joined ∨ s.bus.link = .listening → s.bus.attempt = none →
    (∀ (n : Line) (o : Order) (p : Placement), s.sched.token = .held n → s.ring n = .claiming o p → exec .islanding s = .next
      { s.setLine n { s.line n with ring := .pending o } with
        sched := { s.sched with token := .free }, bus := { s.bus with link := .islanded, period := 0, clashes := 0 } }) ∧
    (s.sched.token = .free → exec .islanding s = .next
      { s with bus := { s.bus with link := .islanded, period := 0, clashes := 0 } })

/-- A clash ends the attempt undischarged and the receiver discards what is on the wire, its idle counter counting from the last dominant sample; the eighth
in a row makes a JOINED or LISTENING station ISLANDED. A loss ends the attempt undischarged too, and the station receives the winner's notice from its
arbitration byte on. A SPENT claim so ended is dropped, with no release owed, and its token is FREE, which brings a placement attempt (before the islanding
of an eighth clash: the model's choice, log 24). The receive buffer is empty after a clash: the model's choice (log 31). That ISLANDING may be commanded at any clash count is the model's choice (log 4).
So is the idle counter of a clash, which takes the recessive samples of the ticks before it (log 4). So is a loss commanded after the arbitration byte, where
R133 has none: it ends the attempt by loss, and the winner's byte takes the place of the receive buffer (log 4). -/
def Obligations.ClashAndLossDischargeNothing : Prop :=
  ∀ (s : State) (a : Attempt), s.phase = .running → s.bus.attempt = some a →
    let kept (t : State) : Prop := t.asm.releaseMask = s.asm.releaseMask ∧ t.asm.refresh = s.asm.refresh ∧
      t.asm.queue.length = s.asm.queue.length ∧ t.asm.dueInAttempt = (s.asm.dueInAttempt && a.sent != .refresh) ∧
      t.table = s.table ∧ (∀ n : Line, (t.line n).relay = (s.line n).relay ∧ (t.line n).sense = (s.line n).sense) ∧ OrdersKept s t
    let spent : Prop := ∃ n m : Line, s.sched.token = .spent n ∧ a.sent = .claim m
    let freed : State := ({ s with bus := { s.bus with attempt := none }, sched := { s.sched with token := .free } }).placementAttempt
    let ringKept (t : State) : Prop := (¬ spent → t.sched = s.sched ∧ ∀ n : Line, t.ring n = s.ring n) ∧
      (spent → t.sched = freed.sched ∧ ∀ n : Line, t.ring n = freed.ring n)
    let claimDropped (t : State) : Prop := (∀ n : Line, t.sched.token ≠ .held n) ∧ (spent → t.sched.token = .free)
    let discarding : Bus := { s.bus with
      attempt := none, rx := .discarding, buffer := [], byte := none, idle := s.bus.recessive / 16, idleSamples := s.bus.recessive % 16 }
    (s.bus.clashes < 7 → ∃ t : State, exec .clash s = .next t ∧ kept t ∧ ringKept t ∧ t.bus = { discarding with clashes := s.bus.clashes + 1 }) ∧
    (7 ≤ s.bus.clashes → s.bus.link = .joined ∨ s.bus.link = .listening → ∃ t : State, exec .clash s = .next t ∧ kept t ∧ claimDropped t ∧
      t.bus = { discarding with clashes := 0, link := .islanded, period := 0 }) ∧
    (s.bus.link = .joined ∨ s.bus.link = .listening → ∃ t : State, exec .islanding s = .next t ∧ kept t ∧ claimDropped t ∧
      t.bus = { discarding with clashes := 0, link := .islanded, period := 0 }) ∧
    (∀ winner : Byte, ∃ t : State, exec (.arbitrationLoss winner) s = .next t ∧ kept t ∧ ringKept t ∧
      t.bus = { s.bus with attempt := none, rx := .receiving, buffer := [winner], byte := none, idle := 0, idleSamples := 0 })

/-- ATTEMPT_START sends the first notice that is present: a release at class 0, the held claim at class 1 once its offset fits the view (placed afresh where it
no longer fits), an escalated refresh at class 1, the head report at class 2, a due refresh at class 3. Its content is formed from the state that then
stands, byte by byte as R164 lays it out (bits without a meaning sent as 0: log 27; history words high byte first: log 29). -/
def Obligations.AttemptSendsTheFirstNoticePresent : Prop :=
  ∀ s : State, MayBegin s →
    (s.asm.releaseMask ≠ 0#8 →
      exec .attemptStart s = .next (Begun s (.release s.asm.releaseMask) 0 1 (s.asm.releaseMask :: bytesOf s.ownTotals))) ∧
    (∀ (n : Line) (o : Order) (p : Placement), s.asm.releaseMask = 0#8 → s.sched.token = .held n → s.ring n = .claiming o p →
      (Fits s.table.shelf s.table.budget (s.params.weight n) p.mask →
        exec .attemptStart s = .next (Begun s (.claim n) 1 0 (claimBytes s n o p))) ∧
      (∀ q : Placement, ¬ Fits s.table.shelf s.table.budget (s.params.weight n) p.mask → placed s n o = some q →
        let u := s.setLine n { s.line n with ring := .claiming o q }
        exec .attemptStart s = .next (Begun u (.claim n) 1 0 (claimBytes u n o q))) ∧
      (¬ Fits s.table.shelf s.table.budget (s.params.weight n) p.mask → placed s n o = none →
        ∃ t : State, exec .attemptStart s = .next t ∧ t.ring n = .pending o ∧ t.sched.token ≠ .held n ∧
          ∀ b : Attempt, t.bus.attempt = some b → b.sent ≠ .claim n)) ∧
    (s.asm.releaseMask = 0#8 → (∀ n : Line, s.sched.token ≠ .held n) →
      (s.asm.refresh = .escalated → exec .attemptStart s = .next (Begun (Decided s) .refresh 1 2 (refreshBytes (Decided s)))) ∧
      (s.asm.refresh ≠ .escalated → ∀ (r : Report) (rest : List Report), s.asm.queue = r :: rest →
        exec .attemptStart s = .next (Begun s .report 2 (reportBytes s r).1 (reportBytes s r).2)) ∧
      (s.asm.refresh = .due → s.asm.queue = [] →
        exec .attemptStart s = .next (Begun (Decided s) .refresh 3 2 (refreshBytes (Decided s)))) ∧
      (s.asm.refresh = .none → s.asm.queue = [] → exec .attemptStart s = .next s))

/-- An event enters the report queue when it has room and the line has lost none; it is lost, and the line's flag set, when the queue is full; and it is dropped
while the flag stands. -/
def Obligations.EventsEnterTheQueueOrAreLost : Prop :=
  ∀ (s : State) (n : Line) (e : Event), Handed s n e (s.handEvent n e)

/-- When the head entry leaves, a WITHHELD line becomes DIAL where 3 or more entries are then free. The lowest-numbered line that lost events is then given its
summary, and its flag clears; where none did, the room goes to the waiting digits of the lines, taken in line order. -/
def Obligations.FreedRoomIsFilled : Prop :=
  ∀ (s : State) (r : Report) (rest : List Report), s.asm.queue = r :: rest → ∃ v : State,
    v = { s with asm := { s.asm with queue := rest }, lines := v.lines } ∧
    (∀ m : Line, v.line m =
      if rest.length ≤ 9 ∧ (s.line m).tone.tone = some .withheld then
        { s.line m with tone := { (s.line m).tone with tone := some .dial } }
      else s.line m) ∧
    (let u := s.popReport
     u = { s with asm := u.asm, lines := u.lines } ∧
     (∀ n : Line, (s.line n).eventsLost = true → (∀ m : Line, m < n → (s.line m).eventsLost = false) →
       u.asm = { s.asm with queue := rest ++ [.state n true] } ∧ (u.line n).eventsLost = false ∧
       ∀ m : Line, m ≠ n → (u.line m).eventsLost = (s.line m).eventsLost ∧ (u.line m).hook = (s.line m).hook) ∧
     ((∀ n : Line, (s.line n).eventsLost = false) → u = (List.finRange 8).foldl (fun (x : State) (n : Line) => x.takeDigits true n) v) ∧
     ((∀ n : Line, (s.line n).eventsLost = false) → (∀ n : Line, (s.line n).hook.digits = []) → u = v) ∧
     (rest.length ≤ 9 → ∀ n : Line, (u.line n).tone.tone ≠ some .withheld))

namespace Sys2Proof.Claims

/-- Line `n` with the first digit of its store taken; a digits-lost flag has gone with it (R110). -/
def DigitGone (l : LineState) : LineState :=
  { l with hook := { l.hook with digits := l.hook.digits.tail, digitsLost := false } }

/-- The queue is `before`, a DIGITS entry of line `n` and `after`; the entry is the last for the line, holds fewer than 6 digits and is not in transmission
(R155). What counts as an entry for the line is log 18's. -/
def CanAppend (s : State) (n : Line) (before after : List Report) (ds : List Digit) (lost : Bool) : Prop :=
  s.asm.queue = before ++ Report.digits n ds lost :: after ∧ (∀ r ∈ after, r.line? ≠ some n) ∧ ds.length < 6 ∧
  ¬ (before = [] ∧ ∃ a : Attempt, s.bus.attempt = some a ∧ a.sent = .report)

end Sys2Proof.Claims

/-- Digits move from a line's store into the report queue without loss or change of order, six to an entry; no other entry and no other line is touched. The first
digit of the store is appended to the last entry for the line, where that is a DIGITS entry with room that is not in transmission; otherwise it goes into a
new entry while the queue has room for one, where entries may be made, and stays where they may not, as at the end of an own attempt; a set digits-lost flag
goes with it and clears. So the queue grows only where entries may be made, and a digit then stays in the store only while it is full. The lines are taken in
line order. (That a REFUSAL counts as an entry for a line is the model's reading, log 18, DEDUCED.) -/
def Obligations.DigitsMoveIntoTheQueueInOrder : Prop :=
  (∀ (s : State) (mayMake : Bool) (n : Line),
    ∃ t : State, s.takeDigits mayMake n = t ∧ t = { s with asm := { s.asm with queue := t.asm.queue }, lines := t.lines } ∧
    queuedDigits n t.asm.queue ++ (t.line n).hook.digits = queuedDigits n s.asm.queue ++ (s.line n).hook.digits ∧
    (mayMake = true → (t.line n).hook.digits ≠ [] → 12 ≤ t.asm.queue.length) ∧
    (mayMake = false → t.asm.queue.length = s.asm.queue.length ∧
      t = { s.setLine n { s.line n with hook := (t.line n).hook } with asm := { s.asm with queue := t.asm.queue } }) ∧
    (∀ m : Line, m ≠ n → queuedDigits m t.asm.queue = queuedDigits m s.asm.queue ∧ (t.line m).hook = (s.line m).hook) ∧
    (t.asm.queue.filter fun r => match r with | .digits _ _ _ => false | .event _ _ => true | .state _ _ => true | .refusal _ _ _ => true) =
      (s.asm.queue.filter fun r => match r with | .digits _ _ _ => false | .event _ _ => true | .state _ _ => true | .refusal _ _ _ => true) ∧
    ((∀ (m : Line) (ds : List Digit) (b : Bool), Report.digits m ds b ∈ s.asm.queue → ds.length ≤ 6) →
      ∀ (m : Line) (ds : List Digit) (b : Bool), Report.digits m ds b ∈ t.asm.queue → ds.length ≤ 6) ∧
    ((s.line n).hook.digits = [] → t = s) ∧
    (∀ (d : Digit) (more : List Digit), (s.line n).hook.digits = d :: more →
      let lost := (s.line n).hook.digitsLost
      let l := s.setLine n (DigitGone (s.line n))
      (∀ (before after : List Report) (ds : List Digit) (b : Bool), CanAppend s n before after ds b →
        t = ({ l with asm := { s.asm with queue := before ++ Report.digits n (ds ++ [d]) (b || lost) :: after } }).takeDigits mayMake n) ∧
      ((∀ (before after : List Report) (ds : List Digit) (b : Bool), ¬ CanAppend s n before after ds b) →
        (mayMake = true → s.asm.queue.length < 12 → ∃ u : State, Queued l (.digits n [d] lost) u ∧ t = u.takeDigits mayMake n) ∧
        (mayMake = false ∨ 12 ≤ s.asm.queue.length → t = s)))) ∧
  ∀ (s : State) (mayMake : Bool),
    s.takeAllDigits mayMake = (List.finRange 8).foldl (fun (x : State) (n : Line) => x.takeDigits mayMake n) s

/-! ### Loop sensing -/

namespace Sys2Proof.Claims

/-- The class of the window ending on a line is feed position (R72). -/
def FeedWindow (l : LineState) : Prop := l.relay.moved = false ∧ l.relay.settle = 0 ∧ l.relay.position = .feed

/-- The class of the window ending on a line is ring position (R72). -/
def RingWindow (l : LineState) : Prop := l.relay.moved = false ∧ l.relay.settle = 0 ∧ l.relay.position = .ring

/-- `r'` is the last three raw states after a window with this reading (R87, R88, R99). -/
def RawEntered (t : ThresholdParams) (l : LineState) (reading : Nat) (r' : RawStates) : Prop :=
  r'.oldest = l.hook.raw.middle ∧ r'.middle = l.hook.raw.newest ∧
  (FeedWindow l → t.offHook ≤ reading → r'.newest = .closed) ∧
  (FeedWindow l → reading < t.onHook → reading < t.offHook → r'.newest = .opened) ∧
  (FeedWindow l → t.onHook ≤ reading → reading < t.offHook → r'.newest = l.hook.raw.newest) ∧
  (¬ FeedWindow l → r'.newest = l.hook.raw.newest)

/-- The window ending completes the trip run of line `n` (R74). -/
def TripDue (s : State) (n : Line) : Prop :=
  RingWindow (s.line n) ∧ s.params.threshold.trip ≤ readingOf (s.line n).sense.counter (lengthOf s.sense.dither) ∧
    s.params.relay.tripConfirm ≤ (s.line n).sense.tripRun + 1

/-- The state held by at least two of three raw states (R99). -/
def Majority (r : RawStates) (x : Loop) : Prop :=
  (r.oldest = x ∧ r.middle = x) ∨ (r.oldest = x ∧ r.newest = x) ∨ (r.middle = x ∧ r.newest = x)

end Sys2Proof.Claims

/-- The reading of a count: 4095 when the count is saturated; otherwise the count times 32 over the window length, rounded to the nearest with a half rounded up,
and 4095 at most; equal to the count in a window of 32, 0 for 0, and 1 for 1 in every window. -/
def Obligations.ReadingScalesTheCount : Prop :=
  ∀ c w : Nat, 0 < w → c ≤ 4095 →
    readingOf c w ≤ 4095 ∧ (c = 4095 → readingOf c w = 4095) ∧
    (c ≠ 4095 → ∃ N : Nat, 64 * c < 2 * w * N + w ∧ 2 * w * N ≤ 64 * c + w ∧ readingOf c w = min 4095 N) ∧
    (w = 32 → readingOf c w = c) ∧ readingOf 0 w = 0 ∧ (∀ d : Fin 8, readingOf 1 (lengthOf d) = 1)

/-- WINDOW_END: the dither index moves on and the window timer begins again; every line in use enters its reading in its history, with its marks, and
counts from 0 again; the trip run and the leak count are counted, held or set to 0 by the class of the window, and where one reaches its count the
line is tripped or its leak flag turned; the settle count is lowered by one where no relay moved, and the mark of a movement clears; lines out of use and
everything outside the lines' own work stand.
A wait timer that has stopped holds 0: the model's choice (log 28). -/
def Obligations.WindowEndTakesEveryReading : Prop :=
  ∀ s : State, s.phase = .running → ∃ t : State, exec .windowEnd s = .next t ∧
    t = { s with sense := { dither := s.sense.dither + 1, windowTimer := 0 }, lines := t.lines, sched := t.sched, table := t.table,
                 asm := t.asm } ∧
    (∀ n : Line, s.inUse n = false → (t.line n).sense = (s.line n).sense ∧ (t.line n).hook = (s.line n).hook) ∧
    ∀ n : Line, s.inUse n = true →
      let l := s.line n
      let reading := readingOf l.sense.counter (lengthOf s.sense.dither)
      let evidence := if l.sense.leakFlag = true then reading < s.params.threshold.leak
        else s.params.threshold.leak ≤ reading ∧ reading < s.params.threshold.offHook ∧ Majority l.hook.raw .opened
      let eligible := l.hook.state = .onHook ∧ l.ring = .idle ∧ l.hook.mode ≠ .parked
      let counted : RelayRecord :=
        { l.relay with settle := if l.relay.moved = true then l.relay.settle else l.relay.settle - 1, moved := false }
      (t.line n).sense.counter = 0 ∧
      (t.line n).sense.history[0] = l.sense.history[1] ∧ (t.line n).sense.history[1] = l.sense.history[2] ∧
      (t.line n).sense.history[2] = l.sense.history[3] ∧ (t.line n).sense.history[3].value = reading ∧
      ((t.line n).sense.history[3].saturated = true ↔ l.sense.counter = 4095) ∧
      (s.SchedulerOk → s.ViewOk → s.WithinAllowance →
        ((t.line n).sense.history[3].blanked = true ↔ ¬ FeedWindow l ∧ ¬ RingWindow l) ∧
        (¬ RingWindow l → (t.line n).sense.tripRun = l.sense.tripRun) ∧
        (RingWindow l → reading < s.params.threshold.trip → 0 < s.params.relay.tripConfirm → (t.line n).sense.tripRun = 0) ∧
        (RingWindow l → s.params.threshold.trip ≤ reading → l.sense.tripRun + 1 < s.params.relay.tripConfirm →
          (t.line n).sense.tripRun = l.sense.tripRun + 1) ∧
        (RingWindow l → s.params.threshold.trip ≤ reading → s.params.relay.tripConfirm ≤ l.sense.tripRun + 1 →
          l.ring.isRinging = true →
          (t.line n).sense.tripRun = 0 ∧ t.ring n = .idle ∧ (t.line n).hook.state = .offHook ∧ (t.line n).hook.mode = .inCall ∧
          (t.line n).relay = (RingOpened { l with relay := counted }).relay) ∧
        (l.ring.isRinging = false → (t.line n).relay = counted) ∧
        (l.ring.isRinging = true → l.hook.state ≠ .seizing → 0 < s.params.relay.tripConfirm → ¬ TripDue s n →
          (t.line n).relay = counted)) ∧
      (¬ eligible → (t.line n).sense.leakCount = 0 ∧ (t.line n).sense.leakFlag = l.sense.leakFlag) ∧
      (eligible → ¬ FeedWindow l → ¬ RingWindow l → l.sense.leakCount < 250 →
        (t.line n).sense.leakCount = l.sense.leakCount ∧ (t.line n).sense.leakFlag = l.sense.leakFlag) ∧
      (eligible → FeedWindow l → ¬ evidence → (t.line n).sense.leakCount = 0 ∧ (t.line n).sense.leakFlag = l.sense.leakFlag) ∧
      (eligible → FeedWindow l → evidence → l.sense.leakCount < 249 →
        (t.line n).sense.leakCount = l.sense.leakCount + 1 ∧ (t.line n).sense.leakFlag = l.sense.leakFlag) ∧
      (eligible → FeedWindow l → evidence → l.sense.leakCount = 249 →
        (t.line n).sense.leakCount = 0 ∧ (t.line n).sense.leakFlag = !l.sense.leakFlag)

/-- LEAK_ON and LEAK_OFF change the leak flag of an eligible line, set its count to 0 and report; SENSE_PULSE_EDGE raises the pulse counter of a line
in use, up to 4095, and of a line out of use nothing. That LEAK_ON and LEAK_OFF may be commanded at any count is the model's choice (log 4). -/
def Obligations.LeakFlagsTurnAndPulsesCount : Prop :=
  ∀ (s : State) (n : Line),
    (s.serves n = true → (s.line n).hook.state = .onHook → s.ring n = .idle → (s.line n).hook.mode ≠ .parked →
      ((s.line n).sense.leakFlag = false → ∃ t : State, exec (.leakOn n) s = .next t ∧
        Handed (s.setLine n { s.line n with sense := { (s.line n).sense with leakFlag := true, leakCount := 0 } }) n .leakOn t) ∧
      ((s.line n).sense.leakFlag = true → ∃ t : State, exec (.leakOff n) s = .next t ∧
        Handed (s.setLine n { s.line n with sense := { (s.line n).sense with leakFlag := false, leakCount := 0 } }) n .leakOff t)) ∧
    (s.serves n = true → exec (.sensePulseEdge n) s = .next
      (s.setLine n { s.line n with sense := { (s.line n).sense with counter := min 4095 ((s.line n).sense.counter + 1) } })) ∧
    (s.inUse n = false → exec (.sensePulseEdge n) s = .next s)

/-! ### Hook supervision and tone -/

namespace Sys2Proof.Claims

/-- The event of line `n` is in the report queue, or the line has lost events (R154). -/
def Told (n : Line) (e : Event) (t : State) : Prop := Report.event n e ∈ t.asm.queue ∨ (t.line n).eventsLost = true

/-- The seizure of a line with ring work at a window end that does not complete its trip run: it begins, fails, goes on, or is confirmed and taken as a
trip (R76, R101, R102). -/
def RingingLineSeized (s : State) (n : Line) (r : RawStates) (t : State) : Prop :=
  let l := s.line n
  let w := lengthOf s.sense.dither
  let place : TripPlace := if l.ring.isRinging = true then (if s.ringClosed n = true then .on else .off) else .beforeRing
  let stands : Prop := t.ring n ≠ .idle ∧ (t.line n).hook.raw = r
  (l.hook.state = .onHook → Majority r .opened → stands ∧ (t.line n).hook.state = .onHook) ∧
  (l.hook.state = .onHook → Majority r .closed →
    stands ∧ (t.line n).hook.state = .seizing ∧ (t.line n).hook.seizeTimer = some 0) ∧
  (l.hook.state = .seizing → Majority r .opened →
    stands ∧ (t.line n).hook.state = .onHook ∧ (t.line n).hook.seizeTimer = none) ∧
  (∀ d : Nat, l.hook.state = .seizing → l.hook.seizeTimer = some d → Majority r .closed → d + w < 8 * s.params.timing.seizeConfirm →
    stands ∧ (t.line n).hook.state = .seizing ∧ (t.line n).hook.seizeTimer = some (d + w)) ∧
  (∀ d : Nat, l.hook.state = .seizing → l.hook.seizeTimer = some d → Majority r .closed → 8 * s.params.timing.seizeConfirm ≤ d + w →
    t.ring n = .idle ∧ (t.line n).hook.raw = ⟨.closed, .closed, .closed⟩ ∧ (t.line n).hook.state = .offHook ∧
    (t.line n).hook.mode = .inCall ∧ (t.line n).hook.seizeTimer = none ∧ (t.line n).hook.dialTimer = none ∧
    (t.line n).tone.tone = none ∧ Told n (.ringTripped place) t)

/-- The train of line `n` at a window end: the make timer counts on, and where it reaches the interdigit make the train is completed, as a digit or as
DIGIT ERROR (R100, R107, R108). -/
def TrainCounted (s : State) (n : Line) (t : State) : Prop :=
  let h := (s.line n).hook
  let w := lengthOf s.sense.dither
  ∀ d : Nat, h.state = .offHook → h.makeTimer = some d → h.pulses ≠ 0 →
    (d + w < 8 * s.params.timing.interdigit → (t.line n).hook.pulses = h.pulses ∧ (t.line n).hook.makeTimer = some (d + w)) ∧
    (8 * s.params.timing.interdigit ≤ d + w →
      (t.line n).hook.pulses = 0 ∧ (t.line n).hook.makeTimer = none ∧
      (h.pulses ≤ 10 → (t.line n).hook.dialTimer = none ∧ (t.line n).tone.dialled = true) ∧
      (h.pulses ≤ 10 → h.digits.length < 16 → queuedDigits n t.asm.queue ++ (t.line n).hook.digits =
        queuedDigits n s.asm.queue ++ h.digits ++ [Fin.ofNat 10 h.pulses]) ∧
      (11 ≤ h.pulses → Told n (.digitError h.pulses) t))

/-- The events of line `n` in the report queue, oldest first. -/
def eventsOf (n : Line) (q : List Report) : List Event :=
  q.flatMap fun r => match r with
    | .event m e => if m = n then [e] else []
    | .digits _ _ _ => []
    | .state _ _ => []
    | .refusal _ _ _ => []

/-- What the work on other lines at a window end leaves of line `n`, which has no ring work: its hook record, its digits and its events stand, and so does its tone
unless it was WITHHELD and has become DIAL (R121); the report queue has taken no less than it held. -/
def LineStands (n : Line) (s t : State) : Prop :=
  t = { s with sense := t.sense, lines := t.lines, sched := t.sched, table := t.table, asm := t.asm } ∧
  t.ring n = .idle ∧ (t.line n).hook = (s.line n).hook ∧ (t.line n).eventsLost = (s.line n).eventsLost ∧
  queuedDigits n t.asm.queue = queuedDigits n s.asm.queue ∧ eventsOf n t.asm.queue = eventsOf n s.asm.queue ∧
  s.asm.queue.length ≤ t.asm.queue.length ∧
  ((t.line n).tone = (s.line n).tone ∨
    (s.line n).tone.tone = some .withheld ∧ (t.line n).tone = { (s.line n).tone with tone := some .dial })

/-- Line `n` with these last three raw states and its running hook timers a window of `w` on (R99, R100). -/
def Advanced (s : State) (n : Line) (r : RawStates) (w : Nat) : State :=
  s.setLine n { s.line n with hook := { (s.line n).hook with
    raw := r
    seizeTimer := (s.line n).hook.seizeTimer.map (· + w)
    breakTimer := (s.line n).hook.breakTimer.map (· + w)
    makeTimer := (s.line n).hook.makeTimer.map (· + w) } }

/-- `t` is what the test of a break for the glitch limit leaves of `s` (R104). -/
def GlitchTested (s : State) (n : Line) (t : State) : Prop :=
  ∀ d : Nat, (s.line n).hook.breakTimer = some d →
    (8 * s.params.timing.glitch ≤ d → (s.line n).hook.glitchTold = false → exec (.glitchLimitReached n) s = .next t) ∧
    (d < 8 * s.params.timing.glitch ∨ (s.line n).hook.glitchTold = true → t = s)

/-- `t` is what the rules of the hook state leave of `s` at a window end, line `n` having taken its raw state and its time: a seizure begins, fails, goes on or is
confirmed; a due train completes and a break begins; a break is told its glitch limit, and is cleared, ended by its length, or goes on (R101 to R108). -/
def HookMoved (s : State) (n : Line) (t : State) : Prop :=
  let h := (s.line n).hook
  let T := s.params.timing
  let due : Prop := h.pulses ≠ 0 ∧ ∃ d : Nat, h.makeTimer = some d ∧ 8 * T.interdigit ≤ d
  (h.state = .onHook → Majority h.raw .opened → t = s) ∧
  (h.state = .onHook → Majority h.raw .closed →
    t = s.setLine n { s.line n with hook := { h with state := .seizing, seizeTimer := some 0 } }) ∧
  (∀ d : Nat, h.state = .seizing → h.seizeTimer = some d →
    (Majority h.raw .opened ∨ 8 * T.seizeConfirm ≤ d → exec (.seizeConfirm n) s = .next t) ∧
    (Majority h.raw .closed → d < 8 * T.seizeConfirm → t = s)) ∧
  (h.state = .offHook →
    (due → exec (.interdigitMake n) s = .next t) ∧
    (¬ due → Majority h.raw .closed → t = s) ∧
    (¬ due → Majority h.raw .opened → GlitchTested
      (s.setLine n { s.line n with hook := { h with state := .brk, breakTimer := some 0, glitchTold := false } }) n t)) ∧
  (∀ d : Nat, h.state = .brk → h.breakTimer = some d → ∃ g : State, GlitchTested s n g ∧
    (8 * T.flashMax < d → exec (.clear n) g = .next t) ∧
    (d ≤ 8 * T.flashMax → Majority h.raw .closed → t = g.endBreak n d) ∧
    (d ≤ 8 * T.flashMax → Majority h.raw .opened → t = g))

end Sys2Proof.Claims

/-- At a window end the supervisor enters the raw state of a line that is not PARKED (on HOLD a copy of the newest, also where the three differ: the model's
choice, log 25), advances its timers by the window, and moves its hook state by the debounced loop state and the timers: hook record, tone and reports are those that the
seizure, train, glitch limit, clear or end of break due there leaves, with a turn of the leak flag after it. A due train is completed there. A PARKED line
keeps its hook record, tone and reports. A line with ring work begins, fails or confirms a seizure in the same way, the confirmation being a trip; that is said of
sound lists and view, and of a window that does not complete its trip run. (The model's readings, all DEDUCED: a due train is not completed at the window end that ends a
glitch, log 10; a glitch limit of 0 is reached as the break begins, log 12; the leak flag turns after the supervisor's pass, log 15.) -/
def Obligations.WindowEndMovesTheHookState : Prop :=
  (∀ (s : State) (n : Line), s.serves n = true → s.ring n = .idle → (s.line n).hook.mode = .parked →
    ∃ t : State, exec .windowEnd s = .next t ∧ LineStands n s t) ∧
  (∀ (s : State) (n : Line), s.serves n = true → s.ring n ≠ .idle → (s.line n).hook.mode ≠ .parked → s.SchedulerOk → s.ViewOk →
    s.WithinAllowance → 0 < s.params.relay.tripConfirm → ¬ TripDue s n →
    ∃ (t : State) (r : RawStates), exec .windowEnd s = .next t ∧
      RawEntered s.params.threshold (s.line n) (readingOf (s.line n).sense.counter (lengthOf s.sense.dither)) r ∧
      RingingLineSeized s n r t) ∧
  ∀ (s : State) (n : Line), s.serves n = true → s.ring n = .idle → (s.line n).hook.mode ≠ .parked →
    let l := s.line n
    let w := lengthOf s.sense.dither
    let late (d : Nat) : Prop := 8 * s.params.timing.flashMax < d + w
    ∃ (t : State) (r : RawStates), exec .windowEnd s = .next t ∧ t.ring n = .idle ∧ TrainCounted s n t ∧
      RawEntered s.params.threshold l (readingOf l.sense.counter w) r ∧ (t.line n).hook.raw = r ∧
      (∃ u v z : State, LineStands n s u ∧ HookMoved (Advanced u n r w) n v ∧
        ((t.line n).sense.leakFlag = l.sense.leakFlag → z = v) ∧
        ((t.line n).sense.leakFlag ≠ l.sense.leakFlag → Handed v n (if l.sense.leakFlag = true then .leakOff else .leakOn) z) ∧
        LineStands n z t) ∧
      (l.hook.state = .onHook → Majority r .opened → (t.line n).hook.state = .onHook) ∧
      (l.hook.state = .onHook → Majority r .closed → (t.line n).hook.state = .seizing ∧ (t.line n).hook.seizeTimer = some 0) ∧
      (l.hook.state = .seizing → Majority r .opened → (t.line n).hook.state = .onHook ∧ (t.line n).hook.seizeTimer = none) ∧
      (∀ d : Nat, l.hook.state = .seizing → l.hook.seizeTimer = some d → Majority r .closed → d + w < 8 * s.params.timing.seizeConfirm →
        (t.line n).hook.state = .seizing ∧ (t.line n).hook.seizeTimer = some (d + w)) ∧
      (∀ d : Nat, l.hook.state = .seizing → l.hook.seizeTimer = some d → Majority r .closed → 8 * s.params.timing.seizeConfirm ≤ d + w →
        (t.line n).hook.state = .offHook ∧ (t.line n).hook.seizeTimer = none ∧ (t.line n).hook.dialTimer = some 0) ∧
      (l.hook.state = .offHook → Majority r .closed → (t.line n).hook.state = .offHook) ∧
      (l.hook.state = .offHook → Majority r .opened → (t.line n).hook.state = .brk ∧ (t.line n).hook.breakTimer = some 0) ∧
      (∀ d : Nat, l.hook.state = .brk → l.hook.breakTimer = some d → ¬ late d → Majority r .opened →
        (t.line n).hook.state = .brk ∧ (t.line n).hook.breakTimer = some (d + w)) ∧
      (∀ d : Nat, l.hook.state = .brk → l.hook.breakTimer = some d → ¬ late d → Majority r .closed →
        (t.line n).hook.state = .offHook ∧ (t.line n).hook.breakTimer = none) ∧
      (∀ d : Nat, l.hook.state = .brk → l.hook.breakTimer = some d → late d → Majority r .opened →
        (t.line n).hook.state = .onHook ∧ (t.line n).hook.mode = .free) ∧
      (∀ d : Nat, l.hook.state = .brk → l.hook.breakTimer = some d → late d → Majority r .closed →
        (t.line n).hook.state = .seizing ∧ (t.line n).hook.mode = .free ∧ (t.line n).hook.seizeTimer = some 0)

namespace Sys2Proof.Claims

/-- `u` is what the completion of the train of line `n` leaves of `s` (R108, R110, R111, R124). -/
def TrainCompleted (s : State) (n : Line) (u : State) : Prop :=
  let l := s.line n
  let done : HookRecord := { l.hook with pulses := 0, makeTimer := none }
  (l.hook.pulses ≤ 10 → l.hook.digits.length < 16 → u =
    (s.setLine n { l with hook := { done with digits := l.hook.digits ++ [Fin.ofNat 10 l.hook.pulses], dialTimer := none },
                          tone := { l.tone with dialled := true } }).takeDigits true n) ∧
  (l.hook.pulses ≤ 10 → 16 ≤ l.hook.digits.length → u =
    (s.setLine n { l with hook := { done with digitsLost := true, dialTimer := none },
                          tone := { l.tone with dialled := true } }).takeDigits true n) ∧
  (11 ≤ l.hook.pulses → Handed (s.setLine n { l with hook := done }) n (.digitError l.hook.pulses) u)

end Sys2Proof.Claims

/-- A break that ends in a make is classed by its length: below the glitch limit nothing is counted; up to the pulse maximum a pulse; above it and below the flash
minimum a pulse only with a train in progress; from the flash minimum on a flash, which first completes a train in progress, as a digit or as DIGIT ERROR, is then handed
as FLASH, and stops the dial-tone timer.
A suspended tone is cleared by a pulse or a flash; without either it returns, unless a digit has been dialled, and then it is cleared. -/
def Obligations.BreaksAreClassedByLength : Prop :=
  ∀ (s : State) (n : Line) (d : Nat),
    let h := (s.line n).hook
    let T := s.params.timing
    let x := (s.line n).tone
    let given := { x with tone := if x.suspended = none ∨ x.dialled = true then x.tone else x.suspended, suspended := none }
    T.glitch < T.pulseMax → T.pulseMax < T.flashMin →
    ∃ t : State, s.endBreak n d = t ∧ (t.line n).hook.state = .offHook ∧ (t.line n).hook.breakTimer = none ∧
      (∀ m : Line, m ≠ n → (t.line m).hook = (s.line m).hook) ∧
      (d < 8 * T.glitch →
        (t.line n).hook.pulses = h.pulses ∧ (t.line n).hook.makeTimer = h.makeTimer ∧ t.asm = s.asm ∧ (t.line n).tone = given) ∧
      (8 * T.glitch ≤ d → d ≤ 8 * T.pulseMax →
        (t.line n).hook.pulses = min 15 (h.pulses + 1) ∧ (t.line n).hook.makeTimer = some 0 ∧ t.asm = s.asm ∧
          (t.line n).tone = { x with suspended := none }) ∧
      (8 * T.pulseMax < d → d < 8 * T.flashMin → h.pulses ≠ 0 →
        (t.line n).hook.pulses = min 15 (h.pulses + 1) ∧ (t.line n).hook.makeTimer = some 0 ∧ t.asm = s.asm ∧
          (t.line n).tone = { x with suspended := none }) ∧
      (8 * T.pulseMax < d → d < 8 * T.flashMin → h.pulses = 0 →
        (t.line n).hook.pulses = 0 ∧ (t.line n).hook.makeTimer = h.makeTimer ∧ t.asm = s.asm ∧ (t.line n).tone = given) ∧
      (8 * T.flashMin ≤ d → (t.line n).hook.pulses = 0 ∧ (t.line n).hook.makeTimer = none ∧ (t.line n).hook.dialTimer = none ∧
        (t.line n).hook.mode = h.mode ∧ (t.line n).tone.suspended = none ∧
        (s.params.flashMode n = .recall → (t.line n).tone.tone = some (.recall (.burst 0) 0)) ∧
        (h.pulses = 0 → (s.line n).eventsLost = false → s.asm.queue.length < 12 → t.asm.queue = s.asm.queue ++ [.event n .flash]) ∧
        ∃ u v : State, (h.pulses = 0 → u = s) ∧ (h.pulses ≠ 0 → TrainCompleted s n u) ∧
          Handed (u.setLine n { u.line n with tone := { (u.line n).tone with suspended := none } }) n .flash v ∧
          t = v.setLine n { v.line n with
            hook := { (v.line n).hook with state := .offHook, breakTimer := none, dialTimer := none, pulses := 0, makeTimer := none }
            tone := if s.params.flashMode n = .recall then { (v.line n).tone with tone := some (.recall (.burst 0) 0), suspended := none }
              else (v.line n).tone })

/-- SEIZE_CONFIRM by the debounced loop state: an open loop fails the seizure with no report; a closed one is confirmed, as SEIZE with the dial-tone
timer started and dial tone given or withheld by the free count, or, on a line with ring work, as a trip. That SEIZE_CONFIRM may be commanded at any
value of the seize timer is the model's choice (log 4).
A wait timer that has stopped holds 0: the model's choice (log 28). -/
def Obligations.SeizureFailsOrIsConfirmed : Prop :=
  ∀ (s : State) (n : Line), s.serves n = true → (s.line n).hook.state = .seizing →
    let v := s.setLine n { s.line n with hook := { (s.line n).hook with state := .offHook, seizeTimer := none } }
    (Majority (s.line n).hook.raw .opened → exec (.seizeConfirm n) s = .next
      (s.setLine n { s.line n with hook := { (s.line n).hook with state := .onHook, seizeTimer := none } })) ∧
    (Majority (s.line n).hook.raw .closed → s.ring n = .idle → ∃ u : State, Handed v n .seize u ∧ exec (.seizeConfirm n) s = .next
      (u.setLine n { u.line n with
        hook := { (u.line n).hook with dialTimer := some 0 }
        tone := { tone := if u.asm.queue.length ≤ 9 then some .dial else some .withheld, suspended := none, dialled := false } })) ∧
    (Majority (s.line n).hook.raw .closed →
      (∀ o : Order, s.ring n = .pending o → ∃ t : State, Tripped v n .beforeRing t ∧ exec (.seizeConfirm n) s = .next t) ∧
      (∀ (o : Order) (p : Placement), s.ring n = .claiming o p →
        ∃ t : State, Tripped v n .beforeRing t ∧ exec (.seizeConfirm n) s = .next t) ∧
      (∀ (o : Order) (p : Placement) (b : Bool), s.ring n = .ringing o p b →
        ∃ t : State, Tripped v n (if s.ringClosed n = true then .on else .off) t ∧ exec (.seizeConfirm n) s = .next t))

/-- GLITCH_LIMIT_REACHED stops a tone and holds it as the suspended tone. CLEAR discards the train, makes the line ON-HOOK and FREE with no timer and
no tone, keeps its digits, and reports; a closed loop then begins a new seizure. That the command brings the timer or count of its event to its limit
is the model's choice (log 4). -/
def Obligations.BreaksStopToneAndClear : Prop :=
  ∀ (s : State) (n : Line), s.serves n = true → (s.line n).hook.state = .brk →
    let l := s.line n
    (∀ d : Nat, l.hook.breakTimer = some d → l.hook.glitchTold = false →
      exec (.glitchLimitReached n) s = .next (s.setLine n { l with
        hook := { l.hook with breakTimer := some (max d (8 * s.params.timing.glitch)), glitchTold := true }
        tone := { l.tone with tone := none, suspended := if l.tone.tone = none then l.tone.suspended else l.tone.tone } })) ∧
    ∃ u : State, Handed (s.setLine n { l with
        hook := { l.hook with state := .onHook, mode := .free, pulses := 0, makeTimer := none, breakTimer := none, dialTimer := none }
        tone := { tone := none, suspended := none, dialled := false } }) n .clear u ∧
      (Majority l.hook.raw .opened → exec (.clear n) s = .next u) ∧
      (Majority l.hook.raw .closed → exec (.clear n) s = .next
        (u.setLine n { u.line n with hook := { (u.line n).hook with state := .seizing, seizeTimer := some 0 } }))

/-- INTERDIGIT_MAKE completes the train: a count of 1 to 10 as a digit, 10 giving 0, which enters the store or is lost with the store full, stops the
dial-tone timer and counts as dialled; a count of 11 or more as DIGIT ERROR. An open loop then begins a break. That INTERDIGIT_MAKE may be commanded
at any value of the make timer is the model's choice (log 4). -/
def Obligations.TrainsCompleteAsDigits : Prop :=
  ∀ (s : State) (n : Line), s.serves n = true → (s.line n).hook.state = .offHook → (s.line n).hook.pulses ≠ 0 →
    let l := s.line n
    ∃ u : State, TrainCompleted s n u ∧
      (Majority l.hook.raw .closed → exec (.interdigitMake n) s = .next u) ∧
      (Majority l.hook.raw .opened → 1 ≤ s.params.timing.glitch → exec (.interdigitMake n) s = .next
        (u.setLine n { u.line n with hook := { (u.line n).hook with state := .brk, breakTimer := some 0, glitchTold := false } }))

/-- PERMANENT_LOOP stops the running dial-tone timer, reports, and turns the tone off. STUTTER_ADVANCE moves recall tone to its next phase, the sixth
giving way to CONTINUOUS, whose timer has stopped and holds 0 (log 26). That the two may be commanded at any value of their timer is the model's choice (log 4). -/
def Obligations.DialToneAndStutterTimersAct : Prop :=
  ∀ (s : State) (n : Line), s.serves n = true →
    ((s.line n).hook.dialTimer ≠ none → ∃ u : State,
      Handed (s.setLine n { s.line n with hook := { (s.line n).hook with dialTimer := none } }) n .permanentLoop u ∧
      exec (.permanentLoop n) s = .next (u.setLine n { u.line n with tone := { (u.line n).tone with tone := none, suspended := none } })) ∧
    (∀ (k : Fin 6) (d : Nat), (s.line n).tone.tone = some (.recall (.burst k) d) → exec (.stutterAdvance n) s = .next
      (s.setLine n { s.line n with tone := { (s.line n).tone with
        tone := some (.recall (if h : k.val + 1 < 6 then .burst ⟨k.val + 1, h⟩ else .continuous) 0) } }))

/-! ### Orders for tone, mode and state -/

/-- TONE_ORDER, well formed and for the own station: refused BAD STATE unless the line is OFF-HOOK or BREAK and not PARKED; otherwise the suspended tone is cleared and
the tone becomes OFF, DIAL with the dial-tone timer restarted, or RECALL from the start of its stutter. With an own attempt in transmission the bus is left alone (log 4).
What a notice's end leaves of the runs of samples counted before it is the model's choice (log 4). -/
def Obligations.ToneOrderSetsTheTone : Prop :=
  ∀ (s : State) (w : Notice) (n : Line) (k : Fin 3), s.serves n = true → Hearing s → 48 ≤ w.sender.toNat →
    w.sender.toNat ≤ 55 → w.payload = [BitVec.ofNat 8 s.address, BitVec.ofNat 8 n.val, BitVec.ofNat 8 k.val] →
    let u := Heard s
    let l := s.line n
    let offHook := l.hook.state = .offHook ∨ l.hook.state = .brk
    (¬ offHook ∨ l.hook.mode = .parked → ∃ t : State, exec (.toneOrder w) s = .next t ∧
      Offered u (.refusal (BitVec.ofNat 8 n.val) .tone .badState) t) ∧
    (offHook → l.hook.mode ≠ .parked →
      (k = 0 → exec (.toneOrder w) s = .next (u.setLine n { l with tone := { l.tone with tone := none, suspended := none } })) ∧
      (k = 1 → exec (.toneOrder w) s = .next (u.setLine n { l with
        tone := { l.tone with tone := some .dial, suspended := none }, hook := { l.hook with dialTimer := some 0 } })) ∧
      (k = 2 → exec (.toneOrder w) s = .next (u.setLine n { l with
        tone := { l.tone with tone := some (.recall (.burst 0) 0), suspended := none } })))

/-- MODE_ORDER, well formed and for the own station, by the mode named and the line's state, as the table of R114 gives; PARKED ends the line's ring work first. With an
own attempt in transmission the bus is left alone (log 4).
A wait timer that has stopped holds 0: the model's choice (log 28).
What a notice's end leaves of the runs of samples counted before it is the model's choice (log 4). -/
def Obligations.ModeOrderSetsTheMode : Prop :=
  ∀ (s : State) (w : Notice) (n : Line) (k : Fin 3), s.serves n = true → Hearing s → 48 ≤ w.sender.toNat →
    w.sender.toNat ≤ 55 → w.payload = [BitVec.ofNat 8 s.address, BitVec.ofNat 8 n.val, BitVec.ofNat 8 k.val] →
    let u := Heard s
    let l := s.line n
    let offHook := l.hook.state = .offHook ∨ l.hook.state = .brk
    (k = 0 → l.hook.mode = .free → exec (.modeOrder w) s = .next u) ∧
    (k = 0 → l.hook.mode = .inCall → exec (.modeOrder w) s = .next (u.setLine n { l with hook := { l.hook with mode := .free } })) ∧
    (k = 0 → l.hook.mode = .parked → exec (.modeOrder w) s = .next (u.setLine n { l with
      hook := { l.hook with raw := ⟨.opened, .opened, .opened⟩, state := .onHook, mode := .free } })) ∧
    (k = 1 → ¬ offHook → ∃ t : State, exec (.modeOrder w) s = .next t ∧ Offered u (.refusal (BitVec.ofNat 8 n.val) .mode .badState) t) ∧
    (k = 1 → offHook → l.hook.mode = .free → exec (.modeOrder w) s = .next (u.setLine n { l with
      hook := { l.hook with mode := .inCall, dialTimer := none }, tone := { l.tone with tone := none, suspended := none } })) ∧
    (k = 1 → offHook → l.hook.mode = .inCall → exec (.modeOrder w) s = .next u) ∧
    (k = 2 → l.hook.mode = .parked → exec (.modeOrder w) s = .next u) ∧
    (k = 2 → l.hook.mode ≠ .parked → ∃ v : State, RingWorkEnded u n v ∧ exec (.modeOrder w) s = .next (v.setLine n { v.line n with
      hook := { (v.line n).hook with state := .onHook, mode := .parked, seizeTimer := none, breakTimer := none, makeTimer := none,
                                      dialTimer := none, pulses := 0, digits := [], digitsLost := false }
      tone := { tone := none, suspended := none, dialled := false } }))

/-! ### The receiver -/

/-- QUERY, well formed and for the own station, is answered by a STATE entry without the events-lost mark, if there is room (with an own attempt in
transmission too, log 4). A report notice heard
ends in its idle gap and is ignored; an invalid notice ends there and counts in the error tally. That a report notice is ignored for every kind
operand is the model's reading (log 17, DEDUCED).
What a notice's end leaves of the runs of samples counted before it is the model's choice (log 4). -/
def Obligations.QueryIsAnsweredAndReportsIgnored : Prop :=
  ∀ (s : State) (w : Notice),
    (∀ n : Line, Hearing s → s.inUse n = true → 48 ≤ w.sender.toNat → w.sender.toNat ≤ 55 →
      w.payload = [BitVec.ofNat 8 s.address, BitVec.ofNat 8 n.val] →
      ∃ t : State, exec (.query w) s = .next t ∧ Offered (Heard s) (.state n false) t) ∧
    (Receiving s →
      let u := NoticeOver s
      (∀ kind : BitVec 4, exec (.reportNoticeHeard kind w) s = .next u) ∧
      exec .noticeInvalid s = .next { u with bus := { u.bus with errors := min 15 (s.bus.errors + 1) } })

/-- A framing error in a notice being received discards it, counts in the error tally and leaves the receiver DISCARDING, its idle counter counting from the
last dominant sample; an idle gap in WAITING or DISCARDING makes it IDLE; a dominant run of 20 bit times sets BUS HELD, with the idle counter at 0 and what
was being received discarded and counted as one error, the start edge as which it was first taken having cleared own-last, and 12 recessive bit times then clear it with the receiver IDLE. Nothing but the bus state changes. The dominant run counts
whole bit times of 16 dominant samples, brings the held bus at its twentieth, and is 0 at a recessive sample. That the command brings the timer or
count of its event to its limit, and what a command, which reads no sample, leaves of the runs of samples, are the model's choice (log 4). -/
def Obligations.ReceiverErrorsAndHeldBus : Prop :=
  ∀ s : State, s.phase = .running →
    (Receiving s → exec .receiveFramingError s = .next { s with bus := { s.bus with
      rx := .discarding, buffer := [], byte := none, idle := s.bus.recessive / 16, idleSamples := s.bus.recessive % 16,
      errors := min 15 (s.bus.errors + 1) } }) ∧
    (s.bus.rx = .waiting ∨ s.bus.rx = .discarding → s.bus.busHeld = false → exec .receiverIdle s = .next { s with bus := { s.bus with
      rx := .idle, buffer := [], byte := none, idle := 12, idleSamples := 0 } }) ∧
    (s.bus.attempt = none → exec .busHeld s = .next { s with bus := { s.bus with
      busHeld := true, dominantRun := 20, dominantSamples := 0, recessive := 0, idle := 0, idleSamples := 0, buffer := [], byte := none,
      rx := if s.bus.rx = .waiting then .waiting else .discarding
      errors := if s.bus.rx = .idle ∨ s.bus.rx = .receiving then min 15 (s.bus.errors + 1) else s.bus.errors
      ownLast := if s.bus.rx = .idle ∨ s.bus.rx = .receiving then false else s.bus.ownLast } }) ∧
    (s.bus.busHeld = true → exec .busHeldClear s = .next { s with bus := { s.bus with
      busHeld := false, dominantRun := 0, dominantSamples := 0, rx := .idle, buffer := [], byte := none, idle := 12, idleSamples := 0 } }) ∧
    s.countDominant false = { s with bus := { s.bus with dominantSamples := 0, dominantRun := 0 } } ∧
    (s.bus.dominantSamples < 15 → s.countDominant true = { s with bus := { s.bus with dominantSamples := s.bus.dominantSamples + 1 } }) ∧
    (15 ≤ s.bus.dominantSamples →
      (s.bus.dominantRun < 19 →
        s.countDominant true = { s with bus := { s.bus with dominantSamples := 0, dominantRun := s.bus.dominantRun + 1 } }) ∧
      (19 ≤ s.bus.dominantRun → s.bus.busHeld = false →
        exec .busHeld { s with bus := { s.bus with dominantSamples := 0, dominantRun := 20 } } = .next (s.countDominant true)) ∧
      (19 ≤ s.bus.dominantRun → s.bus.busHeld = true →
        s.countDominant true = { s with bus := { s.bus with dominantSamples := 0, dominantRun := 20 } }))

namespace Sys2Proof.Claims

/-- `s` after the receiver has taken `k` samples, dominant where `w` says so. -/
def sampled (w : Nat → Bool) (s : State) : Nat → State
  | 0 => s
  | k + 1 => (sampled w s k).receiveSample (w k)

/-- Bit `b` of a byte on the wire, counted from its start edge, is read recessive by the majority of its samples 7, 8 and 9 (R129). -/
def BitRecessive (w : Nat → Bool) (b : Nat) : Prop :=
  (w (16 * b + 7)).toNat + (w (16 * b + 8)).toNat + (w (16 * b + 9)).toNat < 2

/-- The data bits 1 to 8 are read as the byte `x`, most significant bit first (R129). -/
def SpellsByte (w : Nat → Bool) (x : Byte) : Prop := ∀ k : Nat, k < 8 → (BitRecessive w (k + 1) ↔ x.getLsbD (7 - k) = true)

/-- The stop bit is read recessive (R129). -/
def StopBitRecessive (w : Nat → Bool) : Prop := BitRecessive w 9

end Sys2Proof.Claims

/-- START_EDGE, where no byte is being taken: the edge clears the own-last flag, whoever sends. With the receiver IDLE a start bit recessive at sample 8 is a
false start and nothing else changes; a dominant one begins a notice with its byte. Within another station's notice the byte enters the buffer, which holds 15; a
false start bit or a sixteenth byte discards the notice. Within the own attempt a byte read as sent enters the buffer, an arbitration byte lost to a dominant
bit ends the attempt by loss, and any other difference ends it by clash. That the command carries the byte is the model's choice (log 16). Sample by sample,
each bit of the byte is the majority of its samples 7, 8 and 9, and the start bit is tested at its sample 8 alone. A false start sets the idle counter back
with the part of a bit time counted before the edge, and counts none of its own samples (DEDUCED, log 9); own-last, which its
edge has cleared, stays clear (DEDUCED, log 30). A bus sample first begins an attempt, where R132 lets it: ATTEMPT_START at 12 idle bit times, or 24 with own-last set. The wire is low while anyone drives it. A recessive sample outside a byte counts toward the
idle counter, and the twelfth idle bit time ends what is being received: a notice, taken as the command that its buffer spells; an own notice, by
OWN_NOTICE_COMPLETION; WAITING or DISCARDING, by RECEIVER_IDLE; a held bus, by BUS_HELD_CLEAR. -/
def Obligations.StartEdgesTakeBytes : Prop :=
  (∀ (s : State) (b : Byte), s.phase = .running → s.bus.busHeld = false → s.bus.byte = none →
    let edge : State := { s with bus := { s.bus with recessive := 0, ownLast := false } }
    let taken (x : Byte) : State := { edge with bus := { edge.bus with buffer := s.bus.buffer ++ [x], idle := 0, idleSamples := 0 } }
    let discarded : State := { edge with bus := { edge.bus with
      rx := .discarding, buffer := [], byte := none, idle := 0, idleSamples := 0, errors := min 15 (s.bus.errors + 1) } }
    (s.bus.rx = .idle → exec (.startEdge false b) s = .next edge) ∧
    (s.bus.rx = .idle → exec (.startEdge true b) s = .next { edge with bus := { edge.bus with
      rx := .receiving, buffer := [b], idle := 0, idleSamples := 0 } }) ∧
    (s.bus.rx = .receiving → s.bus.attempt = none →
      exec (.startEdge false b) s = .next discarded ∧
      (s.bus.buffer.length < 15 → exec (.startEdge true b) s = .next (taken b)) ∧
      (15 ≤ s.bus.buffer.length → exec (.startEdge true b) s = .next discarded)) ∧
    (∀ a : Attempt, s.bus.rx = .receiving → s.bus.attempt = some a →
      (a.bytes[s.bus.buffer.length]? = some b → s.bus.buffer.length < 15 → exec (.startEdge true b) s = .next
        { taken b with bus := { (taken b).bus with attempt := some { a with sample := 160 * (s.bus.buffer.length + 1) } } }) ∧
      (∀ sent : Byte, s.bus.buffer = [] → a.bytes[0]? = some sent → sent ≠ b →
        (∃ k : Fin 8, sent.getLsbD k.val = true ∧ b.getLsbD k.val = false ∧ ∀ j : Fin 8, k < j → sent.getLsbD j.val = b.getLsbD j.val) →
        ∃ t u : State, exec (.arbitrationLoss b) s = .next t ∧ exec (.startEdge true b) s = .next u ∧ u.bus.attempt = none ∧
          u.bus.rx = .receiving ∧ u.bus.buffer = [b] ∧ u.bus.clashes = s.bus.clashes ∧ u.lines = t.lines ∧ u.asm = t.asm ∧ u.sched = t.sched) ∧
      (∀ sent : Byte, a.bytes[s.bus.buffer.length]? = some sent → sent ≠ b → s.bus.buffer ≠ [] →
        exec (.startEdge true b) s = exec .clash edge) ∧
      (∀ sent : Byte, s.bus.buffer = [] → a.bytes[0]? = some sent → sent ≠ b →
        (∃ k : Fin 8, sent.getLsbD k.val = false ∧ b.getLsbD k.val = true ∧ ∀ j : Fin 8, k < j → sent.getLsbD j.val = b.getLsbD j.val) →
        exec (.startEdge true b) s = exec .clash edge) ∧
      (a.bytes.length ≤ s.bus.buffer.length → exec (.startEdge true b) s = exec .clash edge) ∧
      exec (.startEdge false b) s = exec .clash edge)) ∧
  (∀ s : State, s.phase = .running → ∃ u : State,
    (let due : Prop := MayBegin s ∧ (if s.bus.ownLast = true then 24 else 12) ≤ s.bus.idle
     (due → exec .attemptStart s = .next u) ∧ (¬ due → u = s)) ∧
    let dominant : Bool := s.pins.nbLow || u.drivesLow
    let driven : State := { u with bus := { u.bus with
      attempt := u.bus.attempt.map fun a => { a with sample := a.sample + 1 }
      recessive := if dominant = true then 0 else min 192 (u.bus.recessive + 1) } }
    s.busSample = (driven.countDominant dominant).receiveSample dominant) ∧
  (∀ s : State, s.phase = .running →
    let v : State := { s with bus := { s.bus with
      idle := if s.bus.idleSamples + 1 < 16 then s.bus.idle else min 24 (s.bus.idle + 1)
      idleSamples := if s.bus.idleSamples + 1 < 16 then s.bus.idleSamples + 1 else 0 } }
    let taking : Prop := s.bus.busHeld = false ∧ (s.bus.rx = .idle ∨ s.bus.rx = .receiving) ∧ s.bus.byte = none
    let waits : Prop := s.bus.busHeld = true ∨ s.bus.rx = .waiting ∨ s.bus.rx = .discarding
    (taking → s.bus.rx = .idle ∨ v.bus.idle < 12 → s.receiveSample false = v) ∧
    (taking → s.bus.rx = .receiving → 12 ≤ v.bus.idle →
      (s.bus.attempt = none → exec (decodeNotice s.bus.buffer) v = .next (s.receiveSample false)) ∧
      (s.bus.attempt ≠ none → exec .ownNoticeCompletion v = .next (s.receiveSample false))) ∧
    (waits → v.bus.idle < 12 → s.receiveSample false = v) ∧
    (waits → 12 ≤ v.bus.idle →
      (s.bus.busHeld = false → exec .receiverIdle v = .next (s.receiveSample false)) ∧
      (s.bus.busHeld = true → exec .busHeldClear v = .next (s.receiveSample false))) ∧
    (waits → s.receiveSample true = { s with bus := { s.bus with idle := 0, idleSamples := 0 } }) ∧
    (∀ a : Attempt, taking → s.bus.rx = .receiving → s.bus.attempt = some a → a.bytes.length ≤ s.bus.buffer.length →
      exec .clash s = .next (s.receiveSample true))) ∧
  ∀ (s : State) (w : Nat → Bool) (x : Byte), s.phase = .running → s.bus.busHeld = false → s.bus.byte = none → w 0 = true →
    let discarded : State := { s with bus := { s.bus with
      rx := .discarding, buffer := [], ownLast := false, idle := s.bus.recessive / 16, idleSamples := s.bus.recessive % 16,
      errors := min 15 (s.bus.errors + 1) } }
    (s.bus.rx = .idle → s.bus.attempt = none → w 8 = false → sampled w s 9 = { s with bus := { s.bus with ownLast := false } }) ∧
    (s.bus.rx = .receiving → s.bus.attempt = none → w 8 = false ∨ 15 ≤ s.bus.buffer.length → sampled w s 9 = discarded) ∧
    (w 8 = true → SpellsByte w x →
      (s.bus.attempt = none → s.bus.rx = .idle → StopBitRecessive w → sampled w s 160 =
        { s with bus := { s.bus with rx := .receiving, buffer := [x], ownLast := false, idle := 0, idleSamples := 0 } }) ∧
      (s.bus.rx = .receiving → s.bus.buffer.length < 15 →
        (StopBitRecessive w → s.bus.attempt = none ∨ (∃ a : Attempt, s.bus.attempt = some a ∧ a.bytes[s.bus.buffer.length]? = some x) →
          sampled w s 160 =
            { s with bus := { s.bus with buffer := s.bus.buffer ++ [x], ownLast := false, idle := 0, idleSamples := 0 } }) ∧
        (¬ StopBitRecessive w → s.bus.attempt = none → sampled w s 154 = discarded)))

/-- A command whose event cannot occur in a state changes nothing there: the model's choice (log 4). So a command of a line out of use, or of a line without the
state its event needs, a command of a block that is loading or held in reset, and one of a window, period, attempt, notice or hold that is not there. -/
def Obligations.CommandsWithoutTheirEventChangeNothing : Prop :=
  ∀ (s : State) (n : Line) (a : PeerAddr) (w : Notice),
    (s.phase ≠ .loading → ∀ answer : MemoryAnswer, exec (.endOfLoading answer) s = .next s) ∧
    (s.cadence.slot ≠ 7 → exec .markerWindowOpens s = .next s) ∧
    (s.cadence.slot ≠ 0 ∨ s.cadence.past = true ∧ 40 < s.cadence.slotTimer → exec .markerWindowCloses s = .next s) ∧
    ((s.line n).relay.position ≠ .toRing → exec (.deadTimeToRing n) s = .next s) ∧
    ((s.line n).relay.position ≠ .toFeed → exec (.deadTimeToFeed n) s = .next s) ∧
    ((s.line n).relay.wait = .none → exec (.zcWaitTimeout n) s = .next s) ∧
    (s.ring n = .idle → exec (.ringExpiry n) s = .next s) ∧
    ((s.ring n).isPending = false ∨ (∃ o : Order, s.ring n = .pending o ∧ (o.deferred = true ∨ o.limit ≤ 8)) →
      exec (.ringDeferral n) s = .next s) ∧
    (s.table.peers[a.val] = none → exec (.entryAgedOut a) s = .next s) ∧
    (s.bus.link ≠ .listening → exec .listenPeriodEnd s = .next s) ∧ (s.bus.link ≠ .islanded → exec .islandedPeriodEnd s = .next s) ∧
    ((s.line n).hook.state ≠ .seizing → exec (.seizeConfirm n) s = .next s) ∧
    (let ineligible : Prop := (s.line n).hook.state ≠ .onHook ∨ s.ring n ≠ .idle ∨ (s.line n).hook.mode = .parked
     (ineligible ∨ (s.line n).sense.leakFlag = true → exec (.leakOn n) s = .next s) ∧
     (ineligible ∨ (s.line n).sense.leakFlag = false → exec (.leakOff n) s = .next s)) ∧
    ((s.line n).hook.state ≠ .brk → exec (.glitchLimitReached n) s = .next s ∧ exec (.clear n) s = .next s) ∧
    ((s.line n).hook.glitchTold = true → exec (.glitchLimitReached n) s = .next s) ∧
    ((s.line n).hook.state ≠ .offHook ∨ (s.line n).hook.pulses = 0 → exec (.interdigitMake n) s = .next s) ∧
    ((∀ (p : StutterPhase) (d : Nat), (s.line n).tone.tone ≠ some (.recall p d)) → exec (.stutterAdvance n) s = .next s) ∧
    (s.bus.link = .islanded ∨ s.bus.link = .silent → exec .islanding s = .next s) ∧
    ((s.line n).hook.dialTimer = none → exec (.permanentLoop n) s = .next s) ∧
    (¬ MayBegin s → exec .attemptStart s = .next s) ∧
    (s.bus.attempt = none → (∀ b : Byte, exec (.arbitrationLoss b) s = .next s) ∧ exec .clash s = .next s ∧
      exec .ownNoticeCompletion s = .next s) ∧
    (¬ Receiving s → exec .noticeInvalid s = .next s ∧ exec .receiveFramingError s = .next s ∧
      exec (.claimReceived w) s = .next s ∧ exec (.releaseReceived w) s = .next s ∧ exec (.refreshReceived w) s = .next s ∧
      ∀ kind : BitVec 4, exec (.reportNoticeHeard kind w) s = .next s) ∧
    (¬ Hearing s → ∀ kind : OrderKind, exec (orderCommand kind w) s = .next s) ∧
    (s.bus.attempt ≠ none → exec .busHeld s = .next s) ∧
    (s.bus.rx = .waiting ∨ s.bus.rx = .discarding ∨ s.bus.busHeld = true ∨ s.bus.byte ≠ none →
      ∀ (dominant : Bool) (b : Byte), exec (.startEdge dominant b) s = .next s) ∧
    (s.bus.rx = .idle ∨ s.bus.rx = .receiving → exec .receiverIdle s = .next s) ∧ (s.bus.busHeld = false → exec .busHeldClear s = .next s) ∧
    (s.phase ≠ .running ∨ s.inUse n = false → ∀ c ∈ [Instr.deadTimeToRing n, .deadTimeToFeed n, .zcWaitTimeout n, .ringExpiry n,
      .ringDeferral n, .ringTrip n, .leakOn n, .leakOff n, .seizeConfirm n, .glitchLimitReached n, .clear n, .interdigitMake n,
      .permanentLoop n, .stutterAdvance n, .sensePulseEdge n], exec c s = .next s) ∧
    (s.phase ≠ .running → ∀ (d : Bool) (b : Byte), ∀ c ∈ [Instr.windowEnd, .entryAgedOut a, .attemptStart, .arbitrationLoss b, .clash,
      .islanding, .ownNoticeCompletion, .receiverIdle, .busHeld, .busHeldClear, .startEdge d b], exec c s = .next s) ∧
    (s.phase = .held → ∀ c ∈ [Instr.slotEnd, .cycleMarker, .markerWindowOpens, .markerWindowCloses, .markerLost, .zeroCrossMark, .zcLost,
      .listenPeriodEnd, .islandedPeriodEnd], exec c s = .next s)

/-! ### Outputs -/

/-- ALM is asserted exactly while one of its six conditions stands and reset is not asserted; CONFIG DEFAULTED stands exactly while a mark of the loader is set.
TONE is low until the end of loading and from then on high in the high part of each period of its wave (which comes first in the period: the model's choice,
log 7). The period is the whole number of crystal periods nearest to 4 096 000 / f, a half rounded up, and the high part the whole part of level / 16 of it; the
four figures of the table follow. NB is driven low only by an own attempt: through each start bit and each data bit of value 0, most significant first, the
bytes following one another without pause. The gate of a line is open exactly in DIAL and in RECALL in phase 1, 3, 5 or CONTINUOUS, its feed relay
closed exactly in FEED and its ring relay exactly in RING. CFGCK and CFGDA follow the transfer (their moments within a clock: the model's choice, log 11). -/
def Obligations.AlarmAndToneFollowTheirRules : Prop :=
  (∀ s : State,
    (s.phase = .held → s.alm = false) ∧
    (s.phase ≠ .held → (s.alm = true ↔ 24 ≤ s.straps.address.toNat ∨ s.loader.configDefaulted = true ∨ s.bus.link = .islanded ∨
      s.bus.busHeld = true ∨ s.cadence.markerLost = true ∨ s.bus.degraded = true)) ∧
    (s.loader.configDefaulted = true ↔ s.loader.rejected = true ∨ s.loader.defaulted.ring = true ∨ s.loader.defaulted.line = true ∨
      s.loader.defaulted.timing = true ∨ s.loader.defaulted.threshold = true ∨ s.loader.defaulted.relay = true ∨
      s.loader.defaulted.tone = true) ∧
    (s.toneOut = true ↔ s.phase = .running ∧ s.tonePhase < toneHigh s.params.tone) ∧
    (∀ n : Line,
      (s.feedClosed n = true ↔ (s.line n).relay.position = .feed) ∧ (s.ringClosed n = true ↔ (s.line n).relay.position = .ring) ∧
      (s.gateOpen n = true ↔ (s.line n).tone.tone = some .dial ∨
        ∃ d : Nat, (s.line n).tone.tone = some (.recall .continuous d) ∨
          ∃ k : Fin 6, (s.line n).tone.tone = some (.recall (.burst k) d) ∧ (k.val + 1 = 1 ∨ k.val + 1 = 3 ∨ k.val + 1 = 5))) ∧
    (s.bus.attempt = none → s.drivesLow = false) ∧
    (∀ a : Attempt, s.bus.attempt = some a →
      (a.bytes.length * 160 ≤ a.sample → s.drivesLow = false) ∧
      ∀ (j k i : Nat) (b : Byte), a.bytes[j]? = some b → k < 10 → i < 16 → a.sample = 160 * j + 16 * k + i →
        (s.drivesLow = true ↔ k = 0 ∨ (k ≤ 8 ∧ b.getLsbD (8 - k) = false))) ∧
    (let moving : Prop := s.phase = .loading ∧ s.straps.cfgp = true ∧ s.loader.finished = false
     (¬ moving → s.cfgck = false ∧ s.cfgdaLow = false) ∧
     ∀ k q : Nat, moving → q < 32 → s.loader.position = 32 * k + q →
      (s.cfgck = true ↔ k = 0 ∨ 16 ≤ q) ∧
      (k = 0 → (s.cfgdaLow = true ↔ 16 ≤ q)) ∧
      (∀ b : Nat, b < 8 → k = 1 + b → (s.cfgdaLow = true ↔ (0xD5#8).getLsbD (7 - b) = false)) ∧
      (10 ≤ k → k ≤ 17 → s.cfgdaLow = true) ∧
      (k = 9 ∨ k = 18 → s.cfgdaLow = false) ∧
      (∀ j b : Nat, j < 48 → b < 8 → k = 19 + 9 * j + b → s.cfgdaLow = false) ∧
      (∀ j : Nat, j < 48 → k = 27 + 9 * j → (s.cfgdaLow = true ↔ j < 47)) ∧
      (k = 451 → (s.cfgdaLow = true ↔ q < 24)))) ∧
  (∀ f level : Nat, 0 < f →
    2 * 4096000 < 2 * f * tonePeriod { frequency := f, level := level } + f ∧
    2 * f * tonePeriod { frequency := f, level := level } ≤ 2 * 4096000 + f ∧
    16 * toneHigh { frequency := f, level := level } ≤ level * tonePeriod { frequency := f, level := level } ∧
    level * tonePeriod { frequency := f, level := level } < 16 * (toneHigh { frequency := f, level := level } + 1)) ∧
  tonePeriod { frequency := 300, level := 1 } = 13653 ∧ toneHigh { frequency := 300, level := 1 } = 853 ∧
  tonePeriod { frequency := 400, level := 3 } = 10240 ∧ toneHigh { frequency := 400, level := 3 } = 1920 ∧
  tonePeriod { frequency := 425, level := 5 } = 9638 ∧ toneHigh { frequency := 425, level := 5 } = 3011 ∧
  tonePeriod { frequency := 500, level := 7 } = 8192 ∧ toneHigh { frequency := 500, level := 7 } = 3584

/-! ### Headline results -/

/-- Reading the bytes of a notice gives the command back: for every well-formed command that a received notice is, with every class, sender, kind and payload. -/
def Obligations.DecodingAnEncodedNoticeGivesItBack : Prop :=
  ∀ (c : Instr) (bytes : List Byte), c.wellFormed = true → (∀ k w, c = .reportNoticeHeard k w → 8 ≤ k.toNat) → encodeNotice c = some bytes →
    decodeNotice bytes = c

/-- Every step keeps the Ring Scheduler's lists in agreement with the ring records, the load view in agreement with its entries and with the own RINGING lines, and a
JOINED station within its own allowance in every slot. -/
def Obligations.EveryStepKeepsRingWorkSound : Prop :=
  ∀ s t : State, s.SchedulerOk → s.ViewOk → s.WithinAllowance → step s = .next t → t.SchedulerOk ∧ t.ViewOk ∧ t.WithinAllowance

/-- Every step keeps the records of every line in agreement with one another. -/
def Obligations.EveryStepKeepsLinesSound : Prop :=
  ∀ s t : State, s.LinesOk → step s = .next t → t.LinesOk

/-- Every step keeps every count, timer and store that `CountsOk` names in its range: slot, window, zero-cross, relay, stutter and dial-tone timers, missed
markers, ages, pulse counters, trip runs, leak counts, settle counts, pulses, digit stores, cycles elapsed, report queue, and the counts of the bus. -/
def Obligations.EveryStepKeepsCountsInRange : Prop :=
  ∀ s t : State, s.CountsOk → step s = .next t → t.CountsOk

/-- The state right after reset is sound in all these respects. -/
def Obligations.ResetStateIsSound : Prop :=
  State.reset.SchedulerOk ∧ State.reset.ViewOk ∧ State.reset.WithinAllowance ∧ State.reset.LinesOk ∧ State.reset.CountsOk
end

