-- ==== Sys2Proof/Laws/State.lean ====
section
/-! SUPPORT. Field by field, what each update of State reads as afterwards, so that no proof unfolds a record update; and what one line
reads as after a line has been changed. -/

namespace Sys2Proof.Machine

variable (s : State)

/-! ### Reading one line -/

@[simp] theorem State.line_setLine_same (n : Line) (l : LineState) : (s.setLine n l).line n = l := by
  simp [State.line, State.setLine]

theorem State.line_setLine_ne {n m : Line} (h : m ≠ n) (l : LineState) : (s.setLine n l).line m = s.line m := by
  have h' : n.val ≠ m.val := fun e => h (Fin.ext e.symm)
  simp [State.line, State.setLine, Vector.getElem_set_ne, h']

theorem State.line_setLine (n m : Line) (l : LineState) : (s.setLine n l).line m = if m = n then l else s.line m := by
  split
  · subst m; simp
  · exact State.line_setLine_ne s ‹_› l

@[simp] theorem State.line_onLine_same (n : Line) (f : LineState → LineState) : (s.onLine n f).line n = f (s.line n) := by
  simp [State.onLine]

theorem State.line_onLine (n m : Line) (f : LineState → LineState) :
    (s.onLine n f).line m = if m = n then f (s.line n) else s.line m := by
  simp [State.onLine, State.line_setLine]

theorem State.line_onLine_ne {n m : Line} (h : m ≠ n) (f : LineState → LineState) : (s.onLine n f).line m = s.line m := by
  simp [State.line_onLine, h]

@[simp] theorem State.line_mapLines (n : Line) (f : LineState → LineState) : (s.mapLines f).line n = f (s.line n) := by
  simp [State.line, State.mapLines]

theorem State.line_setRing (n m : Line) (r : RingRecord) :
    (s.setRing n r).line m = if m = n then { s.line n with ring := r } else s.line m := by
  simp [State.setRing, State.line_onLine]

theorem State.line_onHook (n m : Line) (f : HookRecord → HookRecord) :
    (s.onHook n f).line m = if m = n then { s.line n with hook := f (s.line n).hook } else s.line m := by
  simp [State.onHook, State.line_onLine]

theorem State.line_onTone (n m : Line) (f : ToneRecord → ToneRecord) :
    (s.onTone n f).line m = if m = n then { s.line n with tone := f (s.line n).tone } else s.line m := by
  simp [State.onTone, State.line_onLine]

@[simp] theorem State.ring_setRing_same (n : Line) (r : RingRecord) : (s.setRing n r).ring n = r := by
  simp [State.ring, State.line_setRing]

theorem State.ring_setRing (n m : Line) (r : RingRecord) : (s.setRing n r).ring m = if m = n then r else s.ring m := by
  simp only [State.ring, State.line_setRing]; split <;> rfl

theorem State.ring_onLine (n m : Line) (f : LineState → LineState) :
    (s.onLine n f).ring m = if m = n then (f (s.line n)).ring else s.ring m := by
  simp only [State.ring, State.line_onLine]; split <;> rfl

/-- Two states with the same lines are equal line by line, and the other way round. -/
theorem State.lines_ext {s t : State} (h : ∀ n : Line, s.line n = t.line n) : s.lines = t.lines := by
  apply Vector.ext
  intro i hi
  exact h ⟨i, hi⟩

/-- The whole of a line update: everything but line `n` stands. -/
theorem State.setLine_eta (n : Line) : s.setLine n (s.line n) = s := by
  have : (s.setLine n (s.line n)).lines = s.lines := State.lines_ext fun m => by
    rw [State.line_setLine]; split
    · subst m; rfl
    · rfl
  show { s with lines := (s.setLine n (s.line n)).lines } = s
  rw [this]

/-! ### `setLine` -/

@[simp] theorem State.setLine_phase (n : Line) (l : LineState) : (s.setLine n l).phase = s.phase := rfl
@[simp] theorem State.setLine_straps (n : Line) (l : LineState) : (s.setLine n l).straps = s.straps := rfl
@[simp] theorem State.setLine_loader (n : Line) (l : LineState) : (s.setLine n l).loader = s.loader := rfl
@[simp] theorem State.setLine_params (n : Line) (l : LineState) : (s.setLine n l).params = s.params := rfl
@[simp] theorem State.setLine_cadence (n : Line) (l : LineState) : (s.setLine n l).cadence = s.cadence := rfl
@[simp] theorem State.setLine_table (n : Line) (l : LineState) : (s.setLine n l).table = s.table := rfl
@[simp] theorem State.setLine_sched (n : Line) (l : LineState) : (s.setLine n l).sched = s.sched := rfl
@[simp] theorem State.setLine_sense (n : Line) (l : LineState) : (s.setLine n l).sense = s.sense := rfl
@[simp] theorem State.setLine_bus (n : Line) (l : LineState) : (s.setLine n l).bus = s.bus := rfl
@[simp] theorem State.setLine_asm (n : Line) (l : LineState) : (s.setLine n l).asm = s.asm := rfl
@[simp] theorem State.setLine_tonePhase (n : Line) (l : LineState) : (s.setLine n l).tonePhase = s.tonePhase := rfl
@[simp] theorem State.setLine_pins (n : Line) (l : LineState) : (s.setLine n l).pins = s.pins := rfl
@[simp] theorem State.setLine_last (n : Line) (l : LineState) : (s.setLine n l).last = s.last := rfl
@[simp] theorem State.setLine_crystal (n : Line) (l : LineState) : (s.setLine n l).crystal = s.crystal := rfl
@[simp] theorem State.setLine_order (n : Line) (l : LineState) : (s.setLine n l).order = s.order := rfl
@[simp] theorem State.setLine_pending (n : Line) (l : LineState) : (s.setLine n l).pending = s.pending := rfl

/-! ### `onLine` -/

@[simp] theorem State.onLine_phase (n : Line) (f : LineState → LineState) : (s.onLine n f).phase = s.phase := rfl
@[simp] theorem State.onLine_straps (n : Line) (f : LineState → LineState) : (s.onLine n f).straps = s.straps := rfl
@[simp] theorem State.onLine_loader (n : Line) (f : LineState → LineState) : (s.onLine n f).loader = s.loader := rfl
@[simp] theorem State.onLine_params (n : Line) (f : LineState → LineState) : (s.onLine n f).params = s.params := rfl
@[simp] theorem State.onLine_cadence (n : Line) (f : LineState → LineState) : (s.onLine n f).cadence = s.cadence := rfl
@[simp] theorem State.onLine_table (n : Line) (f : LineState → LineState) : (s.onLine n f).table = s.table := rfl
@[simp] theorem State.onLine_sched (n : Line) (f : LineState → LineState) : (s.onLine n f).sched = s.sched := rfl
@[simp] theorem State.onLine_sense (n : Line) (f : LineState → LineState) : (s.onLine n f).sense = s.sense := rfl
@[simp] theorem State.onLine_bus (n : Line) (f : LineState → LineState) : (s.onLine n f).bus = s.bus := rfl
@[simp] theorem State.onLine_asm (n : Line) (f : LineState → LineState) : (s.onLine n f).asm = s.asm := rfl
@[simp] theorem State.onLine_tonePhase (n : Line) (f : LineState → LineState) : (s.onLine n f).tonePhase = s.tonePhase := rfl
@[simp] theorem State.onLine_pins (n : Line) (f : LineState → LineState) : (s.onLine n f).pins = s.pins := rfl
@[simp] theorem State.onLine_last (n : Line) (f : LineState → LineState) : (s.onLine n f).last = s.last := rfl
@[simp] theorem State.onLine_crystal (n : Line) (f : LineState → LineState) : (s.onLine n f).crystal = s.crystal := rfl
@[simp] theorem State.onLine_order (n : Line) (f : LineState → LineState) : (s.onLine n f).order = s.order := rfl
@[simp] theorem State.onLine_pending (n : Line) (f : LineState → LineState) : (s.onLine n f).pending = s.pending := rfl

/-! ### `mapLines` -/

@[simp] theorem State.mapLines_phase (f : LineState → LineState) : (s.mapLines f).phase = s.phase := rfl
@[simp] theorem State.mapLines_straps (f : LineState → LineState) : (s.mapLines f).straps = s.straps := rfl
@[simp] theorem State.mapLines_loader (f : LineState → LineState) : (s.mapLines f).loader = s.loader := rfl
@[simp] theorem State.mapLines_params (f : LineState → LineState) : (s.mapLines f).params = s.params := rfl
@[simp] theorem State.mapLines_cadence (f : LineState → LineState) : (s.mapLines f).cadence = s.cadence := rfl
@[simp] theorem State.mapLines_table (f : LineState → LineState) : (s.mapLines f).table = s.table := rfl
@[simp] theorem State.mapLines_sched (f : LineState → LineState) : (s.mapLines f).sched = s.sched := rfl
@[simp] theorem State.mapLines_sense (f : LineState → LineState) : (s.mapLines f).sense = s.sense := rfl
@[simp] theorem State.mapLines_bus (f : LineState → LineState) : (s.mapLines f).bus = s.bus := rfl
@[simp] theorem State.mapLines_asm (f : LineState → LineState) : (s.mapLines f).asm = s.asm := rfl
@[simp] theorem State.mapLines_tonePhase (f : LineState → LineState) : (s.mapLines f).tonePhase = s.tonePhase := rfl
@[simp] theorem State.mapLines_pins (f : LineState → LineState) : (s.mapLines f).pins = s.pins := rfl
@[simp] theorem State.mapLines_last (f : LineState → LineState) : (s.mapLines f).last = s.last := rfl
@[simp] theorem State.mapLines_crystal (f : LineState → LineState) : (s.mapLines f).crystal = s.crystal := rfl
@[simp] theorem State.mapLines_order (f : LineState → LineState) : (s.mapLines f).order = s.order := rfl
@[simp] theorem State.mapLines_pending (f : LineState → LineState) : (s.mapLines f).pending = s.pending := rfl

/-! ### `onHook` -/

@[simp] theorem State.onHook_phase (n : Line) (f : HookRecord → HookRecord) : (s.onHook n f).phase = s.phase := rfl
@[simp] theorem State.onHook_straps (n : Line) (f : HookRecord → HookRecord) : (s.onHook n f).straps = s.straps := rfl
@[simp] theorem State.onHook_loader (n : Line) (f : HookRecord → HookRecord) : (s.onHook n f).loader = s.loader := rfl
@[simp] theorem State.onHook_params (n : Line) (f : HookRecord → HookRecord) : (s.onHook n f).params = s.params := rfl
@[simp] theorem State.onHook_cadence (n : Line) (f : HookRecord → HookRecord) : (s.onHook n f).cadence = s.cadence := rfl
@[simp] theorem State.onHook_table (n : Line) (f : HookRecord → HookRecord) : (s.onHook n f).table = s.table := rfl
@[simp] theorem State.onHook_sched (n : Line) (f : HookRecord → HookRecord) : (s.onHook n f).sched = s.sched := rfl
@[simp] theorem State.onHook_sense (n : Line) (f : HookRecord → HookRecord) : (s.onHook n f).sense = s.sense := rfl
@[simp] theorem State.onHook_bus (n : Line) (f : HookRecord → HookRecord) : (s.onHook n f).bus = s.bus := rfl
@[simp] theorem State.onHook_asm (n : Line) (f : HookRecord → HookRecord) : (s.onHook n f).asm = s.asm := rfl
@[simp] theorem State.onHook_tonePhase (n : Line) (f : HookRecord → HookRecord) : (s.onHook n f).tonePhase = s.tonePhase := rfl
@[simp] theorem State.onHook_pins (n : Line) (f : HookRecord → HookRecord) : (s.onHook n f).pins = s.pins := rfl
@[simp] theorem State.onHook_last (n : Line) (f : HookRecord → HookRecord) : (s.onHook n f).last = s.last := rfl
@[simp] theorem State.onHook_crystal (n : Line) (f : HookRecord → HookRecord) : (s.onHook n f).crystal = s.crystal := rfl
@[simp] theorem State.onHook_order (n : Line) (f : HookRecord → HookRecord) : (s.onHook n f).order = s.order := rfl
@[simp] theorem State.onHook_pending (n : Line) (f : HookRecord → HookRecord) : (s.onHook n f).pending = s.pending := rfl

/-! ### `onTone` -/

@[simp] theorem State.onTone_phase (n : Line) (f : ToneRecord → ToneRecord) : (s.onTone n f).phase = s.phase := rfl
@[simp] theorem State.onTone_straps (n : Line) (f : ToneRecord → ToneRecord) : (s.onTone n f).straps = s.straps := rfl
@[simp] theorem State.onTone_loader (n : Line) (f : ToneRecord → ToneRecord) : (s.onTone n f).loader = s.loader := rfl
@[simp] theorem State.onTone_params (n : Line) (f : ToneRecord → ToneRecord) : (s.onTone n f).params = s.params := rfl
@[simp] theorem State.onTone_cadence (n : Line) (f : ToneRecord → ToneRecord) : (s.onTone n f).cadence = s.cadence := rfl
@[simp] theorem State.onTone_table (n : Line) (f : ToneRecord → ToneRecord) : (s.onTone n f).table = s.table := rfl
@[simp] theorem State.onTone_sched (n : Line) (f : ToneRecord → ToneRecord) : (s.onTone n f).sched = s.sched := rfl
@[simp] theorem State.onTone_sense (n : Line) (f : ToneRecord → ToneRecord) : (s.onTone n f).sense = s.sense := rfl
@[simp] theorem State.onTone_bus (n : Line) (f : ToneRecord → ToneRecord) : (s.onTone n f).bus = s.bus := rfl
@[simp] theorem State.onTone_asm (n : Line) (f : ToneRecord → ToneRecord) : (s.onTone n f).asm = s.asm := rfl
@[simp] theorem State.onTone_tonePhase (n : Line) (f : ToneRecord → ToneRecord) : (s.onTone n f).tonePhase = s.tonePhase := rfl
@[simp] theorem State.onTone_pins (n : Line) (f : ToneRecord → ToneRecord) : (s.onTone n f).pins = s.pins := rfl
@[simp] theorem State.onTone_last (n : Line) (f : ToneRecord → ToneRecord) : (s.onTone n f).last = s.last := rfl
@[simp] theorem State.onTone_crystal (n : Line) (f : ToneRecord → ToneRecord) : (s.onTone n f).crystal = s.crystal := rfl
@[simp] theorem State.onTone_order (n : Line) (f : ToneRecord → ToneRecord) : (s.onTone n f).order = s.order := rfl
@[simp] theorem State.onTone_pending (n : Line) (f : ToneRecord → ToneRecord) : (s.onTone n f).pending = s.pending := rfl

/-! ### `setRing` -/

@[simp] theorem State.setRing_phase (n : Line) (r : RingRecord) : (s.setRing n r).phase = s.phase := rfl
@[simp] theorem State.setRing_straps (n : Line) (r : RingRecord) : (s.setRing n r).straps = s.straps := rfl
@[simp] theorem State.setRing_loader (n : Line) (r : RingRecord) : (s.setRing n r).loader = s.loader := rfl
@[simp] theorem State.setRing_params (n : Line) (r : RingRecord) : (s.setRing n r).params = s.params := rfl
@[simp] theorem State.setRing_cadence (n : Line) (r : RingRecord) : (s.setRing n r).cadence = s.cadence := rfl
@[simp] theorem State.setRing_table (n : Line) (r : RingRecord) : (s.setRing n r).table = s.table := rfl
@[simp] theorem State.setRing_sched (n : Line) (r : RingRecord) : (s.setRing n r).sched = s.sched := rfl
@[simp] theorem State.setRing_sense (n : Line) (r : RingRecord) : (s.setRing n r).sense = s.sense := rfl
@[simp] theorem State.setRing_bus (n : Line) (r : RingRecord) : (s.setRing n r).bus = s.bus := rfl
@[simp] theorem State.setRing_asm (n : Line) (r : RingRecord) : (s.setRing n r).asm = s.asm := rfl
@[simp] theorem State.setRing_tonePhase (n : Line) (r : RingRecord) : (s.setRing n r).tonePhase = s.tonePhase := rfl
@[simp] theorem State.setRing_pins (n : Line) (r : RingRecord) : (s.setRing n r).pins = s.pins := rfl
@[simp] theorem State.setRing_last (n : Line) (r : RingRecord) : (s.setRing n r).last = s.last := rfl
@[simp] theorem State.setRing_crystal (n : Line) (r : RingRecord) : (s.setRing n r).crystal = s.crystal := rfl
@[simp] theorem State.setRing_order (n : Line) (r : RingRecord) : (s.setRing n r).order = s.order := rfl
@[simp] theorem State.setRing_pending (n : Line) (r : RingRecord) : (s.setRing n r).pending = s.pending := rfl

/-! ### `setQueue` -/

@[simp] theorem State.setQueue_phase (q : List Report) : (s.setQueue q).phase = s.phase := rfl
@[simp] theorem State.setQueue_straps (q : List Report) : (s.setQueue q).straps = s.straps := rfl
@[simp] theorem State.setQueue_loader (q : List Report) : (s.setQueue q).loader = s.loader := rfl
@[simp] theorem State.setQueue_params (q : List Report) : (s.setQueue q).params = s.params := rfl
@[simp] theorem State.setQueue_cadence (q : List Report) : (s.setQueue q).cadence = s.cadence := rfl
@[simp] theorem State.setQueue_table (q : List Report) : (s.setQueue q).table = s.table := rfl
@[simp] theorem State.setQueue_sched (q : List Report) : (s.setQueue q).sched = s.sched := rfl
@[simp] theorem State.setQueue_sense (q : List Report) : (s.setQueue q).sense = s.sense := rfl
@[simp] theorem State.setQueue_bus (q : List Report) : (s.setQueue q).bus = s.bus := rfl
@[simp] theorem State.setQueue_asm (q : List Report) : (s.setQueue q).asm = { s.asm with queue := q } := rfl
@[simp] theorem State.setQueue_lines (q : List Report) : (s.setQueue q).lines = s.lines := rfl
@[simp] theorem State.setQueue_tonePhase (q : List Report) : (s.setQueue q).tonePhase = s.tonePhase := rfl
@[simp] theorem State.setQueue_pins (q : List Report) : (s.setQueue q).pins = s.pins := rfl
@[simp] theorem State.setQueue_last (q : List Report) : (s.setQueue q).last = s.last := rfl
@[simp] theorem State.setQueue_crystal (q : List Report) : (s.setQueue q).crystal = s.crystal := rfl
@[simp] theorem State.setQueue_order (q : List Report) : (s.setQueue q).order = s.order := rfl
@[simp] theorem State.setQueue_pending (q : List Report) : (s.setQueue q).pending = s.pending := rfl
@[simp] theorem State.setQueue_line (q : List Report) (m : Line) : (s.setQueue q).line m = s.line m := rfl
@[simp] theorem State.setQueue_ring (q : List Report) (m : Line) : (s.setQueue q).ring m = s.ring m := rfl

/-! ### `setAsm` -/

@[simp] theorem State.setAsm_phase (a : Assembler) : (s.setAsm a).phase = s.phase := rfl
@[simp] theorem State.setAsm_straps (a : Assembler) : (s.setAsm a).straps = s.straps := rfl
@[simp] theorem State.setAsm_loader (a : Assembler) : (s.setAsm a).loader = s.loader := rfl
@[simp] theorem State.setAsm_params (a : Assembler) : (s.setAsm a).params = s.params := rfl
@[simp] theorem State.setAsm_cadence (a : Assembler) : (s.setAsm a).cadence = s.cadence := rfl
@[simp] theorem State.setAsm_table (a : Assembler) : (s.setAsm a).table = s.table := rfl
@[simp] theorem State.setAsm_sched (a : Assembler) : (s.setAsm a).sched = s.sched := rfl
@[simp] theorem State.setAsm_sense (a : Assembler) : (s.setAsm a).sense = s.sense := rfl
@[simp] theorem State.setAsm_bus (a : Assembler) : (s.setAsm a).bus = s.bus := rfl
@[simp] theorem State.setAsm_asm (a : Assembler) : (s.setAsm a).asm = a := rfl
@[simp] theorem State.setAsm_lines (a : Assembler) : (s.setAsm a).lines = s.lines := rfl
@[simp] theorem State.setAsm_tonePhase (a : Assembler) : (s.setAsm a).tonePhase = s.tonePhase := rfl
@[simp] theorem State.setAsm_pins (a : Assembler) : (s.setAsm a).pins = s.pins := rfl
@[simp] theorem State.setAsm_last (a : Assembler) : (s.setAsm a).last = s.last := rfl
@[simp] theorem State.setAsm_crystal (a : Assembler) : (s.setAsm a).crystal = s.crystal := rfl
@[simp] theorem State.setAsm_order (a : Assembler) : (s.setAsm a).order = s.order := rfl
@[simp] theorem State.setAsm_pending (a : Assembler) : (s.setAsm a).pending = s.pending := rfl
@[simp] theorem State.setAsm_line (a : Assembler) (m : Line) : (s.setAsm a).line m = s.line m := rfl
@[simp] theorem State.setAsm_ring (a : Assembler) (m : Line) : (s.setAsm a).ring m = s.ring m := rfl

/-! ### `oweRelease` -/

@[simp] theorem State.oweRelease_phase (n : Line) : (s.oweRelease n).phase = s.phase := rfl
@[simp] theorem State.oweRelease_straps (n : Line) : (s.oweRelease n).straps = s.straps := rfl
@[simp] theorem State.oweRelease_loader (n : Line) : (s.oweRelease n).loader = s.loader := rfl
@[simp] theorem State.oweRelease_params (n : Line) : (s.oweRelease n).params = s.params := rfl
@[simp] theorem State.oweRelease_cadence (n : Line) : (s.oweRelease n).cadence = s.cadence := rfl
@[simp] theorem State.oweRelease_table (n : Line) : (s.oweRelease n).table = s.table := rfl
@[simp] theorem State.oweRelease_sched (n : Line) : (s.oweRelease n).sched = s.sched := rfl
@[simp] theorem State.oweRelease_sense (n : Line) : (s.oweRelease n).sense = s.sense := rfl
@[simp] theorem State.oweRelease_bus (n : Line) : (s.oweRelease n).bus = s.bus := rfl
@[simp] theorem State.oweRelease_asm (n : Line) : (s.oweRelease n).asm = { s.asm with releaseMask := s.asm.releaseMask ||| LineSet.single n } := rfl
@[simp] theorem State.oweRelease_lines (n : Line) : (s.oweRelease n).lines = s.lines := rfl
@[simp] theorem State.oweRelease_tonePhase (n : Line) : (s.oweRelease n).tonePhase = s.tonePhase := rfl
@[simp] theorem State.oweRelease_pins (n : Line) : (s.oweRelease n).pins = s.pins := rfl
@[simp] theorem State.oweRelease_last (n : Line) : (s.oweRelease n).last = s.last := rfl
@[simp] theorem State.oweRelease_crystal (n : Line) : (s.oweRelease n).crystal = s.crystal := rfl
@[simp] theorem State.oweRelease_order (n : Line) : (s.oweRelease n).order = s.order := rfl
@[simp] theorem State.oweRelease_pending (n : Line) : (s.oweRelease n).pending = s.pending := rfl
@[simp] theorem State.oweRelease_line (n : Line) (m : Line) : (s.oweRelease n).line m = s.line m := rfl
@[simp] theorem State.oweRelease_ring (n : Line) (m : Line) : (s.oweRelease n).ring m = s.ring m := rfl

/-! ### `setBus` -/

@[simp] theorem State.setBus_phase (b : Bus) : (s.setBus b).phase = s.phase := rfl
@[simp] theorem State.setBus_straps (b : Bus) : (s.setBus b).straps = s.straps := rfl
@[simp] theorem State.setBus_loader (b : Bus) : (s.setBus b).loader = s.loader := rfl
@[simp] theorem State.setBus_params (b : Bus) : (s.setBus b).params = s.params := rfl
@[simp] theorem State.setBus_cadence (b : Bus) : (s.setBus b).cadence = s.cadence := rfl
@[simp] theorem State.setBus_table (b : Bus) : (s.setBus b).table = s.table := rfl
@[simp] theorem State.setBus_sched (b : Bus) : (s.setBus b).sched = s.sched := rfl
@[simp] theorem State.setBus_sense (b : Bus) : (s.setBus b).sense = s.sense := rfl
@[simp] theorem State.setBus_bus (b : Bus) : (s.setBus b).bus = b := rfl
@[simp] theorem State.setBus_asm (b : Bus) : (s.setBus b).asm = s.asm := rfl
@[simp] theorem State.setBus_lines (b : Bus) : (s.setBus b).lines = s.lines := rfl
@[simp] theorem State.setBus_tonePhase (b : Bus) : (s.setBus b).tonePhase = s.tonePhase := rfl
@[simp] theorem State.setBus_pins (b : Bus) : (s.setBus b).pins = s.pins := rfl
@[simp] theorem State.setBus_last (b : Bus) : (s.setBus b).last = s.last := rfl
@[simp] theorem State.setBus_crystal (b : Bus) : (s.setBus b).crystal = s.crystal := rfl
@[simp] theorem State.setBus_order (b : Bus) : (s.setBus b).order = s.order := rfl
@[simp] theorem State.setBus_pending (b : Bus) : (s.setBus b).pending = s.pending := rfl
@[simp] theorem State.setBus_line (b : Bus) (m : Line) : (s.setBus b).line m = s.line m := rfl
@[simp] theorem State.setBus_ring (b : Bus) (m : Line) : (s.setBus b).ring m = s.ring m := rfl

/-! ### `setLink` -/

@[simp] theorem State.setLink_phase (k : Link) (p : Nat) : (s.setLink k p).phase = s.phase := rfl
@[simp] theorem State.setLink_straps (k : Link) (p : Nat) : (s.setLink k p).straps = s.straps := rfl
@[simp] theorem State.setLink_loader (k : Link) (p : Nat) : (s.setLink k p).loader = s.loader := rfl
@[simp] theorem State.setLink_params (k : Link) (p : Nat) : (s.setLink k p).params = s.params := rfl
@[simp] theorem State.setLink_cadence (k : Link) (p : Nat) : (s.setLink k p).cadence = s.cadence := rfl
@[simp] theorem State.setLink_table (k : Link) (p : Nat) : (s.setLink k p).table = s.table := rfl
@[simp] theorem State.setLink_sched (k : Link) (p : Nat) : (s.setLink k p).sched = s.sched := rfl
@[simp] theorem State.setLink_sense (k : Link) (p : Nat) : (s.setLink k p).sense = s.sense := rfl
@[simp] theorem State.setLink_bus (k : Link) (p : Nat) : (s.setLink k p).bus = { s.bus with link := k, period := p } := rfl
@[simp] theorem State.setLink_asm (k : Link) (p : Nat) : (s.setLink k p).asm = s.asm := rfl
@[simp] theorem State.setLink_lines (k : Link) (p : Nat) : (s.setLink k p).lines = s.lines := rfl
@[simp] theorem State.setLink_tonePhase (k : Link) (p : Nat) : (s.setLink k p).tonePhase = s.tonePhase := rfl
@[simp] theorem State.setLink_pins (k : Link) (p : Nat) : (s.setLink k p).pins = s.pins := rfl
@[simp] theorem State.setLink_last (k : Link) (p : Nat) : (s.setLink k p).last = s.last := rfl
@[simp] theorem State.setLink_crystal (k : Link) (p : Nat) : (s.setLink k p).crystal = s.crystal := rfl
@[simp] theorem State.setLink_order (k : Link) (p : Nat) : (s.setLink k p).order = s.order := rfl
@[simp] theorem State.setLink_pending (k : Link) (p : Nat) : (s.setLink k p).pending = s.pending := rfl
@[simp] theorem State.setLink_line (k : Link) (p : Nat) (m : Line) : (s.setLink k p).line m = s.line m := rfl
@[simp] theorem State.setLink_ring (k : Link) (p : Nat) (m : Line) : (s.setLink k p).ring m = s.ring m := rfl

/-! ### `setTable` -/

@[simp] theorem State.setTable_phase (b : LoadTable) : (s.setTable b).phase = s.phase := rfl
@[simp] theorem State.setTable_straps (b : LoadTable) : (s.setTable b).straps = s.straps := rfl
@[simp] theorem State.setTable_loader (b : LoadTable) : (s.setTable b).loader = s.loader := rfl
@[simp] theorem State.setTable_params (b : LoadTable) : (s.setTable b).params = s.params := rfl
@[simp] theorem State.setTable_cadence (b : LoadTable) : (s.setTable b).cadence = s.cadence := rfl
@[simp] theorem State.setTable_table (b : LoadTable) : (s.setTable b).table = b := rfl
@[simp] theorem State.setTable_sched (b : LoadTable) : (s.setTable b).sched = s.sched := rfl
@[simp] theorem State.setTable_sense (b : LoadTable) : (s.setTable b).sense = s.sense := rfl
@[simp] theorem State.setTable_bus (b : LoadTable) : (s.setTable b).bus = s.bus := rfl
@[simp] theorem State.setTable_asm (b : LoadTable) : (s.setTable b).asm = s.asm := rfl
@[simp] theorem State.setTable_lines (b : LoadTable) : (s.setTable b).lines = s.lines := rfl
@[simp] theorem State.setTable_tonePhase (b : LoadTable) : (s.setTable b).tonePhase = s.tonePhase := rfl
@[simp] theorem State.setTable_pins (b : LoadTable) : (s.setTable b).pins = s.pins := rfl
@[simp] theorem State.setTable_last (b : LoadTable) : (s.setTable b).last = s.last := rfl
@[simp] theorem State.setTable_crystal (b : LoadTable) : (s.setTable b).crystal = s.crystal := rfl
@[simp] theorem State.setTable_order (b : LoadTable) : (s.setTable b).order = s.order := rfl
@[simp] theorem State.setTable_pending (b : LoadTable) : (s.setTable b).pending = s.pending := rfl
@[simp] theorem State.setTable_line (b : LoadTable) (m : Line) : (s.setTable b).line m = s.line m := rfl
@[simp] theorem State.setTable_ring (b : LoadTable) (m : Line) : (s.setTable b).ring m = s.ring m := rfl

/-! ### `setSched` -/

@[simp] theorem State.setSched_phase (d : Scheduler) : (s.setSched d).phase = s.phase := rfl
@[simp] theorem State.setSched_straps (d : Scheduler) : (s.setSched d).straps = s.straps := rfl
@[simp] theorem State.setSched_loader (d : Scheduler) : (s.setSched d).loader = s.loader := rfl
@[simp] theorem State.setSched_params (d : Scheduler) : (s.setSched d).params = s.params := rfl
@[simp] theorem State.setSched_cadence (d : Scheduler) : (s.setSched d).cadence = s.cadence := rfl
@[simp] theorem State.setSched_table (d : Scheduler) : (s.setSched d).table = s.table := rfl
@[simp] theorem State.setSched_sched (d : Scheduler) : (s.setSched d).sched = d := rfl
@[simp] theorem State.setSched_sense (d : Scheduler) : (s.setSched d).sense = s.sense := rfl
@[simp] theorem State.setSched_bus (d : Scheduler) : (s.setSched d).bus = s.bus := rfl
@[simp] theorem State.setSched_asm (d : Scheduler) : (s.setSched d).asm = s.asm := rfl
@[simp] theorem State.setSched_lines (d : Scheduler) : (s.setSched d).lines = s.lines := rfl
@[simp] theorem State.setSched_tonePhase (d : Scheduler) : (s.setSched d).tonePhase = s.tonePhase := rfl
@[simp] theorem State.setSched_pins (d : Scheduler) : (s.setSched d).pins = s.pins := rfl
@[simp] theorem State.setSched_last (d : Scheduler) : (s.setSched d).last = s.last := rfl
@[simp] theorem State.setSched_crystal (d : Scheduler) : (s.setSched d).crystal = s.crystal := rfl
@[simp] theorem State.setSched_order (d : Scheduler) : (s.setSched d).order = s.order := rfl
@[simp] theorem State.setSched_pending (d : Scheduler) : (s.setSched d).pending = s.pending := rfl
@[simp] theorem State.setSched_line (d : Scheduler) (m : Line) : (s.setSched d).line m = s.line m := rfl
@[simp] theorem State.setSched_ring (d : Scheduler) (m : Line) : (s.setSched d).ring m = s.ring m := rfl

/-! ### `setToken` -/

@[simp] theorem State.setToken_phase (k : Token) : (s.setToken k).phase = s.phase := rfl
@[simp] theorem State.setToken_straps (k : Token) : (s.setToken k).straps = s.straps := rfl
@[simp] theorem State.setToken_loader (k : Token) : (s.setToken k).loader = s.loader := rfl
@[simp] theorem State.setToken_params (k : Token) : (s.setToken k).params = s.params := rfl
@[simp] theorem State.setToken_cadence (k : Token) : (s.setToken k).cadence = s.cadence := rfl
@[simp] theorem State.setToken_table (k : Token) : (s.setToken k).table = s.table := rfl
@[simp] theorem State.setToken_sched (k : Token) : (s.setToken k).sched = { s.sched with token := k } := rfl
@[simp] theorem State.setToken_sense (k : Token) : (s.setToken k).sense = s.sense := rfl
@[simp] theorem State.setToken_bus (k : Token) : (s.setToken k).bus = s.bus := rfl
@[simp] theorem State.setToken_asm (k : Token) : (s.setToken k).asm = s.asm := rfl
@[simp] theorem State.setToken_lines (k : Token) : (s.setToken k).lines = s.lines := rfl
@[simp] theorem State.setToken_tonePhase (k : Token) : (s.setToken k).tonePhase = s.tonePhase := rfl
@[simp] theorem State.setToken_pins (k : Token) : (s.setToken k).pins = s.pins := rfl
@[simp] theorem State.setToken_last (k : Token) : (s.setToken k).last = s.last := rfl
@[simp] theorem State.setToken_crystal (k : Token) : (s.setToken k).crystal = s.crystal := rfl
@[simp] theorem State.setToken_order (k : Token) : (s.setToken k).order = s.order := rfl
@[simp] theorem State.setToken_pending (k : Token) : (s.setToken k).pending = s.pending := rfl
@[simp] theorem State.setToken_line (k : Token) (m : Line) : (s.setToken k).line m = s.line m := rfl
@[simp] theorem State.setToken_ring (k : Token) (m : Line) : (s.setToken k).ring m = s.ring m := rfl

/-! ### `leaveAccepted` -/

@[simp] theorem State.leaveAccepted_phase (n : Line) : (s.leaveAccepted n).phase = s.phase := rfl
@[simp] theorem State.leaveAccepted_straps (n : Line) : (s.leaveAccepted n).straps = s.straps := rfl
@[simp] theorem State.leaveAccepted_loader (n : Line) : (s.leaveAccepted n).loader = s.loader := rfl
@[simp] theorem State.leaveAccepted_params (n : Line) : (s.leaveAccepted n).params = s.params := rfl
@[simp] theorem State.leaveAccepted_cadence (n : Line) : (s.leaveAccepted n).cadence = s.cadence := rfl
@[simp] theorem State.leaveAccepted_table (n : Line) : (s.leaveAccepted n).table = s.table := rfl
@[simp] theorem State.leaveAccepted_sched (n : Line) : (s.leaveAccepted n).sched = { s.sched with accepted := s.sched.accepted.erase n } := rfl
@[simp] theorem State.leaveAccepted_sense (n : Line) : (s.leaveAccepted n).sense = s.sense := rfl
@[simp] theorem State.leaveAccepted_bus (n : Line) : (s.leaveAccepted n).bus = s.bus := rfl
@[simp] theorem State.leaveAccepted_asm (n : Line) : (s.leaveAccepted n).asm = s.asm := rfl
@[simp] theorem State.leaveAccepted_lines (n : Line) : (s.leaveAccepted n).lines = s.lines := rfl
@[simp] theorem State.leaveAccepted_tonePhase (n : Line) : (s.leaveAccepted n).tonePhase = s.tonePhase := rfl
@[simp] theorem State.leaveAccepted_pins (n : Line) : (s.leaveAccepted n).pins = s.pins := rfl
@[simp] theorem State.leaveAccepted_last (n : Line) : (s.leaveAccepted n).last = s.last := rfl
@[simp] theorem State.leaveAccepted_crystal (n : Line) : (s.leaveAccepted n).crystal = s.crystal := rfl
@[simp] theorem State.leaveAccepted_order (n : Line) : (s.leaveAccepted n).order = s.order := rfl
@[simp] theorem State.leaveAccepted_pending (n : Line) : (s.leaveAccepted n).pending = s.pending := rfl
@[simp] theorem State.leaveAccepted_line (n : Line) (m : Line) : (s.leaveAccepted n).line m = s.line m := rfl
@[simp] theorem State.leaveAccepted_ring (n : Line) (m : Line) : (s.leaveAccepted n).ring m = s.ring m := rfl

/-! ### `leaveCommits` -/

@[simp] theorem State.leaveCommits_phase (n : Line) : (s.leaveCommits n).phase = s.phase := rfl
@[simp] theorem State.leaveCommits_straps (n : Line) : (s.leaveCommits n).straps = s.straps := rfl
@[simp] theorem State.leaveCommits_loader (n : Line) : (s.leaveCommits n).loader = s.loader := rfl
@[simp] theorem State.leaveCommits_params (n : Line) : (s.leaveCommits n).params = s.params := rfl
@[simp] theorem State.leaveCommits_cadence (n : Line) : (s.leaveCommits n).cadence = s.cadence := rfl
@[simp] theorem State.leaveCommits_table (n : Line) : (s.leaveCommits n).table = s.table := rfl
@[simp] theorem State.leaveCommits_sched (n : Line) : (s.leaveCommits n).sched = { s.sched with commits := s.sched.commits.erase n } := rfl
@[simp] theorem State.leaveCommits_sense (n : Line) : (s.leaveCommits n).sense = s.sense := rfl
@[simp] theorem State.leaveCommits_bus (n : Line) : (s.leaveCommits n).bus = s.bus := rfl
@[simp] theorem State.leaveCommits_asm (n : Line) : (s.leaveCommits n).asm = s.asm := rfl
@[simp] theorem State.leaveCommits_lines (n : Line) : (s.leaveCommits n).lines = s.lines := rfl
@[simp] theorem State.leaveCommits_tonePhase (n : Line) : (s.leaveCommits n).tonePhase = s.tonePhase := rfl
@[simp] theorem State.leaveCommits_pins (n : Line) : (s.leaveCommits n).pins = s.pins := rfl
@[simp] theorem State.leaveCommits_last (n : Line) : (s.leaveCommits n).last = s.last := rfl
@[simp] theorem State.leaveCommits_crystal (n : Line) : (s.leaveCommits n).crystal = s.crystal := rfl
@[simp] theorem State.leaveCommits_order (n : Line) : (s.leaveCommits n).order = s.order := rfl
@[simp] theorem State.leaveCommits_pending (n : Line) : (s.leaveCommits n).pending = s.pending := rfl
@[simp] theorem State.leaveCommits_line (n : Line) (m : Line) : (s.leaveCommits n).line m = s.line m := rfl
@[simp] theorem State.leaveCommits_ring (n : Line) (m : Line) : (s.leaveCommits n).ring m = s.ring m := rfl

/-! ### `setCadence` -/

@[simp] theorem State.setCadence_phase (c : Cadence) : (s.setCadence c).phase = s.phase := rfl
@[simp] theorem State.setCadence_straps (c : Cadence) : (s.setCadence c).straps = s.straps := rfl
@[simp] theorem State.setCadence_loader (c : Cadence) : (s.setCadence c).loader = s.loader := rfl
@[simp] theorem State.setCadence_params (c : Cadence) : (s.setCadence c).params = s.params := rfl
@[simp] theorem State.setCadence_cadence (c : Cadence) : (s.setCadence c).cadence = c := rfl
@[simp] theorem State.setCadence_table (c : Cadence) : (s.setCadence c).table = s.table := rfl
@[simp] theorem State.setCadence_sched (c : Cadence) : (s.setCadence c).sched = s.sched := rfl
@[simp] theorem State.setCadence_sense (c : Cadence) : (s.setCadence c).sense = s.sense := rfl
@[simp] theorem State.setCadence_bus (c : Cadence) : (s.setCadence c).bus = s.bus := rfl
@[simp] theorem State.setCadence_asm (c : Cadence) : (s.setCadence c).asm = s.asm := rfl
@[simp] theorem State.setCadence_lines (c : Cadence) : (s.setCadence c).lines = s.lines := rfl
@[simp] theorem State.setCadence_tonePhase (c : Cadence) : (s.setCadence c).tonePhase = s.tonePhase := rfl
@[simp] theorem State.setCadence_pins (c : Cadence) : (s.setCadence c).pins = s.pins := rfl
@[simp] theorem State.setCadence_last (c : Cadence) : (s.setCadence c).last = s.last := rfl
@[simp] theorem State.setCadence_crystal (c : Cadence) : (s.setCadence c).crystal = s.crystal := rfl
@[simp] theorem State.setCadence_order (c : Cadence) : (s.setCadence c).order = s.order := rfl
@[simp] theorem State.setCadence_pending (c : Cadence) : (s.setCadence c).pending = s.pending := rfl
@[simp] theorem State.setCadence_line (c : Cadence) (m : Line) : (s.setCadence c).line m = s.line m := rfl
@[simp] theorem State.setCadence_ring (c : Cadence) (m : Line) : (s.setCadence c).ring m = s.ring m := rfl

/-! ### `setSense` -/

@[simp] theorem State.setSense_phase (u : SenseUnit) : (s.setSense u).phase = s.phase := rfl
@[simp] theorem State.setSense_straps (u : SenseUnit) : (s.setSense u).straps = s.straps := rfl
@[simp] theorem State.setSense_loader (u : SenseUnit) : (s.setSense u).loader = s.loader := rfl
@[simp] theorem State.setSense_params (u : SenseUnit) : (s.setSense u).params = s.params := rfl
@[simp] theorem State.setSense_cadence (u : SenseUnit) : (s.setSense u).cadence = s.cadence := rfl
@[simp] theorem State.setSense_table (u : SenseUnit) : (s.setSense u).table = s.table := rfl
@[simp] theorem State.setSense_sched (u : SenseUnit) : (s.setSense u).sched = s.sched := rfl
@[simp] theorem State.setSense_sense (u : SenseUnit) : (s.setSense u).sense = u := rfl
@[simp] theorem State.setSense_bus (u : SenseUnit) : (s.setSense u).bus = s.bus := rfl
@[simp] theorem State.setSense_asm (u : SenseUnit) : (s.setSense u).asm = s.asm := rfl
@[simp] theorem State.setSense_lines (u : SenseUnit) : (s.setSense u).lines = s.lines := rfl
@[simp] theorem State.setSense_tonePhase (u : SenseUnit) : (s.setSense u).tonePhase = s.tonePhase := rfl
@[simp] theorem State.setSense_pins (u : SenseUnit) : (s.setSense u).pins = s.pins := rfl
@[simp] theorem State.setSense_last (u : SenseUnit) : (s.setSense u).last = s.last := rfl
@[simp] theorem State.setSense_crystal (u : SenseUnit) : (s.setSense u).crystal = s.crystal := rfl
@[simp] theorem State.setSense_order (u : SenseUnit) : (s.setSense u).order = s.order := rfl
@[simp] theorem State.setSense_pending (u : SenseUnit) : (s.setSense u).pending = s.pending := rfl
@[simp] theorem State.setSense_line (u : SenseUnit) (m : Line) : (s.setSense u).line m = s.line m := rfl
@[simp] theorem State.setSense_ring (u : SenseUnit) (m : Line) : (s.setSense u).ring m = s.ring m := rfl

/-! ### `setConfig` -/

@[simp] theorem State.setConfig_phase (l : Loader) (p : Params) : (s.setConfig l p).phase = s.phase := rfl
@[simp] theorem State.setConfig_straps (l : Loader) (p : Params) : (s.setConfig l p).straps = s.straps := rfl
@[simp] theorem State.setConfig_loader (l : Loader) (p : Params) : (s.setConfig l p).loader = l := rfl
@[simp] theorem State.setConfig_params (l : Loader) (p : Params) : (s.setConfig l p).params = p := rfl
@[simp] theorem State.setConfig_cadence (l : Loader) (p : Params) : (s.setConfig l p).cadence = s.cadence := rfl
@[simp] theorem State.setConfig_table (l : Loader) (p : Params) : (s.setConfig l p).table = s.table := rfl
@[simp] theorem State.setConfig_sched (l : Loader) (p : Params) : (s.setConfig l p).sched = s.sched := rfl
@[simp] theorem State.setConfig_sense (l : Loader) (p : Params) : (s.setConfig l p).sense = s.sense := rfl
@[simp] theorem State.setConfig_bus (l : Loader) (p : Params) : (s.setConfig l p).bus = s.bus := rfl
@[simp] theorem State.setConfig_asm (l : Loader) (p : Params) : (s.setConfig l p).asm = s.asm := rfl
@[simp] theorem State.setConfig_lines (l : Loader) (p : Params) : (s.setConfig l p).lines = s.lines := rfl
@[simp] theorem State.setConfig_tonePhase (l : Loader) (p : Params) : (s.setConfig l p).tonePhase = s.tonePhase := rfl
@[simp] theorem State.setConfig_pins (l : Loader) (p : Params) : (s.setConfig l p).pins = s.pins := rfl
@[simp] theorem State.setConfig_last (l : Loader) (p : Params) : (s.setConfig l p).last = s.last := rfl
@[simp] theorem State.setConfig_crystal (l : Loader) (p : Params) : (s.setConfig l p).crystal = s.crystal := rfl
@[simp] theorem State.setConfig_order (l : Loader) (p : Params) : (s.setConfig l p).order = s.order := rfl
@[simp] theorem State.setConfig_pending (l : Loader) (p : Params) : (s.setConfig l p).pending = s.pending := rfl
@[simp] theorem State.setConfig_line (l : Loader) (p : Params) (m : Line) : (s.setConfig l p).line m = s.line m := rfl
@[simp] theorem State.setConfig_ring (l : Loader) (p : Params) (m : Line) : (s.setConfig l p).ring m = s.ring m := rfl

end Sys2Proof.Machine
end

