-- ==== Sys2Proof/Laws/Frames.lean ====
section
/-! SUPPORT. What each shared operation leaves alone: one lemma for each operation, a conjunction over the fields of State that it does not
touch, for `simp`. -/

namespace Sys2Proof.Machine

variable (s : State)

/-- What `reconsiderWithheld` leaves alone. -/
@[simp] theorem State.reconsiderWithheld_keeps :
    (s.reconsiderWithheld).phase = s.phase ∧ (s.reconsiderWithheld).straps = s.straps ∧ (s.reconsiderWithheld).loader =
    s.loader ∧ (s.reconsiderWithheld).params = s.params ∧ (s.reconsiderWithheld).cadence = s.cadence ∧
    (s.reconsiderWithheld).table = s.table ∧ (s.reconsiderWithheld).sched = s.sched ∧ (s.reconsiderWithheld).sense = s.sense
    ∧ (s.reconsiderWithheld).bus = s.bus ∧ (s.reconsiderWithheld).asm = s.asm ∧ (s.reconsiderWithheld).tonePhase =
    s.tonePhase ∧ (s.reconsiderWithheld).pins = s.pins ∧ (s.reconsiderWithheld).last = s.last ∧
    (s.reconsiderWithheld).crystal = s.crystal ∧ (s.reconsiderWithheld).order = s.order ∧ (s.reconsiderWithheld).pending =
    s.pending := by
  unfold State.reconsiderWithheld; (try dsimp only); (repeat' split) <;> simp

/-- What `pushReport` leaves alone. -/
@[simp] theorem State.pushReport_keeps (r : Report) :
    (s.pushReport r).phase = s.phase ∧ (s.pushReport r).straps = s.straps ∧ (s.pushReport r).loader = s.loader ∧
    (s.pushReport r).params = s.params ∧ (s.pushReport r).cadence = s.cadence ∧ (s.pushReport r).table = s.table ∧
    (s.pushReport r).sched = s.sched ∧ (s.pushReport r).sense = s.sense ∧ (s.pushReport r).bus = s.bus ∧ (s.pushReport
    r).tonePhase = s.tonePhase ∧ (s.pushReport r).pins = s.pins ∧ (s.pushReport r).last = s.last ∧ (s.pushReport r).crystal
    = s.crystal ∧ (s.pushReport r).order = s.order ∧ (s.pushReport r).pending = s.pending := by
  unfold State.pushReport; (try dsimp only); (repeat' split) <;> simp

/-- What `handEvent` leaves alone. -/
@[simp] theorem State.handEvent_keeps (n : Line) (e : Event) :
    (s.handEvent n e).phase = s.phase ∧ (s.handEvent n e).straps = s.straps ∧ (s.handEvent n e).loader = s.loader ∧
    (s.handEvent n e).params = s.params ∧ (s.handEvent n e).cadence = s.cadence ∧ (s.handEvent n e).table = s.table ∧
    (s.handEvent n e).sched = s.sched ∧ (s.handEvent n e).sense = s.sense ∧ (s.handEvent n e).bus = s.bus ∧ (s.handEvent n
    e).tonePhase = s.tonePhase ∧ (s.handEvent n e).pins = s.pins ∧ (s.handEvent n e).last = s.last ∧ (s.handEvent n
    e).crystal = s.crystal ∧ (s.handEvent n e).order = s.order ∧ (s.handEvent n e).pending = s.pending := by
  unfold State.handEvent; (try dsimp only); (repeat' split) <;> simp

/-- What `offerReport` leaves alone. -/
@[simp] theorem State.offerReport_keeps (r : Report) :
    (s.offerReport r).phase = s.phase ∧ (s.offerReport r).straps = s.straps ∧ (s.offerReport r).loader = s.loader ∧
    (s.offerReport r).params = s.params ∧ (s.offerReport r).cadence = s.cadence ∧ (s.offerReport r).table = s.table ∧
    (s.offerReport r).sched = s.sched ∧ (s.offerReport r).sense = s.sense ∧ (s.offerReport r).bus = s.bus ∧ (s.offerReport
    r).tonePhase = s.tonePhase ∧ (s.offerReport r).pins = s.pins ∧ (s.offerReport r).last = s.last ∧ (s.offerReport
    r).crystal = s.crystal ∧ (s.offerReport r).order = s.order ∧ (s.offerReport r).pending = s.pending := by
  unfold State.offerReport; (try dsimp only); (repeat' split) <;> simp

/-- What `takeDigitList` leaves alone. -/
@[simp] theorem State.takeDigitList_keeps (b : Bool) (n : Line) (ds : List Digit) :
    (State.takeDigitList b n ds s).phase = s.phase ∧ (State.takeDigitList b n ds s).straps = s.straps ∧ (State.takeDigitList
    b n ds s).loader = s.loader ∧ (State.takeDigitList b n ds s).params = s.params ∧ (State.takeDigitList b n ds s).cadence
    = s.cadence ∧ (State.takeDigitList b n ds s).table = s.table ∧ (State.takeDigitList b n ds s).sched = s.sched ∧
    (State.takeDigitList b n ds s).sense = s.sense ∧ (State.takeDigitList b n ds s).bus = s.bus ∧ (State.takeDigitList b n
    ds s).tonePhase = s.tonePhase ∧ (State.takeDigitList b n ds s).pins = s.pins ∧ (State.takeDigitList b n ds s).last =
    s.last ∧ (State.takeDigitList b n ds s).crystal = s.crystal ∧ (State.takeDigitList b n ds s).order = s.order ∧
    (State.takeDigitList b n ds s).pending = s.pending := by
  induction ds generalizing s with
  | nil => simp [State.takeDigitList]
  | cons d ds ih =>
    unfold State.takeDigitList
    split
    · rename_i t ht
      rw [State.takeDigit] at ht
      obtain h := ih t
      (repeat' split at ht) <;> simp at ht <;> subst ht <;> simpa using h
    · simp

/-- What `takeDigits` leaves alone. -/
@[simp] theorem State.takeDigits_keeps (b : Bool) (n : Line) :
    (s.takeDigits b n).phase = s.phase ∧ (s.takeDigits b n).straps = s.straps ∧ (s.takeDigits b n).loader = s.loader ∧
    (s.takeDigits b n).params = s.params ∧ (s.takeDigits b n).cadence = s.cadence ∧ (s.takeDigits b n).table = s.table ∧
    (s.takeDigits b n).sched = s.sched ∧ (s.takeDigits b n).sense = s.sense ∧ (s.takeDigits b n).bus = s.bus ∧ (s.takeDigits
    b n).tonePhase = s.tonePhase ∧ (s.takeDigits b n).pins = s.pins ∧ (s.takeDigits b n).last = s.last ∧ (s.takeDigits b
    n).crystal = s.crystal ∧ (s.takeDigits b n).order = s.order ∧ (s.takeDigits b n).pending = s.pending := by
  unfold State.takeDigits; (try dsimp only); (repeat' split) <;> simp

/-- What `takeAllDigits` leaves alone. -/
@[simp] theorem State.takeAllDigits_keeps (b : Bool) :
    (s.takeAllDigits b).phase = s.phase ∧ (s.takeAllDigits b).straps = s.straps ∧ (s.takeAllDigits b).loader = s.loader ∧
    (s.takeAllDigits b).params = s.params ∧ (s.takeAllDigits b).cadence = s.cadence ∧ (s.takeAllDigits b).table = s.table ∧
    (s.takeAllDigits b).sched = s.sched ∧ (s.takeAllDigits b).sense = s.sense ∧ (s.takeAllDigits b).bus = s.bus ∧
    (s.takeAllDigits b).tonePhase = s.tonePhase ∧ (s.takeAllDigits b).pins = s.pins ∧ (s.takeAllDigits b).last = s.last ∧
    (s.takeAllDigits b).crystal = s.crystal ∧ (s.takeAllDigits b).order = s.order ∧ (s.takeAllDigits b).pending = s.pending := by
  unfold State.takeAllDigits; simp [allLines, List.finRange, List.foldl]

/-- What `fillRoom` leaves alone. -/
@[simp] theorem State.fillRoom_keeps :
    (s.fillRoom).phase = s.phase ∧ (s.fillRoom).straps = s.straps ∧ (s.fillRoom).loader = s.loader ∧ (s.fillRoom).params =
    s.params ∧ (s.fillRoom).cadence = s.cadence ∧ (s.fillRoom).table = s.table ∧ (s.fillRoom).sched = s.sched ∧
    (s.fillRoom).sense = s.sense ∧ (s.fillRoom).bus = s.bus ∧ (s.fillRoom).tonePhase = s.tonePhase ∧ (s.fillRoom).pins =
    s.pins ∧ (s.fillRoom).last = s.last ∧ (s.fillRoom).crystal = s.crystal ∧ (s.fillRoom).order = s.order ∧
    (s.fillRoom).pending = s.pending := by
  unfold State.fillRoom; (try dsimp only); (repeat' split) <;> simp

/-- What `popReport` leaves alone. -/
@[simp] theorem State.popReport_keeps :
    (s.popReport).phase = s.phase ∧ (s.popReport).straps = s.straps ∧ (s.popReport).loader = s.loader ∧ (s.popReport).params
    = s.params ∧ (s.popReport).cadence = s.cadence ∧ (s.popReport).table = s.table ∧ (s.popReport).sched = s.sched ∧
    (s.popReport).sense = s.sense ∧ (s.popReport).bus = s.bus ∧ (s.popReport).tonePhase = s.tonePhase ∧ (s.popReport).pins =
    s.pins ∧ (s.popReport).last = s.last ∧ (s.popReport).crystal = s.crystal ∧ (s.popReport).order = s.order ∧
    (s.popReport).pending = s.pending := by
  unfold State.popReport; (try dsimp only); (repeat' split) <;> simp

/-- What `countError` leaves alone. -/
@[simp] theorem State.countError_keeps :
    (s.countError).phase = s.phase ∧ (s.countError).straps = s.straps ∧ (s.countError).loader = s.loader ∧
    (s.countError).params = s.params ∧ (s.countError).cadence = s.cadence ∧ (s.countError).table = s.table ∧
    (s.countError).sched = s.sched ∧ (s.countError).sense = s.sense ∧ (s.countError).asm = s.asm ∧ (s.countError).lines =
    s.lines ∧ (s.countError).tonePhase = s.tonePhase ∧ (s.countError).pins = s.pins ∧ (s.countError).last = s.last ∧
    (s.countError).crystal = s.crystal ∧ (s.countError).order = s.order ∧ (s.countError).pending = s.pending := by
  unfold State.countError; (try dsimp only); (repeat' split) <;> simp

/-- What `issueClaim` leaves alone. -/
@[simp] theorem State.issueClaim_keeps (n : Line) (p : Placement) :
    (s.issueClaim n p).phase = s.phase ∧ (s.issueClaim n p).straps = s.straps ∧ (s.issueClaim n p).loader = s.loader ∧
    (s.issueClaim n p).params = s.params ∧ (s.issueClaim n p).cadence = s.cadence ∧ (s.issueClaim n p).table = s.table ∧
    (s.issueClaim n p).sense = s.sense ∧ (s.issueClaim n p).bus = s.bus ∧ (s.issueClaim n p).asm = s.asm ∧ (s.issueClaim n
    p).tonePhase = s.tonePhase ∧ (s.issueClaim n p).pins = s.pins ∧ (s.issueClaim n p).last = s.last ∧ (s.issueClaim n
    p).crystal = s.crystal ∧ (s.issueClaim n p).order = s.order ∧ (s.issueClaim n p).pending = s.pending := by
  unfold State.issueClaim; (try dsimp only); (repeat' split) <;> simp

/-- What `placementAttempt` leaves alone. -/
@[simp] theorem State.placementAttempt_keeps :
    (s.placementAttempt).phase = s.phase ∧ (s.placementAttempt).straps = s.straps ∧ (s.placementAttempt).loader = s.loader ∧
    (s.placementAttempt).params = s.params ∧ (s.placementAttempt).cadence = s.cadence ∧ (s.placementAttempt).table = s.table
    ∧ (s.placementAttempt).sense = s.sense ∧ (s.placementAttempt).bus = s.bus ∧ (s.placementAttempt).asm = s.asm ∧
    (s.placementAttempt).tonePhase = s.tonePhase ∧ (s.placementAttempt).pins = s.pins ∧ (s.placementAttempt).last = s.last ∧
    (s.placementAttempt).crystal = s.crystal ∧ (s.placementAttempt).order = s.order ∧ (s.placementAttempt).pending =
    s.pending := by
  unfold State.placementAttempt; (try dsimp only); (repeat' split) <;> simp

/-- What `freeToken` leaves alone. -/
@[simp] theorem State.freeToken_keeps :
    (s.freeToken).phase = s.phase ∧ (s.freeToken).straps = s.straps ∧ (s.freeToken).loader = s.loader ∧ (s.freeToken).params
    = s.params ∧ (s.freeToken).cadence = s.cadence ∧ (s.freeToken).table = s.table ∧ (s.freeToken).sense = s.sense ∧
    (s.freeToken).bus = s.bus ∧ (s.freeToken).asm = s.asm ∧ (s.freeToken).tonePhase = s.tonePhase ∧ (s.freeToken).pins =
    s.pins ∧ (s.freeToken).last = s.last ∧ (s.freeToken).crystal = s.crystal ∧ (s.freeToken).order = s.order ∧
    (s.freeToken).pending = s.pending := by
  unfold State.freeToken; (try dsimp only); (repeat' split) <;> simp

/-- What `replaceClaim` leaves alone. -/
@[simp] theorem State.replaceClaim_keeps (n : Line) (o : Order) :
    (s.replaceClaim n o).phase = s.phase ∧ (s.replaceClaim n o).straps = s.straps ∧ (s.replaceClaim n o).loader = s.loader ∧
    (s.replaceClaim n o).params = s.params ∧ (s.replaceClaim n o).cadence = s.cadence ∧ (s.replaceClaim n o).table = s.table
    ∧ (s.replaceClaim n o).sense = s.sense ∧ (s.replaceClaim n o).bus = s.bus ∧ (s.replaceClaim n o).asm = s.asm ∧
    (s.replaceClaim n o).tonePhase = s.tonePhase ∧ (s.replaceClaim n o).pins = s.pins ∧ (s.replaceClaim n o).last = s.last ∧
    (s.replaceClaim n o).crystal = s.crystal ∧ (s.replaceClaim n o).order = s.order ∧ (s.replaceClaim n o).pending =
    s.pending := by
  unfold State.replaceClaim; (try dsimp only); (repeat' split) <;> simp

/-- What `revalidate` leaves alone. -/
@[simp] theorem State.revalidate_keeps :
    (s.revalidate).phase = s.phase ∧ (s.revalidate).straps = s.straps ∧ (s.revalidate).loader = s.loader ∧
    (s.revalidate).params = s.params ∧ (s.revalidate).cadence = s.cadence ∧ (s.revalidate).table = s.table ∧
    (s.revalidate).sense = s.sense ∧ (s.revalidate).bus = s.bus ∧ (s.revalidate).asm = s.asm ∧ (s.revalidate).tonePhase =
    s.tonePhase ∧ (s.revalidate).pins = s.pins ∧ (s.revalidate).last = s.last ∧ (s.revalidate).crystal = s.crystal ∧
    (s.revalidate).order = s.order ∧ (s.revalidate).pending = s.pending := by
  unfold State.revalidate; (try dsimp only); (repeat' split) <;> simp

/-- What `shedLine` leaves alone. -/
@[simp] theorem State.shedLine_keeps (n : Line) :
    (s.shedLine n).phase = s.phase ∧ (s.shedLine n).straps = s.straps ∧ (s.shedLine n).loader = s.loader ∧ (s.shedLine
    n).params = s.params ∧ (s.shedLine n).cadence = s.cadence ∧ (s.shedLine n).table = s.table ∧ (s.shedLine n).sense =
    s.sense ∧ (s.shedLine n).bus = s.bus ∧ (s.shedLine n).tonePhase = s.tonePhase ∧ (s.shedLine n).pins = s.pins ∧
    (s.shedLine n).last = s.last ∧ (s.shedLine n).crystal = s.crystal ∧ (s.shedLine n).order = s.order ∧ (s.shedLine
    n).pending = s.pending := by
  unfold State.shedLine; (try dsimp only); (repeat' split) <;> simp

/-- What `recomputeOwn` leaves alone. -/
@[simp] theorem State.recomputeOwn_keeps :
    (s.recomputeOwn).phase = s.phase ∧ (s.recomputeOwn).straps = s.straps ∧ (s.recomputeOwn).loader = s.loader ∧
    (s.recomputeOwn).params = s.params ∧ (s.recomputeOwn).cadence = s.cadence ∧ (s.recomputeOwn).sched = s.sched ∧
    (s.recomputeOwn).sense = s.sense ∧ (s.recomputeOwn).bus = s.bus ∧ (s.recomputeOwn).asm = s.asm ∧ (s.recomputeOwn).lines
    = s.lines ∧ (s.recomputeOwn).tonePhase = s.tonePhase ∧ (s.recomputeOwn).pins = s.pins ∧ (s.recomputeOwn).last = s.last ∧
    (s.recomputeOwn).crystal = s.crystal ∧ (s.recomputeOwn).order = s.order ∧ (s.recomputeOwn).pending = s.pending := by
  unfold State.recomputeOwn; (try dsimp only); (repeat' split) <;> simp

/-- What `overloadCheck` leaves alone. -/
@[simp] theorem State.overloadCheck_keeps :
    (s.overloadCheck).phase = s.phase ∧ (s.overloadCheck).straps = s.straps ∧ (s.overloadCheck).loader = s.loader ∧
    (s.overloadCheck).params = s.params ∧ (s.overloadCheck).cadence = s.cadence ∧ (s.overloadCheck).sense = s.sense ∧
    (s.overloadCheck).bus = s.bus ∧ (s.overloadCheck).tonePhase = s.tonePhase ∧ (s.overloadCheck).pins = s.pins ∧
    (s.overloadCheck).last = s.last ∧ (s.overloadCheck).crystal = s.crystal ∧ (s.overloadCheck).order = s.order ∧
    (s.overloadCheck).pending = s.pending := by
  have shed : ∀ (ls : List Line) (t : State), (ls.foldl State.shedLine t).phase = t.phase ∧ (ls.foldl State.shedLine t).straps = t.straps ∧ (ls.foldl State.shedLine t).loader = t.loader ∧ (ls.foldl State.shedLine t).params = t.params ∧ (ls.foldl State.shedLine t).cadence = t.cadence ∧ (ls.foldl State.shedLine t).sense = t.sense ∧ (ls.foldl State.shedLine t).bus = t.bus ∧ (ls.foldl State.shedLine t).tonePhase = t.tonePhase ∧ (ls.foldl State.shedLine t).pins = t.pins ∧ (ls.foldl State.shedLine t).last = t.last ∧ (ls.foldl State.shedLine t).crystal = t.crystal ∧ (ls.foldl State.shedLine t).order = t.order ∧ (ls.foldl State.shedLine t).pending = t.pending := by
    intro ls; induction ls with
    | nil => intro t; simp
    | cons n ls ih => intro t; simpa using ih (t.shedLine n)
  unfold State.overloadCheck; (repeat' split) <;> simp [shed]

/-- What `viewChange` leaves alone. -/
@[simp] theorem State.viewChange_keeps (b : Bool) :
    (s.viewChange b).phase = s.phase ∧ (s.viewChange b).straps = s.straps ∧ (s.viewChange b).loader = s.loader ∧
    (s.viewChange b).params = s.params ∧ (s.viewChange b).cadence = s.cadence ∧ (s.viewChange b).sense = s.sense ∧
    (s.viewChange b).bus = s.bus ∧ (s.viewChange b).tonePhase = s.tonePhase ∧ (s.viewChange b).pins = s.pins ∧ (s.viewChange
    b).last = s.last ∧ (s.viewChange b).crystal = s.crystal ∧ (s.viewChange b).order = s.order ∧ (s.viewChange b).pending =
    s.pending := by
  unfold State.viewChange; (try dsimp only); (repeat' split) <;> simp

/-- What `ownLinesChanged` leaves alone. -/
@[simp] theorem State.ownLinesChanged_keeps :
    (s.ownLinesChanged).phase = s.phase ∧ (s.ownLinesChanged).straps = s.straps ∧ (s.ownLinesChanged).loader = s.loader ∧
    (s.ownLinesChanged).params = s.params ∧ (s.ownLinesChanged).cadence = s.cadence ∧ (s.ownLinesChanged).sense = s.sense ∧
    (s.ownLinesChanged).bus = s.bus ∧ (s.ownLinesChanged).tonePhase = s.tonePhase ∧ (s.ownLinesChanged).pins = s.pins ∧
    (s.ownLinesChanged).last = s.last ∧ (s.ownLinesChanged).crystal = s.crystal ∧ (s.ownLinesChanged).order = s.order ∧
    (s.ownLinesChanged).pending = s.pending := by
  unfold State.ownLinesChanged; (try dsimp only); (repeat' split) <;> simp

/-- What `releaseLine` leaves alone. -/
@[simp] theorem State.releaseLine_keeps (n : Line) :
    (s.releaseLine n).phase = s.phase ∧ (s.releaseLine n).straps = s.straps ∧ (s.releaseLine n).loader = s.loader ∧
    (s.releaseLine n).params = s.params ∧ (s.releaseLine n).cadence = s.cadence ∧ (s.releaseLine n).sense = s.sense ∧
    (s.releaseLine n).bus = s.bus ∧ (s.releaseLine n).tonePhase = s.tonePhase ∧ (s.releaseLine n).pins = s.pins ∧
    (s.releaseLine n).last = s.last ∧ (s.releaseLine n).crystal = s.crystal ∧ (s.releaseLine n).order = s.order ∧
    (s.releaseLine n).pending = s.pending := by
  unfold State.releaseLine; (try dsimp only); (repeat' split) <;> simp

/-- What `endClaim` leaves alone. -/
@[simp] theorem State.endClaim_keeps (n : Line) :
    (s.endClaim n).phase = s.phase ∧ (s.endClaim n).straps = s.straps ∧ (s.endClaim n).loader = s.loader ∧ (s.endClaim
    n).params = s.params ∧ (s.endClaim n).cadence = s.cadence ∧ (s.endClaim n).table = s.table ∧ (s.endClaim n).sense =
    s.sense ∧ (s.endClaim n).bus = s.bus ∧ (s.endClaim n).asm = s.asm ∧ (s.endClaim n).tonePhase = s.tonePhase ∧ (s.endClaim
    n).pins = s.pins ∧ (s.endClaim n).last = s.last ∧ (s.endClaim n).crystal = s.crystal ∧ (s.endClaim n).order = s.order ∧
    (s.endClaim n).pending = s.pending := by
  unfold State.endClaim; (try dsimp only); (repeat' split) <;> simp

/-- What `endRingWork` leaves alone. -/
@[simp] theorem State.endRingWork_keeps (n : Line) :
    (s.endRingWork n).phase = s.phase ∧ (s.endRingWork n).straps = s.straps ∧ (s.endRingWork n).loader = s.loader ∧
    (s.endRingWork n).params = s.params ∧ (s.endRingWork n).cadence = s.cadence ∧ (s.endRingWork n).sense = s.sense ∧
    (s.endRingWork n).bus = s.bus ∧ (s.endRingWork n).tonePhase = s.tonePhase ∧ (s.endRingWork n).pins = s.pins ∧
    (s.endRingWork n).last = s.last ∧ (s.endRingWork n).crystal = s.crystal ∧ (s.endRingWork n).order = s.order ∧
    (s.endRingWork n).pending = s.pending := by
  unfold State.endRingWork; (try dsimp only); (repeat' split) <;> simp

/-- What `takeTrip` leaves alone. -/
@[simp] theorem State.takeTrip_keeps (n : Line) :
    (s.takeTrip n).phase = s.phase ∧ (s.takeTrip n).straps = s.straps ∧ (s.takeTrip n).loader = s.loader ∧ (s.takeTrip
    n).params = s.params ∧ (s.takeTrip n).cadence = s.cadence ∧ (s.takeTrip n).sense = s.sense ∧ (s.takeTrip n).bus = s.bus
    ∧ (s.takeTrip n).tonePhase = s.tonePhase ∧ (s.takeTrip n).pins = s.pins ∧ (s.takeTrip n).last = s.last ∧ (s.takeTrip
    n).crystal = s.crystal ∧ (s.takeTrip n).order = s.order ∧ (s.takeTrip n).pending = s.pending := by
  unfold State.takeTrip; (try dsimp only); (repeat' split) <;> simp

/-- What `expire` leaves alone. -/
@[simp] theorem State.expire_keeps (n : Line) :
    (s.expire n).phase = s.phase ∧ (s.expire n).straps = s.straps ∧ (s.expire n).loader = s.loader ∧ (s.expire n).params =
    s.params ∧ (s.expire n).cadence = s.cadence ∧ (s.expire n).sense = s.sense ∧ (s.expire n).bus = s.bus ∧ (s.expire
    n).tonePhase = s.tonePhase ∧ (s.expire n).pins = s.pins ∧ (s.expire n).last = s.last ∧ (s.expire n).crystal = s.crystal
    ∧ (s.expire n).order = s.order ∧ (s.expire n).pending = s.pending := by
  unfold State.expire; (try dsimp only); (repeat' split) <;> simp

/-- What `defer` leaves alone. -/
@[simp] theorem State.defer_keeps (n : Line) :
    (s.defer n).phase = s.phase ∧ (s.defer n).straps = s.straps ∧ (s.defer n).loader = s.loader ∧ (s.defer n).params =
    s.params ∧ (s.defer n).cadence = s.cadence ∧ (s.defer n).table = s.table ∧ (s.defer n).sched = s.sched ∧ (s.defer
    n).sense = s.sense ∧ (s.defer n).bus = s.bus ∧ (s.defer n).tonePhase = s.tonePhase ∧ (s.defer n).pins = s.pins ∧
    (s.defer n).last = s.last ∧ (s.defer n).crystal = s.crystal ∧ (s.defer n).order = s.order ∧ (s.defer n).pending =
    s.pending := by
  unfold State.defer; (try dsimp only); (repeat' split) <;> simp

/-- What `examineOrder` leaves alone. -/
@[simp] theorem State.examineOrder_keeps (n : Line) :
    (s.examineOrder n).phase = s.phase ∧ (s.examineOrder n).straps = s.straps ∧ (s.examineOrder n).loader = s.loader ∧
    (s.examineOrder n).params = s.params ∧ (s.examineOrder n).cadence = s.cadence ∧ (s.examineOrder n).sense = s.sense ∧
    (s.examineOrder n).bus = s.bus ∧ (s.examineOrder n).tonePhase = s.tonePhase ∧ (s.examineOrder n).pins = s.pins ∧
    (s.examineOrder n).last = s.last ∧ (s.examineOrder n).crystal = s.crystal ∧ (s.examineOrder n).order = s.order ∧
    (s.examineOrder n).pending = s.pending := by
  unfold State.examineOrder; (try dsimp only); (repeat' split) <;> simp

/-- What `countCycle` leaves alone. -/
@[simp] theorem State.countCycle_keeps :
    (s.countCycle).phase = s.phase ∧ (s.countCycle).straps = s.straps ∧ (s.countCycle).loader = s.loader ∧
    (s.countCycle).params = s.params ∧ (s.countCycle).cadence = s.cadence ∧ (s.countCycle).sense = s.sense ∧
    (s.countCycle).bus = s.bus ∧ (s.countCycle).tonePhase = s.tonePhase ∧ (s.countCycle).pins = s.pins ∧ (s.countCycle).last
    = s.last ∧ (s.countCycle).crystal = s.crystal ∧ (s.countCycle).order = s.order ∧ (s.countCycle).pending = s.pending := by
  unfold State.countCycle; simp [allLines, List.finRange, List.foldl]

/-- What `acceptRing` leaves alone. -/
@[simp] theorem State.acceptRing_keeps (n : Line) (k : Fin 8) (m : Nat) :
    (s.acceptRing n k m).phase = s.phase ∧ (s.acceptRing n k m).straps = s.straps ∧ (s.acceptRing n k m).loader = s.loader ∧
    (s.acceptRing n k m).params = s.params ∧ (s.acceptRing n k m).cadence = s.cadence ∧ (s.acceptRing n k m).table = s.table
    ∧ (s.acceptRing n k m).sense = s.sense ∧ (s.acceptRing n k m).bus = s.bus ∧ (s.acceptRing n k m).asm = s.asm ∧
    (s.acceptRing n k m).tonePhase = s.tonePhase ∧ (s.acceptRing n k m).pins = s.pins ∧ (s.acceptRing n k m).last = s.last ∧
    (s.acceptRing n k m).crystal = s.crystal ∧ (s.acceptRing n k m).order = s.order ∧ (s.acceptRing n k m).pending =
    s.pending := by
  unfold State.acceptRing; (try dsimp only); (repeat' split) <;> simp

/-- What `commit` leaves alone. -/
@[simp] theorem State.commit_keeps (n : Line) :
    (s.commit n).phase = s.phase ∧ (s.commit n).straps = s.straps ∧ (s.commit n).loader = s.loader ∧ (s.commit n).params =
    s.params ∧ (s.commit n).cadence = s.cadence ∧ (s.commit n).sense = s.sense ∧ (s.commit n).bus = s.bus ∧ (s.commit
    n).tonePhase = s.tonePhase ∧ (s.commit n).pins = s.pins ∧ (s.commit n).last = s.last ∧ (s.commit n).crystal = s.crystal
    ∧ (s.commit n).order = s.order ∧ (s.commit n).pending = s.pending := by
  unfold State.commit; (try dsimp only); (repeat' split) <;> simp

/-- What `claimCompleted` leaves alone. -/
@[simp] theorem State.claimCompleted_keeps :
    (s.claimCompleted).phase = s.phase ∧ (s.claimCompleted).straps = s.straps ∧ (s.claimCompleted).loader = s.loader ∧
    (s.claimCompleted).params = s.params ∧ (s.claimCompleted).cadence = s.cadence ∧ (s.claimCompleted).sense = s.sense ∧
    (s.claimCompleted).bus = s.bus ∧ (s.claimCompleted).tonePhase = s.tonePhase ∧ (s.claimCompleted).pins = s.pins ∧
    (s.claimCompleted).last = s.last ∧ (s.claimCompleted).crystal = s.crystal ∧ (s.claimCompleted).order = s.order ∧
    (s.claimCompleted).pending = s.pending := by
  unfold State.claimCompleted; (try dsimp only); (repeat' split) <;> simp

/-- What `claimNotCarried` leaves alone. -/
@[simp] theorem State.claimNotCarried_keeps :
    (s.claimNotCarried).phase = s.phase ∧ (s.claimNotCarried).straps = s.straps ∧ (s.claimNotCarried).loader = s.loader ∧
    (s.claimNotCarried).params = s.params ∧ (s.claimNotCarried).cadence = s.cadence ∧ (s.claimNotCarried).table = s.table ∧
    (s.claimNotCarried).sense = s.sense ∧ (s.claimNotCarried).bus = s.bus ∧ (s.claimNotCarried).asm = s.asm ∧
    (s.claimNotCarried).tonePhase = s.tonePhase ∧ (s.claimNotCarried).pins = s.pins ∧ (s.claimNotCarried).last = s.last ∧
    (s.claimNotCarried).crystal = s.crystal ∧ (s.claimNotCarried).order = s.order ∧ (s.claimNotCarried).pending = s.pending := by
  unfold State.claimNotCarried; (try dsimp only); (repeat' split) <;> simp

/-- What `join` leaves alone. -/
@[simp] theorem State.join_keeps :
    (s.join).phase = s.phase ∧ (s.join).straps = s.straps ∧ (s.join).loader = s.loader ∧ (s.join).params = s.params ∧
    (s.join).cadence = s.cadence ∧ (s.join).sense = s.sense ∧ (s.join).tonePhase = s.tonePhase ∧ (s.join).pins = s.pins ∧
    (s.join).last = s.last ∧ (s.join).crystal = s.crystal ∧ (s.join).order = s.order ∧ (s.join).pending = s.pending := by
  unfold State.join; (try dsimp only); (repeat' split) <;> simp

/-- What `rejoin` leaves alone. -/
@[simp] theorem State.rejoin_keeps :
    (s.rejoin).phase = s.phase ∧ (s.rejoin).straps = s.straps ∧ (s.rejoin).loader = s.loader ∧ (s.rejoin).params = s.params
    ∧ (s.rejoin).cadence = s.cadence ∧ (s.rejoin).sense = s.sense ∧ (s.rejoin).tonePhase = s.tonePhase ∧ (s.rejoin).pins =
    s.pins ∧ (s.rejoin).last = s.last ∧ (s.rejoin).crystal = s.crystal ∧ (s.rejoin).order = s.order ∧ (s.rejoin).pending =
    s.pending := by
  unfold State.rejoin; (try dsimp only); (repeat' split) <;> simp

/-- What `dropClaim` leaves alone. -/
@[simp] theorem State.dropClaim_keeps :
    (s.dropClaim).phase = s.phase ∧ (s.dropClaim).straps = s.straps ∧ (s.dropClaim).loader = s.loader ∧ (s.dropClaim).params
    = s.params ∧ (s.dropClaim).cadence = s.cadence ∧ (s.dropClaim).table = s.table ∧ (s.dropClaim).sense = s.sense ∧
    (s.dropClaim).bus = s.bus ∧ (s.dropClaim).asm = s.asm ∧ (s.dropClaim).tonePhase = s.tonePhase ∧ (s.dropClaim).pins =
    s.pins ∧ (s.dropClaim).last = s.last ∧ (s.dropClaim).crystal = s.crystal ∧ (s.dropClaim).order = s.order ∧
    (s.dropClaim).pending = s.pending := by
  unfold State.dropClaim; (try dsimp only); (repeat' split) <;> simp

/-- What `island` leaves alone. -/
@[simp] theorem State.island_keeps :
    (s.island).phase = s.phase ∧ (s.island).straps = s.straps ∧ (s.island).loader = s.loader ∧ (s.island).params = s.params
    ∧ (s.island).cadence = s.cadence ∧ (s.island).table = s.table ∧ (s.island).sense = s.sense ∧ (s.island).asm = s.asm ∧
    (s.island).tonePhase = s.tonePhase ∧ (s.island).pins = s.pins ∧ (s.island).last = s.last ∧ (s.island).crystal =
    s.crystal ∧ (s.island).order = s.order ∧ (s.island).pending = s.pending := by
  unfold State.island; (try dsimp only); (repeat' split) <;> simp

/-- What `toneAtSeizure` leaves alone. -/
@[simp] theorem State.toneAtSeizure_keeps (n : Line) :
    (s.toneAtSeizure n).phase = s.phase ∧ (s.toneAtSeizure n).straps = s.straps ∧ (s.toneAtSeizure n).loader = s.loader ∧
    (s.toneAtSeizure n).params = s.params ∧ (s.toneAtSeizure n).cadence = s.cadence ∧ (s.toneAtSeizure n).table = s.table ∧
    (s.toneAtSeizure n).sched = s.sched ∧ (s.toneAtSeizure n).sense = s.sense ∧ (s.toneAtSeizure n).bus = s.bus ∧
    (s.toneAtSeizure n).asm = s.asm ∧ (s.toneAtSeizure n).tonePhase = s.tonePhase ∧ (s.toneAtSeizure n).pins = s.pins ∧
    (s.toneAtSeizure n).last = s.last ∧ (s.toneAtSeizure n).crystal = s.crystal ∧ (s.toneAtSeizure n).order = s.order ∧
    (s.toneAtSeizure n).pending = s.pending := by
  unfold State.toneAtSeizure; (try dsimp only); (repeat' split) <;> simp

/-- What `completeTrain` leaves alone. -/
@[simp] theorem State.completeTrain_keeps (n : Line) :
    (s.completeTrain n).phase = s.phase ∧ (s.completeTrain n).straps = s.straps ∧ (s.completeTrain n).loader = s.loader ∧
    (s.completeTrain n).params = s.params ∧ (s.completeTrain n).cadence = s.cadence ∧ (s.completeTrain n).table = s.table ∧
    (s.completeTrain n).sched = s.sched ∧ (s.completeTrain n).sense = s.sense ∧ (s.completeTrain n).bus = s.bus ∧
    (s.completeTrain n).tonePhase = s.tonePhase ∧ (s.completeTrain n).pins = s.pins ∧ (s.completeTrain n).last = s.last ∧
    (s.completeTrain n).crystal = s.crystal ∧ (s.completeTrain n).order = s.order ∧ (s.completeTrain n).pending = s.pending := by
  unfold State.completeTrain; (try dsimp only); (repeat' split) <;> simp

/-- What `beginSeizing` leaves alone. -/
@[simp] theorem State.beginSeizing_keeps (n : Line) :
    (s.beginSeizing n).phase = s.phase ∧ (s.beginSeizing n).straps = s.straps ∧ (s.beginSeizing n).loader = s.loader ∧
    (s.beginSeizing n).params = s.params ∧ (s.beginSeizing n).cadence = s.cadence ∧ (s.beginSeizing n).table = s.table ∧
    (s.beginSeizing n).sched = s.sched ∧ (s.beginSeizing n).sense = s.sense ∧ (s.beginSeizing n).bus = s.bus ∧
    (s.beginSeizing n).asm = s.asm ∧ (s.beginSeizing n).tonePhase = s.tonePhase ∧ (s.beginSeizing n).pins = s.pins ∧
    (s.beginSeizing n).last = s.last ∧ (s.beginSeizing n).crystal = s.crystal ∧ (s.beginSeizing n).order = s.order ∧
    (s.beginSeizing n).pending = s.pending := by
  unfold State.beginSeizing; (try dsimp only); (repeat' split) <;> simp

/-- What `failSeizure` leaves alone. -/
@[simp] theorem State.failSeizure_keeps (n : Line) :
    (s.failSeizure n).phase = s.phase ∧ (s.failSeizure n).straps = s.straps ∧ (s.failSeizure n).loader = s.loader ∧
    (s.failSeizure n).params = s.params ∧ (s.failSeizure n).cadence = s.cadence ∧ (s.failSeizure n).table = s.table ∧
    (s.failSeizure n).sched = s.sched ∧ (s.failSeizure n).sense = s.sense ∧ (s.failSeizure n).bus = s.bus ∧ (s.failSeizure
    n).asm = s.asm ∧ (s.failSeizure n).tonePhase = s.tonePhase ∧ (s.failSeizure n).pins = s.pins ∧ (s.failSeizure n).last =
    s.last ∧ (s.failSeizure n).crystal = s.crystal ∧ (s.failSeizure n).order = s.order ∧ (s.failSeizure n).pending =
    s.pending := by
  unfold State.failSeizure; (try dsimp only); (repeat' split) <;> simp

/-- What `confirmSeizure` leaves alone. -/
@[simp] theorem State.confirmSeizure_keeps (n : Line) :
    (s.confirmSeizure n).phase = s.phase ∧ (s.confirmSeizure n).straps = s.straps ∧ (s.confirmSeizure n).loader = s.loader ∧
    (s.confirmSeizure n).params = s.params ∧ (s.confirmSeizure n).cadence = s.cadence ∧ (s.confirmSeizure n).sense = s.sense
    ∧ (s.confirmSeizure n).bus = s.bus ∧ (s.confirmSeizure n).tonePhase = s.tonePhase ∧ (s.confirmSeizure n).pins = s.pins ∧
    (s.confirmSeizure n).last = s.last ∧ (s.confirmSeizure n).crystal = s.crystal ∧ (s.confirmSeizure n).order = s.order ∧
    (s.confirmSeizure n).pending = s.pending := by
  unfold State.confirmSeizure; (try dsimp only); (repeat' split) <;> simp

/-- What `trySeize` leaves alone. -/
@[simp] theorem State.trySeize_keeps (n : Line) :
    (s.trySeize n).phase = s.phase ∧ (s.trySeize n).straps = s.straps ∧ (s.trySeize n).loader = s.loader ∧ (s.trySeize
    n).params = s.params ∧ (s.trySeize n).cadence = s.cadence ∧ (s.trySeize n).sense = s.sense ∧ (s.trySeize n).bus = s.bus
    ∧ (s.trySeize n).tonePhase = s.tonePhase ∧ (s.trySeize n).pins = s.pins ∧ (s.trySeize n).last = s.last ∧ (s.trySeize
    n).crystal = s.crystal ∧ (s.trySeize n).order = s.order ∧ (s.trySeize n).pending = s.pending := by
  unfold State.trySeize; (try dsimp only); (repeat' split) <;> simp

/-- What `tellGlitchLimit` leaves alone. -/
@[simp] theorem State.tellGlitchLimit_keeps (n : Line) :
    (s.tellGlitchLimit n).phase = s.phase ∧ (s.tellGlitchLimit n).straps = s.straps ∧ (s.tellGlitchLimit n).loader =
    s.loader ∧ (s.tellGlitchLimit n).params = s.params ∧ (s.tellGlitchLimit n).cadence = s.cadence ∧ (s.tellGlitchLimit
    n).table = s.table ∧ (s.tellGlitchLimit n).sched = s.sched ∧ (s.tellGlitchLimit n).sense = s.sense ∧ (s.tellGlitchLimit
    n).bus = s.bus ∧ (s.tellGlitchLimit n).asm = s.asm ∧ (s.tellGlitchLimit n).tonePhase = s.tonePhase ∧ (s.tellGlitchLimit
    n).pins = s.pins ∧ (s.tellGlitchLimit n).last = s.last ∧ (s.tellGlitchLimit n).crystal = s.crystal ∧ (s.tellGlitchLimit
    n).order = s.order ∧ (s.tellGlitchLimit n).pending = s.pending := by
  unfold State.tellGlitchLimit; (try dsimp only); (repeat' split) <;> simp

/-- What `testGlitchLimit` leaves alone. -/
@[simp] theorem State.testGlitchLimit_keeps (n : Line) :
    (s.testGlitchLimit n).phase = s.phase ∧ (s.testGlitchLimit n).straps = s.straps ∧ (s.testGlitchLimit n).loader =
    s.loader ∧ (s.testGlitchLimit n).params = s.params ∧ (s.testGlitchLimit n).cadence = s.cadence ∧ (s.testGlitchLimit
    n).table = s.table ∧ (s.testGlitchLimit n).sched = s.sched ∧ (s.testGlitchLimit n).sense = s.sense ∧ (s.testGlitchLimit
    n).bus = s.bus ∧ (s.testGlitchLimit n).asm = s.asm ∧ (s.testGlitchLimit n).tonePhase = s.tonePhase ∧ (s.testGlitchLimit
    n).pins = s.pins ∧ (s.testGlitchLimit n).last = s.last ∧ (s.testGlitchLimit n).crystal = s.crystal ∧ (s.testGlitchLimit
    n).order = s.order ∧ (s.testGlitchLimit n).pending = s.pending := by
  unfold State.testGlitchLimit; (try dsimp only); (repeat' split) <;> simp

/-- What `beginBreak` leaves alone. -/
@[simp] theorem State.beginBreak_keeps (n : Line) :
    (s.beginBreak n).phase = s.phase ∧ (s.beginBreak n).straps = s.straps ∧ (s.beginBreak n).loader = s.loader ∧
    (s.beginBreak n).params = s.params ∧ (s.beginBreak n).cadence = s.cadence ∧ (s.beginBreak n).table = s.table ∧
    (s.beginBreak n).sched = s.sched ∧ (s.beginBreak n).sense = s.sense ∧ (s.beginBreak n).bus = s.bus ∧ (s.beginBreak
    n).asm = s.asm ∧ (s.beginBreak n).tonePhase = s.tonePhase ∧ (s.beginBreak n).pins = s.pins ∧ (s.beginBreak n).last =
    s.last ∧ (s.beginBreak n).crystal = s.crystal ∧ (s.beginBreak n).order = s.order ∧ (s.beginBreak n).pending = s.pending := by
  unfold State.beginBreak; (try dsimp only); (repeat' split) <;> simp

/-- What `takeFlash` leaves alone. -/
@[simp] theorem State.takeFlash_keeps (n : Line) :
    (s.takeFlash n).phase = s.phase ∧ (s.takeFlash n).straps = s.straps ∧ (s.takeFlash n).loader = s.loader ∧ (s.takeFlash
    n).params = s.params ∧ (s.takeFlash n).cadence = s.cadence ∧ (s.takeFlash n).table = s.table ∧ (s.takeFlash n).sched =
    s.sched ∧ (s.takeFlash n).sense = s.sense ∧ (s.takeFlash n).bus = s.bus ∧ (s.takeFlash n).tonePhase = s.tonePhase ∧
    (s.takeFlash n).pins = s.pins ∧ (s.takeFlash n).last = s.last ∧ (s.takeFlash n).crystal = s.crystal ∧ (s.takeFlash
    n).order = s.order ∧ (s.takeFlash n).pending = s.pending := by
  unfold State.takeFlash; (try dsimp only); (repeat' split) <;> simp

/-- What `endBreak` leaves alone. -/
@[simp] theorem State.endBreak_keeps (n : Line) (d : Nat) :
    (s.endBreak n d).phase = s.phase ∧ (s.endBreak n d).straps = s.straps ∧ (s.endBreak n d).loader = s.loader ∧ (s.endBreak
    n d).params = s.params ∧ (s.endBreak n d).cadence = s.cadence ∧ (s.endBreak n d).table = s.table ∧ (s.endBreak n
    d).sched = s.sched ∧ (s.endBreak n d).sense = s.sense ∧ (s.endBreak n d).bus = s.bus ∧ (s.endBreak n d).tonePhase =
    s.tonePhase ∧ (s.endBreak n d).pins = s.pins ∧ (s.endBreak n d).last = s.last ∧ (s.endBreak n d).crystal = s.crystal ∧
    (s.endBreak n d).order = s.order ∧ (s.endBreak n d).pending = s.pending := by
  unfold State.endBreak; (try dsimp only); (repeat' split) <;> simp

/-- What `declareClear` leaves alone. -/
@[simp] theorem State.declareClear_keeps (n : Line) :
    (s.declareClear n).phase = s.phase ∧ (s.declareClear n).straps = s.straps ∧ (s.declareClear n).loader = s.loader ∧
    (s.declareClear n).params = s.params ∧ (s.declareClear n).cadence = s.cadence ∧ (s.declareClear n).table = s.table ∧
    (s.declareClear n).sched = s.sched ∧ (s.declareClear n).sense = s.sense ∧ (s.declareClear n).bus = s.bus ∧
    (s.declareClear n).tonePhase = s.tonePhase ∧ (s.declareClear n).pins = s.pins ∧ (s.declareClear n).last = s.last ∧
    (s.declareClear n).crystal = s.crystal ∧ (s.declareClear n).order = s.order ∧ (s.declareClear n).pending = s.pending := by
  unfold State.declareClear; (try dsimp only); (repeat' split) <;> simp

/-- What `offHookWindow` leaves alone. -/
@[simp] theorem State.offHookWindow_keeps (n : Line) (b : Bool) :
    (s.offHookWindow n b).phase = s.phase ∧ (s.offHookWindow n b).straps = s.straps ∧ (s.offHookWindow n b).loader =
    s.loader ∧ (s.offHookWindow n b).params = s.params ∧ (s.offHookWindow n b).cadence = s.cadence ∧ (s.offHookWindow n
    b).table = s.table ∧ (s.offHookWindow n b).sched = s.sched ∧ (s.offHookWindow n b).sense = s.sense ∧ (s.offHookWindow n
    b).bus = s.bus ∧ (s.offHookWindow n b).tonePhase = s.tonePhase ∧ (s.offHookWindow n b).pins = s.pins ∧ (s.offHookWindow
    n b).last = s.last ∧ (s.offHookWindow n b).crystal = s.crystal ∧ (s.offHookWindow n b).order = s.order ∧
    (s.offHookWindow n b).pending = s.pending := by
  unfold State.offHookWindow; (try dsimp only); (repeat' split) <;> simp

/-- What `breakWindow` leaves alone. -/
@[simp] theorem State.breakWindow_keeps (n : Line) (d : Nat) :
    (s.breakWindow n d).phase = s.phase ∧ (s.breakWindow n d).straps = s.straps ∧ (s.breakWindow n d).loader = s.loader ∧
    (s.breakWindow n d).params = s.params ∧ (s.breakWindow n d).cadence = s.cadence ∧ (s.breakWindow n d).table = s.table ∧
    (s.breakWindow n d).sched = s.sched ∧ (s.breakWindow n d).sense = s.sense ∧ (s.breakWindow n d).bus = s.bus ∧
    (s.breakWindow n d).tonePhase = s.tonePhase ∧ (s.breakWindow n d).pins = s.pins ∧ (s.breakWindow n d).last = s.last ∧
    (s.breakWindow n d).crystal = s.crystal ∧ (s.breakWindow n d).order = s.order ∧ (s.breakWindow n d).pending = s.pending := by
  unfold State.breakWindow; (try dsimp only); (repeat' split) <;> simp

/-- What `superviseWindow` leaves alone. -/
@[simp] theorem State.superviseWindow_keeps (n : Line) (w : Nat) (x : Option Loop) :
    (s.superviseWindow n w x).phase = s.phase ∧ (s.superviseWindow n w x).straps = s.straps ∧ (s.superviseWindow n w
    x).loader = s.loader ∧ (s.superviseWindow n w x).params = s.params ∧ (s.superviseWindow n w x).cadence = s.cadence ∧
    (s.superviseWindow n w x).sense = s.sense ∧ (s.superviseWindow n w x).bus = s.bus ∧ (s.superviseWindow n w x).tonePhase
    = s.tonePhase ∧ (s.superviseWindow n w x).pins = s.pins ∧ (s.superviseWindow n w x).last = s.last ∧ (s.superviseWindow n
    w x).crystal = s.crystal ∧ (s.superviseWindow n w x).order = s.order ∧ (s.superviseWindow n w x).pending = s.pending := by
  unfold State.superviseWindow; (try dsimp only); (repeat' split) <;> simp

/-- What `configure` leaves alone. -/
@[simp] theorem State.configure_keeps (a : MemoryAnswer) :
    (s.configure a).phase = s.phase ∧ (s.configure a).straps = s.straps ∧ (s.configure a).cadence = s.cadence ∧ (s.configure
    a).table = s.table ∧ (s.configure a).sched = s.sched ∧ (s.configure a).sense = s.sense ∧ (s.configure a).bus = s.bus ∧
    (s.configure a).asm = s.asm ∧ (s.configure a).lines = s.lines ∧ (s.configure a).tonePhase = s.tonePhase ∧ (s.configure
    a).pins = s.pins ∧ (s.configure a).last = s.last ∧ (s.configure a).crystal = s.crystal ∧ (s.configure a).order = s.order
    ∧ (s.configure a).pending = s.pending := by
  unfold State.configure; (try dsimp only); (repeat' split) <;> simp

/-- What `ageView` leaves alone. -/
@[simp] theorem State.ageView_keeps :
    (s.ageView).phase = s.phase ∧ (s.ageView).straps = s.straps ∧ (s.ageView).loader = s.loader ∧ (s.ageView).params =
    s.params ∧ (s.ageView).cadence = s.cadence ∧ (s.ageView).sense = s.sense ∧ (s.ageView).bus = s.bus ∧
    (s.ageView).tonePhase = s.tonePhase ∧ (s.ageView).pins = s.pins ∧ (s.ageView).last = s.last ∧ (s.ageView).crystal =
    s.crystal ∧ (s.ageView).order = s.order ∧ (s.ageView).pending = s.pending := by
  unfold State.ageView; (try dsimp only); (repeat' split) <;> simp

/-- What `refreshFallsDue` leaves alone. -/
@[simp] theorem State.refreshFallsDue_keeps (k : Slot) :
    (s.refreshFallsDue k).phase = s.phase ∧ (s.refreshFallsDue k).straps = s.straps ∧ (s.refreshFallsDue k).loader =
    s.loader ∧ (s.refreshFallsDue k).params = s.params ∧ (s.refreshFallsDue k).cadence = s.cadence ∧ (s.refreshFallsDue
    k).table = s.table ∧ (s.refreshFallsDue k).sched = s.sched ∧ (s.refreshFallsDue k).sense = s.sense ∧ (s.refreshFallsDue
    k).bus = s.bus ∧ (s.refreshFallsDue k).lines = s.lines ∧ (s.refreshFallsDue k).tonePhase = s.tonePhase ∧
    (s.refreshFallsDue k).pins = s.pins ∧ (s.refreshFallsDue k).last = s.last ∧ (s.refreshFallsDue k).crystal = s.crystal ∧
    (s.refreshFallsDue k).order = s.order ∧ (s.refreshFallsDue k).pending = s.pending := by
  unfold State.refreshFallsDue; (try dsimp only); (repeat' split) <;> simp

/-- What `countPeriod` leaves alone. -/
@[simp] theorem State.countPeriod_keeps :
    (s.countPeriod).phase = s.phase ∧ (s.countPeriod).straps = s.straps ∧ (s.countPeriod).loader = s.loader ∧
    (s.countPeriod).params = s.params ∧ (s.countPeriod).cadence = s.cadence ∧ (s.countPeriod).sense = s.sense ∧
    (s.countPeriod).tonePhase = s.tonePhase ∧ (s.countPeriod).pins = s.pins ∧ (s.countPeriod).last = s.last ∧
    (s.countPeriod).crystal = s.crystal ∧ (s.countPeriod).order = s.order ∧ (s.countPeriod).pending = s.pending := by
  unfold State.countPeriod; (try dsimp only); (repeat' split) <;> simp

/-- What `directRelays` leaves alone. -/
@[simp] theorem State.directRelays_keeps (j k : Slot) :
    (s.directRelays j k).phase = s.phase ∧ (s.directRelays j k).straps = s.straps ∧ (s.directRelays j k).loader = s.loader ∧
    (s.directRelays j k).params = s.params ∧ (s.directRelays j k).cadence = s.cadence ∧ (s.directRelays j k).table = s.table
    ∧ (s.directRelays j k).sched = s.sched ∧ (s.directRelays j k).sense = s.sense ∧ (s.directRelays j k).bus = s.bus ∧
    (s.directRelays j k).asm = s.asm ∧ (s.directRelays j k).tonePhase = s.tonePhase ∧ (s.directRelays j k).pins = s.pins ∧
    (s.directRelays j k).last = s.last ∧ (s.directRelays j k).crystal = s.crystal ∧ (s.directRelays j k).order = s.order ∧
    (s.directRelays j k).pending = s.pending := by
  unfold State.directRelays; (try dsimp only); (repeat' split) <;> simp

/-- What `slotTask` leaves alone. -/
@[simp] theorem State.slotTask_keeps (j k : Slot) (x : SlotTask) :
    (State.slotTask j k s x).phase = s.phase ∧ (State.slotTask j k s x).straps = s.straps ∧ (State.slotTask j k s x).loader
    = s.loader ∧ (State.slotTask j k s x).params = s.params ∧ (State.slotTask j k s x).cadence = s.cadence ∧ (State.slotTask
    j k s x).sense = s.sense ∧ (State.slotTask j k s x).tonePhase = s.tonePhase ∧ (State.slotTask j k s x).pins = s.pins ∧
    (State.slotTask j k s x).last = s.last ∧ (State.slotTask j k s x).crystal = s.crystal ∧ (State.slotTask j k s x).order =
    s.order ∧ (State.slotTask j k s x).pending = s.pending := by
  unfold State.slotTask; (try dsimp only); (repeat' split) <;> simp

/-- What `slotStart` leaves alone. -/
@[simp] theorem State.slotStart_keeps (j k : Slot) :
    (s.slotStart j k).phase = s.phase ∧ (s.slotStart j k).straps = s.straps ∧ (s.slotStart j k).loader = s.loader ∧
    (s.slotStart j k).params = s.params ∧ (s.slotStart j k).cadence = s.cadence ∧ (s.slotStart j k).sense = s.sense ∧
    (s.slotStart j k).tonePhase = s.tonePhase ∧ (s.slotStart j k).pins = s.pins ∧ (s.slotStart j k).last = s.last ∧
    (s.slotStart j k).crystal = s.crystal ∧ (s.slotStart j k).order = s.order ∧ (s.slotStart j k).pending = s.pending := by
  have tasks : ∀ (ls : List SlotTask) (t : State), (ls.foldl (State.slotTask j k) t).phase = t.phase ∧ (ls.foldl (State.slotTask j k) t).straps = t.straps ∧ (ls.foldl (State.slotTask j k) t).loader = t.loader ∧ (ls.foldl (State.slotTask j k) t).params = t.params ∧ (ls.foldl (State.slotTask j k) t).cadence = t.cadence ∧ (ls.foldl (State.slotTask j k) t).sense = t.sense ∧ (ls.foldl (State.slotTask j k) t).tonePhase = t.tonePhase ∧ (ls.foldl (State.slotTask j k) t).pins = t.pins ∧ (ls.foldl (State.slotTask j k) t).last = t.last ∧ (ls.foldl (State.slotTask j k) t).crystal = t.crystal ∧ (ls.foldl (State.slotTask j k) t).order = t.order ∧ (ls.foldl (State.slotTask j k) t).pending = t.pending := by
    intro ls; induction ls with
    | nil => intro t; simp
    | cons x ls ih => intro t; simpa using ih (State.slotTask j k t x)
  exact tasks _ s

/-- What `boundary` leaves alone. -/
@[simp] theorem State.boundary_keeps (k : Slot) :
    (s.boundary k).phase = s.phase ∧ (s.boundary k).straps = s.straps ∧ (s.boundary k).loader = s.loader ∧ (s.boundary
    k).params = s.params ∧ (s.boundary k).sense = s.sense ∧ (s.boundary k).tonePhase = s.tonePhase ∧ (s.boundary k).pins =
    s.pins ∧ (s.boundary k).last = s.last ∧ (s.boundary k).crystal = s.crystal ∧ (s.boundary k).order = s.order ∧
    (s.boundary k).pending = s.pending := by
  unfold State.boundary; (try dsimp only); (repeat' split) <;> simp

/-- What `closeWindow` leaves alone. -/
@[simp] theorem State.closeWindow_keeps :
    (s.closeWindow).phase = s.phase ∧ (s.closeWindow).straps = s.straps ∧ (s.closeWindow).loader = s.loader ∧
    (s.closeWindow).params = s.params ∧ (s.closeWindow).table = s.table ∧ (s.closeWindow).sched = s.sched ∧
    (s.closeWindow).sense = s.sense ∧ (s.closeWindow).bus = s.bus ∧ (s.closeWindow).asm = s.asm ∧ (s.closeWindow).lines =
    s.lines ∧ (s.closeWindow).tonePhase = s.tonePhase ∧ (s.closeWindow).pins = s.pins ∧ (s.closeWindow).last = s.last ∧
    (s.closeWindow).crystal = s.crystal ∧ (s.closeWindow).order = s.order ∧ (s.closeWindow).pending = s.pending := by
  unfold State.closeWindow; (try dsimp only); (repeat' split) <;> simp

/-- What `closeDue` leaves alone. -/
@[simp] theorem State.closeDue_keeps :
    (s.closeDue).phase = s.phase ∧ (s.closeDue).straps = s.straps ∧ (s.closeDue).loader = s.loader ∧ (s.closeDue).params =
    s.params ∧ (s.closeDue).table = s.table ∧ (s.closeDue).sched = s.sched ∧ (s.closeDue).sense = s.sense ∧
    (s.closeDue).bus = s.bus ∧ (s.closeDue).asm = s.asm ∧ (s.closeDue).lines = s.lines ∧ (s.closeDue).tonePhase =
    s.tonePhase ∧ (s.closeDue).pins = s.pins ∧ (s.closeDue).last = s.last ∧ (s.closeDue).crystal = s.crystal ∧
    (s.closeDue).order = s.order ∧ (s.closeDue).pending = s.pending := by
  unfold State.closeDue; (try dsimp only); (repeat' split) <;> simp

/-- What `turnLeak` leaves alone. -/
@[simp] theorem State.turnLeak_keeps (n : Line) (b : Bool) :
    (s.turnLeak n b).phase = s.phase ∧ (s.turnLeak n b).straps = s.straps ∧ (s.turnLeak n b).loader = s.loader ∧ (s.turnLeak
    n b).params = s.params ∧ (s.turnLeak n b).cadence = s.cadence ∧ (s.turnLeak n b).table = s.table ∧ (s.turnLeak n
    b).sched = s.sched ∧ (s.turnLeak n b).sense = s.sense ∧ (s.turnLeak n b).bus = s.bus ∧ (s.turnLeak n b).tonePhase =
    s.tonePhase ∧ (s.turnLeak n b).pins = s.pins ∧ (s.turnLeak n b).last = s.last ∧ (s.turnLeak n b).crystal = s.crystal ∧
    (s.turnLeak n b).order = s.order ∧ (s.turnLeak n b).pending = s.pending := by
  unfold State.turnLeak; (try dsimp only); (repeat' split) <;> simp

/-- What `handTrip` leaves alone. -/
@[simp] theorem State.handTrip_keeps (n : Line) :
    (s.handTrip n).phase = s.phase ∧ (s.handTrip n).straps = s.straps ∧ (s.handTrip n).loader = s.loader ∧ (s.handTrip
    n).params = s.params ∧ (s.handTrip n).cadence = s.cadence ∧ (s.handTrip n).sense = s.sense ∧ (s.handTrip n).bus = s.bus
    ∧ (s.handTrip n).tonePhase = s.tonePhase ∧ (s.handTrip n).pins = s.pins ∧ (s.handTrip n).last = s.last ∧ (s.handTrip
    n).crystal = s.crystal ∧ (s.handTrip n).order = s.order ∧ (s.handTrip n).pending = s.pending := by
  unfold State.handTrip; (try dsimp only); (repeat' split) <;> simp

/-- What `windowEndOf` leaves alone. -/
@[simp] theorem State.windowEndOf_keeps (w : Nat) (n : Line) :
    (State.windowEndOf w s n).phase = s.phase ∧ (State.windowEndOf w s n).straps = s.straps ∧ (State.windowEndOf w s
    n).loader = s.loader ∧ (State.windowEndOf w s n).params = s.params ∧ (State.windowEndOf w s n).cadence = s.cadence ∧
    (State.windowEndOf w s n).sense = s.sense ∧ (State.windowEndOf w s n).bus = s.bus ∧ (State.windowEndOf w s n).tonePhase
    = s.tonePhase ∧ (State.windowEndOf w s n).pins = s.pins ∧ (State.windowEndOf w s n).last = s.last ∧ (State.windowEndOf w
    s n).crystal = s.crystal ∧ (State.windowEndOf w s n).order = s.order ∧ (State.windowEndOf w s n).pending = s.pending := by
  unfold State.windowEndOf; (try dsimp only); (repeat' split) <;> simp

/-- What `decideDegraded` leaves alone. -/
@[simp] theorem State.decideDegraded_keeps :
    (s.decideDegraded).phase = s.phase ∧ (s.decideDegraded).straps = s.straps ∧ (s.decideDegraded).loader = s.loader ∧
    (s.decideDegraded).params = s.params ∧ (s.decideDegraded).cadence = s.cadence ∧ (s.decideDegraded).table = s.table ∧
    (s.decideDegraded).sched = s.sched ∧ (s.decideDegraded).sense = s.sense ∧ (s.decideDegraded).asm = s.asm ∧
    (s.decideDegraded).lines = s.lines ∧ (s.decideDegraded).tonePhase = s.tonePhase ∧ (s.decideDegraded).pins = s.pins ∧
    (s.decideDegraded).last = s.last ∧ (s.decideDegraded).crystal = s.crystal ∧ (s.decideDegraded).order = s.order ∧
    (s.decideDegraded).pending = s.pending := by
  unfold State.decideDegraded; (try dsimp only); (repeat' split) <;> simp

/-- What `prepareNotice` leaves alone. -/
@[simp] theorem State.prepareNotice_keeps :
    (s.prepareNotice).phase = s.phase ∧ (s.prepareNotice).straps = s.straps ∧ (s.prepareNotice).loader = s.loader ∧
    (s.prepareNotice).params = s.params ∧ (s.prepareNotice).cadence = s.cadence ∧ (s.prepareNotice).table = s.table ∧
    (s.prepareNotice).sense = s.sense ∧ (s.prepareNotice).asm = s.asm ∧ (s.prepareNotice).tonePhase = s.tonePhase ∧
    (s.prepareNotice).pins = s.pins ∧ (s.prepareNotice).last = s.last ∧ (s.prepareNotice).crystal = s.crystal ∧
    (s.prepareNotice).order = s.order ∧ (s.prepareNotice).pending = s.pending := by
  unfold State.prepareNotice; (try dsimp only); (repeat' split) <;> simp

/-- What `beginAttempt` leaves alone. -/
@[simp] theorem State.beginAttempt_keeps (w : Outgoing) :
    (s.beginAttempt w).phase = s.phase ∧ (s.beginAttempt w).straps = s.straps ∧ (s.beginAttempt w).loader = s.loader ∧
    (s.beginAttempt w).params = s.params ∧ (s.beginAttempt w).cadence = s.cadence ∧ (s.beginAttempt w).table = s.table ∧
    (s.beginAttempt w).sched = s.sched ∧ (s.beginAttempt w).sense = s.sense ∧ (s.beginAttempt w).asm = s.asm ∧
    (s.beginAttempt w).lines = s.lines ∧ (s.beginAttempt w).tonePhase = s.tonePhase ∧ (s.beginAttempt w).pins = s.pins ∧
    (s.beginAttempt w).last = s.last ∧ (s.beginAttempt w).crystal = s.crystal ∧ (s.beginAttempt w).order = s.order ∧
    (s.beginAttempt w).pending = s.pending := by
  unfold State.beginAttempt; (try dsimp only); (repeat' split) <;> simp

/-- What `attemptFailed` leaves alone. -/
@[simp] theorem State.attemptFailed_keeps (x : Sent) :
    (s.attemptFailed x).phase = s.phase ∧ (s.attemptFailed x).straps = s.straps ∧ (s.attemptFailed x).loader = s.loader ∧
    (s.attemptFailed x).params = s.params ∧ (s.attemptFailed x).cadence = s.cadence ∧ (s.attemptFailed x).table = s.table ∧
    (s.attemptFailed x).sense = s.sense ∧ (s.attemptFailed x).tonePhase = s.tonePhase ∧ (s.attemptFailed x).pins = s.pins ∧
    (s.attemptFailed x).last = s.last ∧ (s.attemptFailed x).crystal = s.crystal ∧ (s.attemptFailed x).order = s.order ∧
    (s.attemptFailed x).pending = s.pending := by
  unfold State.attemptFailed; (try dsimp only); (repeat' split) <;> simp

/-- What `loseAttempt` leaves alone. -/
@[simp] theorem State.loseAttempt_keeps :
    (s.loseAttempt).phase = s.phase ∧ (s.loseAttempt).straps = s.straps ∧ (s.loseAttempt).loader = s.loader ∧
    (s.loseAttempt).params = s.params ∧ (s.loseAttempt).cadence = s.cadence ∧ (s.loseAttempt).table = s.table ∧
    (s.loseAttempt).sense = s.sense ∧ (s.loseAttempt).tonePhase = s.tonePhase ∧ (s.loseAttempt).pins = s.pins ∧
    (s.loseAttempt).last = s.last ∧ (s.loseAttempt).crystal = s.crystal ∧ (s.loseAttempt).order = s.order ∧
    (s.loseAttempt).pending = s.pending := by
  unfold State.loseAttempt; (try dsimp only); (repeat' split) <;> simp

/-- What `countClash` leaves alone. -/
@[simp] theorem State.countClash_keeps :
    (s.countClash).phase = s.phase ∧ (s.countClash).straps = s.straps ∧ (s.countClash).loader = s.loader ∧
    (s.countClash).params = s.params ∧ (s.countClash).cadence = s.cadence ∧ (s.countClash).table = s.table ∧
    (s.countClash).sense = s.sense ∧ (s.countClash).asm = s.asm ∧ (s.countClash).tonePhase = s.tonePhase ∧
    (s.countClash).pins = s.pins ∧ (s.countClash).last = s.last ∧ (s.countClash).crystal = s.crystal ∧ (s.countClash).order
    = s.order ∧ (s.countClash).pending = s.pending := by
  unfold State.countClash; (try dsimp only); (repeat' split) <;> simp

/-- What `discard` leaves alone. -/
@[simp] theorem State.discard_keeps :
    (s.discard).phase = s.phase ∧ (s.discard).straps = s.straps ∧ (s.discard).loader = s.loader ∧ (s.discard).params =
    s.params ∧ (s.discard).cadence = s.cadence ∧ (s.discard).table = s.table ∧ (s.discard).sched = s.sched ∧
    (s.discard).sense = s.sense ∧ (s.discard).asm = s.asm ∧ (s.discard).lines = s.lines ∧ (s.discard).tonePhase =
    s.tonePhase ∧ (s.discard).pins = s.pins ∧ (s.discard).last = s.last ∧ (s.discard).crystal = s.crystal ∧
    (s.discard).order = s.order ∧ (s.discard).pending = s.pending := by
  unfold State.discard; (try dsimp only); (repeat' split) <;> simp

/-- What `clashAttempt` leaves alone. -/
@[simp] theorem State.clashAttempt_keeps :
    (s.clashAttempt).phase = s.phase ∧ (s.clashAttempt).straps = s.straps ∧ (s.clashAttempt).loader = s.loader ∧
    (s.clashAttempt).params = s.params ∧ (s.clashAttempt).cadence = s.cadence ∧ (s.clashAttempt).table = s.table ∧
    (s.clashAttempt).sense = s.sense ∧ (s.clashAttempt).tonePhase = s.tonePhase ∧ (s.clashAttempt).pins = s.pins ∧
    (s.clashAttempt).last = s.last ∧ (s.clashAttempt).crystal = s.crystal ∧ (s.clashAttempt).order = s.order ∧
    (s.clashAttempt).pending = s.pending := by
  unfold State.clashAttempt; (try dsimp only); (repeat' split) <;> simp

/-- What `noticeEnds` leaves alone. -/
@[simp] theorem State.noticeEnds_keeps :
    (s.noticeEnds).phase = s.phase ∧ (s.noticeEnds).straps = s.straps ∧ (s.noticeEnds).loader = s.loader ∧
    (s.noticeEnds).params = s.params ∧ (s.noticeEnds).cadence = s.cadence ∧ (s.noticeEnds).table = s.table ∧
    (s.noticeEnds).sched = s.sched ∧ (s.noticeEnds).sense = s.sense ∧ (s.noticeEnds).asm = s.asm ∧ (s.noticeEnds).lines =
    s.lines ∧ (s.noticeEnds).tonePhase = s.tonePhase ∧ (s.noticeEnds).pins = s.pins ∧ (s.noticeEnds).last = s.last ∧
    (s.noticeEnds).crystal = s.crystal ∧ (s.noticeEnds).order = s.order ∧ (s.noticeEnds).pending = s.pending := by
  unfold State.noticeEnds; (try dsimp only); (repeat' split) <;> simp

/-- What `refreshCompleted` leaves alone. -/
@[simp] theorem State.refreshCompleted_keeps :
    (s.refreshCompleted).phase = s.phase ∧ (s.refreshCompleted).straps = s.straps ∧ (s.refreshCompleted).loader = s.loader ∧
    (s.refreshCompleted).params = s.params ∧ (s.refreshCompleted).cadence = s.cadence ∧ (s.refreshCompleted).table = s.table
    ∧ (s.refreshCompleted).sched = s.sched ∧ (s.refreshCompleted).sense = s.sense ∧ (s.refreshCompleted).lines = s.lines ∧
    (s.refreshCompleted).tonePhase = s.tonePhase ∧ (s.refreshCompleted).pins = s.pins ∧ (s.refreshCompleted).last = s.last ∧
    (s.refreshCompleted).crystal = s.crystal ∧ (s.refreshCompleted).order = s.order ∧ (s.refreshCompleted).pending =
    s.pending := by
  unfold State.refreshCompleted; (try dsimp only); (repeat' split) <;> simp

/-- What `discharge` leaves alone. -/
@[simp] theorem State.discharge_keeps (x : Sent) :
    (s.discharge x).phase = s.phase ∧ (s.discharge x).straps = s.straps ∧ (s.discharge x).loader = s.loader ∧ (s.discharge
    x).params = s.params ∧ (s.discharge x).cadence = s.cadence ∧ (s.discharge x).sense = s.sense ∧ (s.discharge x).tonePhase
    = s.tonePhase ∧ (s.discharge x).pins = s.pins ∧ (s.discharge x).last = s.last ∧ (s.discharge x).crystal = s.crystal ∧
    (s.discharge x).order = s.order ∧ (s.discharge x).pending = s.pending := by
  unfold State.discharge; (try dsimp only); (repeat' split) <;> simp

/-- What `completeAttempt` leaves alone. -/
@[simp] theorem State.completeAttempt_keeps (a : Attempt) :
    (s.completeAttempt a).phase = s.phase ∧ (s.completeAttempt a).straps = s.straps ∧ (s.completeAttempt a).loader =
    s.loader ∧ (s.completeAttempt a).params = s.params ∧ (s.completeAttempt a).cadence = s.cadence ∧ (s.completeAttempt
    a).sense = s.sense ∧ (s.completeAttempt a).tonePhase = s.tonePhase ∧ (s.completeAttempt a).pins = s.pins ∧
    (s.completeAttempt a).last = s.last ∧ (s.completeAttempt a).crystal = s.crystal ∧ (s.completeAttempt a).order = s.order
    ∧ (s.completeAttempt a).pending = s.pending := by
  unfold State.completeAttempt; (try dsimp only); (repeat' split) <;> simp

/-- What `orderEnds` leaves alone. -/
@[simp] theorem State.orderEnds_keeps :
    (s.orderEnds).phase = s.phase ∧ (s.orderEnds).straps = s.straps ∧ (s.orderEnds).loader = s.loader ∧ (s.orderEnds).params
    = s.params ∧ (s.orderEnds).cadence = s.cadence ∧ (s.orderEnds).table = s.table ∧ (s.orderEnds).sched = s.sched ∧
    (s.orderEnds).sense = s.sense ∧ (s.orderEnds).asm = s.asm ∧ (s.orderEnds).lines = s.lines ∧ (s.orderEnds).tonePhase =
    s.tonePhase ∧ (s.orderEnds).pins = s.pins ∧ (s.orderEnds).last = s.last ∧ (s.orderEnds).crystal = s.crystal ∧
    (s.orderEnds).order = s.order ∧ (s.orderEnds).pending = s.pending := by
  unfold State.orderEnds; (try dsimp only); (repeat' split) <;> simp

/-- What `applyEntry` leaves alone. -/
@[simp] theorem State.applyEntry_keeps (a : PeerAddr) (x : Totals) (b : Option Nat) :
    (s.applyEntry a x b).phase = s.phase ∧ (s.applyEntry a x b).straps = s.straps ∧ (s.applyEntry a x b).loader = s.loader ∧
    (s.applyEntry a x b).params = s.params ∧ (s.applyEntry a x b).cadence = s.cadence ∧ (s.applyEntry a x b).sense = s.sense
    ∧ (s.applyEntry a x b).bus = s.bus ∧ (s.applyEntry a x b).tonePhase = s.tonePhase ∧ (s.applyEntry a x b).pins = s.pins ∧
    (s.applyEntry a x b).last = s.last ∧ (s.applyEntry a x b).crystal = s.crystal ∧ (s.applyEntry a x b).order = s.order ∧
    (s.applyEntry a x b).pending = s.pending := by
  unfold State.applyEntry; (try dsimp only); (repeat' split) <;> simp

/-- What `peerNotice` leaves alone. -/
@[simp] theorem State.peerNotice_keeps (w : Notice) (i j : Nat) (b : Option Nat) :
    (s.peerNotice w i j b).phase = s.phase ∧ (s.peerNotice w i j b).straps = s.straps ∧ (s.peerNotice w i j b).loader =
    s.loader ∧ (s.peerNotice w i j b).params = s.params ∧ (s.peerNotice w i j b).cadence = s.cadence ∧ (s.peerNotice w i j
    b).sense = s.sense ∧ (s.peerNotice w i j b).tonePhase = s.tonePhase ∧ (s.peerNotice w i j b).pins = s.pins ∧
    (s.peerNotice w i j b).last = s.last ∧ (s.peerNotice w i j b).crystal = s.crystal ∧ (s.peerNotice w i j b).order =
    s.order ∧ (s.peerNotice w i j b).pending = s.pending := by
  unfold State.peerNotice; (try dsimp only); (repeat' split) <;> simp

/-- What `refuse` leaves alone. -/
@[simp] theorem State.refuse_keeps (k : OrderKind) (w : Notice) (r : Reason) :
    (s.refuse k w r).phase = s.phase ∧ (s.refuse k w r).straps = s.straps ∧ (s.refuse k w r).loader = s.loader ∧ (s.refuse k
    w r).params = s.params ∧ (s.refuse k w r).cadence = s.cadence ∧ (s.refuse k w r).table = s.table ∧ (s.refuse k w
    r).sched = s.sched ∧ (s.refuse k w r).sense = s.sense ∧ (s.refuse k w r).bus = s.bus ∧ (s.refuse k w r).tonePhase =
    s.tonePhase ∧ (s.refuse k w r).pins = s.pins ∧ (s.refuse k w r).last = s.last ∧ (s.refuse k w r).crystal = s.crystal ∧
    (s.refuse k w r).order = s.order ∧ (s.refuse k w r).pending = s.pending := by
  unfold State.refuse; (try dsimp only); (repeat' split) <;> simp

/-- What `takeRing` leaves alone. -/
@[simp] theorem State.takeRing_keeps (w : Notice) (n : Line) :
    (State.takeRing w s n).phase = s.phase ∧ (State.takeRing w s n).straps = s.straps ∧ (State.takeRing w s n).loader =
    s.loader ∧ (State.takeRing w s n).params = s.params ∧ (State.takeRing w s n).cadence = s.cadence ∧ (State.takeRing w s
    n).table = s.table ∧ (State.takeRing w s n).sense = s.sense ∧ (State.takeRing w s n).bus = s.bus ∧ (State.takeRing w s
    n).tonePhase = s.tonePhase ∧ (State.takeRing w s n).pins = s.pins ∧ (State.takeRing w s n).last = s.last ∧
    (State.takeRing w s n).crystal = s.crystal ∧ (State.takeRing w s n).order = s.order ∧ (State.takeRing w s n).pending =
    s.pending := by
  unfold State.takeRing; (try dsimp only); (repeat' split) <;> simp

/-- What `takeTone` leaves alone. -/
@[simp] theorem State.takeTone_keeps (w : Notice) (n : Line) :
    (State.takeTone w s n).phase = s.phase ∧ (State.takeTone w s n).straps = s.straps ∧ (State.takeTone w s n).loader =
    s.loader ∧ (State.takeTone w s n).params = s.params ∧ (State.takeTone w s n).cadence = s.cadence ∧ (State.takeTone w s
    n).table = s.table ∧ (State.takeTone w s n).sched = s.sched ∧ (State.takeTone w s n).sense = s.sense ∧ (State.takeTone w
    s n).bus = s.bus ∧ (State.takeTone w s n).tonePhase = s.tonePhase ∧ (State.takeTone w s n).pins = s.pins ∧
    (State.takeTone w s n).last = s.last ∧ (State.takeTone w s n).crystal = s.crystal ∧ (State.takeTone w s n).order =
    s.order ∧ (State.takeTone w s n).pending = s.pending := by
  unfold State.takeTone; (try dsimp only); (repeat' split) <;> simp

/-- What `takeMode` leaves alone. -/
@[simp] theorem State.takeMode_keeps (w : Notice) (n : Line) :
    (State.takeMode w s n).phase = s.phase ∧ (State.takeMode w s n).straps = s.straps ∧ (State.takeMode w s n).loader =
    s.loader ∧ (State.takeMode w s n).params = s.params ∧ (State.takeMode w s n).cadence = s.cadence ∧ (State.takeMode w s
    n).sense = s.sense ∧ (State.takeMode w s n).bus = s.bus ∧ (State.takeMode w s n).tonePhase = s.tonePhase ∧
    (State.takeMode w s n).pins = s.pins ∧ (State.takeMode w s n).last = s.last ∧ (State.takeMode w s n).crystal = s.crystal
    ∧ (State.takeMode w s n).order = s.order ∧ (State.takeMode w s n).pending = s.pending := by
  unfold State.takeMode; (try dsimp only); (repeat' split) <;> simp

/-- What `framingError` leaves alone. -/
@[simp] theorem State.framingError_keeps :
    (s.framingError).phase = s.phase ∧ (s.framingError).straps = s.straps ∧ (s.framingError).loader = s.loader ∧
    (s.framingError).params = s.params ∧ (s.framingError).cadence = s.cadence ∧ (s.framingError).table = s.table ∧
    (s.framingError).sched = s.sched ∧ (s.framingError).sense = s.sense ∧ (s.framingError).asm = s.asm ∧
    (s.framingError).lines = s.lines ∧ (s.framingError).tonePhase = s.tonePhase ∧ (s.framingError).pins = s.pins ∧
    (s.framingError).last = s.last ∧ (s.framingError).crystal = s.crystal ∧ (s.framingError).order = s.order ∧
    (s.framingError).pending = s.pending := by
  unfold State.framingError; (try dsimp only); (repeat' split) <;> simp

/-- What `takeByte` leaves alone. -/
@[simp] theorem State.takeByte_keeps (b : Byte) :
    (s.takeByte b).phase = s.phase ∧ (s.takeByte b).straps = s.straps ∧ (s.takeByte b).loader = s.loader ∧ (s.takeByte
    b).params = s.params ∧ (s.takeByte b).cadence = s.cadence ∧ (s.takeByte b).table = s.table ∧ (s.takeByte b).sched =
    s.sched ∧ (s.takeByte b).sense = s.sense ∧ (s.takeByte b).asm = s.asm ∧ (s.takeByte b).lines = s.lines ∧ (s.takeByte
    b).tonePhase = s.tonePhase ∧ (s.takeByte b).pins = s.pins ∧ (s.takeByte b).last = s.last ∧ (s.takeByte b).crystal =
    s.crystal ∧ (s.takeByte b).order = s.order ∧ (s.takeByte b).pending = s.pending := by
  unfold State.takeByte; (try dsimp only); (repeat' split) <;> simp

/-- What `edgeTaken` leaves alone. -/
@[simp] theorem State.edgeTaken_keeps :
    (s.edgeTaken).phase = s.phase ∧ (s.edgeTaken).straps = s.straps ∧ (s.edgeTaken).loader = s.loader ∧ (s.edgeTaken).params
    = s.params ∧ (s.edgeTaken).cadence = s.cadence ∧ (s.edgeTaken).table = s.table ∧ (s.edgeTaken).sched = s.sched ∧
    (s.edgeTaken).sense = s.sense ∧ (s.edgeTaken).asm = s.asm ∧ (s.edgeTaken).lines = s.lines ∧ (s.edgeTaken).tonePhase =
    s.tonePhase ∧ (s.edgeTaken).pins = s.pins ∧ (s.edgeTaken).last = s.last ∧ (s.edgeTaken).crystal = s.crystal ∧
    (s.edgeTaken).order = s.order ∧ (s.edgeTaken).pending = s.pending := by
  unfold State.edgeTaken; (try dsimp only); (repeat' split) <;> simp

/-- What `beginNotice` leaves alone. -/
@[simp] theorem State.beginNotice_keeps :
    (s.beginNotice).phase = s.phase ∧ (s.beginNotice).straps = s.straps ∧ (s.beginNotice).loader = s.loader ∧
    (s.beginNotice).params = s.params ∧ (s.beginNotice).cadence = s.cadence ∧ (s.beginNotice).table = s.table ∧
    (s.beginNotice).sched = s.sched ∧ (s.beginNotice).sense = s.sense ∧ (s.beginNotice).asm = s.asm ∧ (s.beginNotice).lines
    = s.lines ∧ (s.beginNotice).tonePhase = s.tonePhase ∧ (s.beginNotice).pins = s.pins ∧ (s.beginNotice).last = s.last ∧
    (s.beginNotice).crystal = s.crystal ∧ (s.beginNotice).order = s.order ∧ (s.beginNotice).pending = s.pending := by
  unfold State.beginNotice; (try dsimp only); (repeat' split) <;> simp

/-- What `byteSent` leaves alone. -/
@[simp] theorem State.byteSent_keeps (a : Attempt) (b : Byte) :
    (s.byteSent a b).phase = s.phase ∧ (s.byteSent a b).straps = s.straps ∧ (s.byteSent a b).loader = s.loader ∧ (s.byteSent
    a b).params = s.params ∧ (s.byteSent a b).cadence = s.cadence ∧ (s.byteSent a b).table = s.table ∧ (s.byteSent a
    b).sched = s.sched ∧ (s.byteSent a b).sense = s.sense ∧ (s.byteSent a b).asm = s.asm ∧ (s.byteSent a b).lines = s.lines
    ∧ (s.byteSent a b).tonePhase = s.tonePhase ∧ (s.byteSent a b).pins = s.pins ∧ (s.byteSent a b).last = s.last ∧
    (s.byteSent a b).crystal = s.crystal ∧ (s.byteSent a b).order = s.order ∧ (s.byteSent a b).pending = s.pending := by
  unfold State.byteSent; (try dsimp only); (repeat' split) <;> simp

/-- What `readBack` leaves alone. -/
@[simp] theorem State.readBack_keeps (a : Attempt) (b : Byte) :
    (s.readBack a b).phase = s.phase ∧ (s.readBack a b).straps = s.straps ∧ (s.readBack a b).loader = s.loader ∧ (s.readBack
    a b).params = s.params ∧ (s.readBack a b).cadence = s.cadence ∧ (s.readBack a b).table = s.table ∧ (s.readBack a
    b).sense = s.sense ∧ (s.readBack a b).tonePhase = s.tonePhase ∧ (s.readBack a b).pins = s.pins ∧ (s.readBack a b).last =
    s.last ∧ (s.readBack a b).crystal = s.crystal ∧ (s.readBack a b).order = s.order ∧ (s.readBack a b).pending = s.pending := by
  unfold State.readBack; (try dsimp only); (repeat' split) <;> simp

/-- What `edgeInNotice` leaves alone. -/
@[simp] theorem State.edgeInNotice_keeps (d : Bool) (b : Byte) :
    (s.edgeInNotice d b).phase = s.phase ∧ (s.edgeInNotice d b).straps = s.straps ∧ (s.edgeInNotice d b).loader = s.loader ∧
    (s.edgeInNotice d b).params = s.params ∧ (s.edgeInNotice d b).cadence = s.cadence ∧ (s.edgeInNotice d b).table = s.table
    ∧ (s.edgeInNotice d b).sense = s.sense ∧ (s.edgeInNotice d b).tonePhase = s.tonePhase ∧ (s.edgeInNotice d b).pins =
    s.pins ∧ (s.edgeInNotice d b).last = s.last ∧ (s.edgeInNotice d b).crystal = s.crystal ∧ (s.edgeInNotice d b).order =
    s.order ∧ (s.edgeInNotice d b).pending = s.pending := by
  unfold State.edgeInNotice; (try dsimp only); (repeat' split) <;> simp

end Sys2Proof.Machine
end

