-- ==== Sys2Proof/Laws/Parts.lean ====
section
/-! SUPPORT. What each shared operation leaves alone of every line: one lemma for each operation, a conjunction over the parts of a line's state
that it does not touch on any line, for `simp`. -/

namespace Sys2Proof.Machine

variable (s : State)

@[simp] theorem State.line_onLine_ring (n m : Line) (f : LineState → LineState) (h : ∀ l, (f l).ring = l.ring) :
    ((s.onLine n f).line m).ring = (s.line m).ring := by
  rw [State.line_onLine]; split
  · subst m; exact h _
  · rfl

@[simp] theorem State.line_onLine_relay (n m : Line) (f : LineState → LineState) (h : ∀ l, (f l).relay = l.relay) :
    ((s.onLine n f).line m).relay = (s.line m).relay := by
  rw [State.line_onLine]; split
  · subst m; exact h _
  · rfl

@[simp] theorem State.line_onLine_sense (n m : Line) (f : LineState → LineState) (h : ∀ l, (f l).sense = l.sense) :
    ((s.onLine n f).line m).sense = (s.line m).sense := by
  rw [State.line_onLine]; split
  · subst m; exact h _
  · rfl

@[simp] theorem State.line_onLine_hook (n m : Line) (f : LineState → LineState) (h : ∀ l, (f l).hook = l.hook) :
    ((s.onLine n f).line m).hook = (s.line m).hook := by
  rw [State.line_onLine]; split
  · subst m; exact h _
  · rfl

@[simp] theorem State.line_onLine_tone (n m : Line) (f : LineState → LineState) (h : ∀ l, (f l).tone = l.tone) :
    ((s.onLine n f).line m).tone = (s.line m).tone := by
  rw [State.line_onLine]; split
  · subst m; exact h _
  · rfl

@[simp] theorem State.line_onLine_eventsLost (n m : Line) (f : LineState → LineState) (h : ∀ l, (f l).eventsLost = l.eventsLost) :
    ((s.onLine n f).line m).eventsLost = (s.line m).eventsLost := by
  rw [State.line_onLine]; split
  · subst m; exact h _
  · rfl

@[simp] theorem State.line_onHook_ring (n m : Line) (f : HookRecord → HookRecord) :
    ((s.onHook n f).line m).ring = (s.line m).ring := by
  simp [State.onHook]

@[simp] theorem State.line_onHook_relay (n m : Line) (f : HookRecord → HookRecord) :
    ((s.onHook n f).line m).relay = (s.line m).relay := by
  simp [State.onHook]

@[simp] theorem State.line_onHook_sense (n m : Line) (f : HookRecord → HookRecord) :
    ((s.onHook n f).line m).sense = (s.line m).sense := by
  simp [State.onHook]

@[simp] theorem State.line_onHook_tone (n m : Line) (f : HookRecord → HookRecord) :
    ((s.onHook n f).line m).tone = (s.line m).tone := by
  simp [State.onHook]

@[simp] theorem State.line_onHook_eventsLost (n m : Line) (f : HookRecord → HookRecord) :
    ((s.onHook n f).line m).eventsLost = (s.line m).eventsLost := by
  simp [State.onHook]

@[simp] theorem State.line_onTone_ring (n m : Line) (f : ToneRecord → ToneRecord) :
    ((s.onTone n f).line m).ring = (s.line m).ring := by
  simp [State.onTone]

@[simp] theorem State.line_onTone_relay (n m : Line) (f : ToneRecord → ToneRecord) :
    ((s.onTone n f).line m).relay = (s.line m).relay := by
  simp [State.onTone]

@[simp] theorem State.line_onTone_sense (n m : Line) (f : ToneRecord → ToneRecord) :
    ((s.onTone n f).line m).sense = (s.line m).sense := by
  simp [State.onTone]

@[simp] theorem State.line_onTone_hook (n m : Line) (f : ToneRecord → ToneRecord) :
    ((s.onTone n f).line m).hook = (s.line m).hook := by
  simp [State.onTone]

@[simp] theorem State.line_onTone_eventsLost (n m : Line) (f : ToneRecord → ToneRecord) :
    ((s.onTone n f).line m).eventsLost = (s.line m).eventsLost := by
  simp [State.onTone]

@[simp] theorem State.line_setRing_relay (n m : Line) (r : RingRecord) : ((s.setRing n r).line m).relay = (s.line m).relay := by
  simp [State.setRing]

@[simp] theorem State.line_setRing_sense (n m : Line) (r : RingRecord) : ((s.setRing n r).line m).sense = (s.line m).sense := by
  simp [State.setRing]

@[simp] theorem State.line_setRing_hook (n m : Line) (r : RingRecord) : ((s.setRing n r).line m).hook = (s.line m).hook := by
  simp [State.setRing]

@[simp] theorem State.line_setRing_tone (n m : Line) (r : RingRecord) : ((s.setRing n r).line m).tone = (s.line m).tone := by
  simp [State.setRing]

@[simp] theorem State.line_setRing_eventsLost (n m : Line) (r : RingRecord) : ((s.setRing n r).line m).eventsLost = (s.line m).eventsLost := by
  simp [State.setRing]

@[simp] theorem LineState.immediateFeed_ring (p : RelayParams) (l : LineState) : (l.immediateFeed p).ring = l.ring := by
  simp only [LineState.immediateFeed, LineState.openRing, LineState.closeFeed]; split <;> (try split) <;> rfl

@[simp] theorem LineState.immediateFeed_hook (p : RelayParams) (l : LineState) : (l.immediateFeed p).hook = l.hook := by
  simp only [LineState.immediateFeed, LineState.openRing, LineState.closeFeed]; split <;> (try split) <;> rfl

@[simp] theorem LineState.immediateFeed_tone (p : RelayParams) (l : LineState) : (l.immediateFeed p).tone = l.tone := by
  simp only [LineState.immediateFeed, LineState.openRing, LineState.closeFeed]; split <;> (try split) <;> rfl

@[simp] theorem LineState.immediateFeed_eventsLost (p : RelayParams) (l : LineState) : (l.immediateFeed p).eventsLost = l.eventsLost := by
  simp only [LineState.immediateFeed, LineState.openRing, LineState.closeFeed]; split <;> (try split) <;> rfl

@[simp] theorem State.countError_line (m : Line) : (s.countError).line m = s.line m := by
  simp [State.line]

@[simp] theorem State.recomputeOwn_line (m : Line) : (s.recomputeOwn).line m = s.line m := by
  simp [State.line]

@[simp] theorem State.configure_line (a : MemoryAnswer) (m : Line) : (s.configure a).line m = s.line m := by
  simp [State.line]

@[simp] theorem State.refreshFallsDue_line (k : Slot) (m : Line) : (s.refreshFallsDue k).line m = s.line m := by
  simp [State.line]

@[simp] theorem State.closeWindow_line (m : Line) : (s.closeWindow).line m = s.line m := by
  simp [State.line]

@[simp] theorem State.closeDue_line (m : Line) : (s.closeDue).line m = s.line m := by
  simp [State.line]

@[simp] theorem State.decideDegraded_line (m : Line) : (s.decideDegraded).line m = s.line m := by
  simp [State.line]

@[simp] theorem State.beginAttempt_line (w : Outgoing) (m : Line) : (s.beginAttempt w).line m = s.line m := by
  simp [State.line]

@[simp] theorem State.discard_line (m : Line) : (s.discard).line m = s.line m := by
  simp [State.line]

@[simp] theorem State.noticeEnds_line (m : Line) : (s.noticeEnds).line m = s.line m := by
  simp [State.line]

@[simp] theorem State.refreshCompleted_line (m : Line) : (s.refreshCompleted).line m = s.line m := by
  simp [State.line]

@[simp] theorem State.orderEnds_line (m : Line) : (s.orderEnds).line m = s.line m := by
  simp [State.line]

@[simp] theorem State.framingError_line (m : Line) : (s.framingError).line m = s.line m := by
  simp [State.line]

@[simp] theorem State.takeByte_line (b : Byte) (m : Line) : (s.takeByte b).line m = s.line m := by
  simp [State.line]

@[simp] theorem State.edgeTaken_line (m : Line) : (s.edgeTaken).line m = s.line m := by
  simp [State.line]

@[simp] theorem State.beginNotice_line (m : Line) : (s.beginNotice).line m = s.line m := by
  simp [State.line]

@[simp] theorem State.byteSent_line (a : Attempt) (b : Byte) (m : Line) : (s.byteSent a b).line m = s.line m := by
  simp [State.line]

@[simp] theorem State.line_digitTaken_ring (n m : Line) :
    ((s.onLine n LineState.digitTaken).line m).ring = (s.line m).ring := State.line_onLine_ring s n m _ fun _ => rfl

@[simp] theorem State.line_digitTaken_relay (n m : Line) :
    ((s.onLine n LineState.digitTaken).line m).relay = (s.line m).relay := State.line_onLine_relay s n m _ fun _ => rfl

@[simp] theorem State.line_digitTaken_sense (n m : Line) :
    ((s.onLine n LineState.digitTaken).line m).sense = (s.line m).sense := State.line_onLine_sense s n m _ fun _ => rfl

@[simp] theorem State.line_digitTaken_tone (n m : Line) :
    ((s.onLine n LineState.digitTaken).line m).tone = (s.line m).tone := State.line_onLine_tone s n m _ fun _ => rfl

@[simp] theorem State.line_digitTaken_eventsLost (n m : Line) :
    ((s.onLine n LineState.digitTaken).line m).eventsLost = (s.line m).eventsLost := State.line_onLine_eventsLost s n m _ fun _ => rfl

@[simp] theorem LineState.immediateFeed_sense (p : RelayParams) (l : LineState) : (l.immediateFeed p).sense = l.sense := by
  simp only [LineState.immediateFeed, LineState.openRing, LineState.closeFeed]; split <;> (try split) <;> rfl

@[simp] theorem LineState.answered_parts (l : LineState) :
    l.answered.ring = l.ring ∧ l.answered.relay = l.relay ∧ l.answered.sense = l.sense ∧ l.answered.eventsLost = l.eventsLost := by
  simp [LineState.answered]

@[simp] theorem State.reconsiderWithheld_parts (m : Line) :
    ((s.reconsiderWithheld).line m).ring = (s.line m).ring ∧ ((s.reconsiderWithheld).line m).relay = (s.line m).relay ∧
    ((s.reconsiderWithheld).line m).sense = (s.line m).sense ∧ ((s.reconsiderWithheld).line m).hook = (s.line m).hook ∧
    ((s.reconsiderWithheld).line m).eventsLost = (s.line m).eventsLost := by
  unfold State.reconsiderWithheld; split <;> simp [LineState.releaseTone] <;> (split <;> simp)

@[simp] theorem State.pushReport_parts (r : Report) (m : Line) :
    ((s.pushReport r).line m).ring = (s.line m).ring ∧ ((s.pushReport r).line m).relay = (s.line m).relay ∧ ((s.pushReport
    r).line m).sense = (s.line m).sense ∧ ((s.pushReport r).line m).hook = (s.line m).hook ∧ ((s.pushReport r).line
    m).eventsLost = (s.line m).eventsLost := by
  unfold State.pushReport; (try dsimp only); (repeat' split) <;> (try simp)

@[simp] theorem State.handEvent_parts (n : Line) (e : Event) (m : Line) :
    ((s.handEvent n e).line m).ring = (s.line m).ring ∧ ((s.handEvent n e).line m).relay = (s.line m).relay ∧ ((s.handEvent
    n e).line m).sense = (s.line m).sense ∧ ((s.handEvent n e).line m).hook = (s.line m).hook := by
  unfold State.handEvent; (try dsimp only); (repeat' split) <;> (try simp)

@[simp] theorem State.offerReport_parts (r : Report) (m : Line) :
    ((s.offerReport r).line m).ring = (s.line m).ring ∧ ((s.offerReport r).line m).relay = (s.line m).relay ∧
    ((s.offerReport r).line m).sense = (s.line m).sense ∧ ((s.offerReport r).line m).hook = (s.line m).hook ∧
    ((s.offerReport r).line m).eventsLost = (s.line m).eventsLost := by
  unfold State.offerReport; (try dsimp only); (repeat' split) <;> (try simp)

@[simp] theorem State.takeDigitList_parts (b : Bool) (n : Line) (ds : List Digit) (m : Line) :
    ((State.takeDigitList b n ds s).line m).ring = (s.line m).ring ∧ ((State.takeDigitList b n ds s).line m).relay = (s.line
    m).relay ∧ ((State.takeDigitList b n ds s).line m).sense = (s.line m).sense ∧ ((State.takeDigitList b n ds s).line
    m).eventsLost = (s.line m).eventsLost := by
  induction ds generalizing s with
  | nil => simp [State.takeDigitList]
  | cons d ds ih =>
    unfold State.takeDigitList
    split
    · rename_i t ht
      rw [State.takeDigit] at ht
      obtain h := ih t
      (repeat' split at ht) <;> simp at ht <;> subst ht <;> simpa using h
    · simp

@[simp] theorem State.takeDigits_parts (b : Bool) (n : Line) (m : Line) :
    ((s.takeDigits b n).line m).ring = (s.line m).ring ∧ ((s.takeDigits b n).line m).relay = (s.line m).relay ∧
    ((s.takeDigits b n).line m).sense = (s.line m).sense ∧ ((s.takeDigits b n).line m).eventsLost = (s.line m).eventsLost := by
  unfold State.takeDigits; (try dsimp only); (repeat' split) <;> (try simp)

@[simp] theorem State.takeAllDigits_parts (b : Bool) (m : Line) :
    ((s.takeAllDigits b).line m).ring = (s.line m).ring ∧ ((s.takeAllDigits b).line m).relay = (s.line m).relay ∧
    ((s.takeAllDigits b).line m).sense = (s.line m).sense ∧ ((s.takeAllDigits b).line m).eventsLost = (s.line m).eventsLost := by
  unfold State.takeAllDigits; simp [allLines, List.finRange, List.foldl]

@[simp] theorem State.fillRoom_parts (m : Line) :
    ((s.fillRoom).line m).ring = (s.line m).ring ∧ ((s.fillRoom).line m).relay = (s.line m).relay ∧ ((s.fillRoom).line
    m).sense = (s.line m).sense := by
  unfold State.fillRoom; (try dsimp only); (repeat' split) <;> (try simp)

@[simp] theorem State.popReport_parts (m : Line) :
    ((s.popReport).line m).ring = (s.line m).ring ∧ ((s.popReport).line m).relay = (s.line m).relay ∧ ((s.popReport).line
    m).sense = (s.line m).sense := by
  unfold State.popReport; (try dsimp only); (repeat' split) <;> (try simp)

@[simp] theorem State.issueClaim_parts (n : Line) (p : Placement) (m : Line) :
    ((s.issueClaim n p).line m).relay = (s.line m).relay ∧ ((s.issueClaim n p).line m).sense = (s.line m).sense ∧
    ((s.issueClaim n p).line m).hook = (s.line m).hook ∧ ((s.issueClaim n p).line m).tone = (s.line m).tone ∧ ((s.issueClaim
    n p).line m).eventsLost = (s.line m).eventsLost := by
  unfold State.issueClaim; (try dsimp only); (repeat' split) <;> (try simp)

@[simp] theorem State.placementAttempt_parts (m : Line) :
    ((s.placementAttempt).line m).relay = (s.line m).relay ∧ ((s.placementAttempt).line m).sense = (s.line m).sense ∧
    ((s.placementAttempt).line m).hook = (s.line m).hook ∧ ((s.placementAttempt).line m).tone = (s.line m).tone ∧
    ((s.placementAttempt).line m).eventsLost = (s.line m).eventsLost := by
  unfold State.placementAttempt; (try dsimp only); (repeat' split) <;> (try simp)

@[simp] theorem State.freeToken_parts (m : Line) :
    ((s.freeToken).line m).relay = (s.line m).relay ∧ ((s.freeToken).line m).sense = (s.line m).sense ∧ ((s.freeToken).line
    m).hook = (s.line m).hook ∧ ((s.freeToken).line m).tone = (s.line m).tone ∧ ((s.freeToken).line m).eventsLost = (s.line
    m).eventsLost := by
  unfold State.freeToken; (try dsimp only); (repeat' split) <;> (try simp)

@[simp] theorem State.replaceClaim_parts (n : Line) (o : Order) (m : Line) :
    ((s.replaceClaim n o).line m).relay = (s.line m).relay ∧ ((s.replaceClaim n o).line m).sense = (s.line m).sense ∧
    ((s.replaceClaim n o).line m).hook = (s.line m).hook ∧ ((s.replaceClaim n o).line m).tone = (s.line m).tone ∧
    ((s.replaceClaim n o).line m).eventsLost = (s.line m).eventsLost := by
  unfold State.replaceClaim; (try dsimp only); (repeat' split) <;> (try simp)

@[simp] theorem State.revalidate_parts (m : Line) :
    ((s.revalidate).line m).relay = (s.line m).relay ∧ ((s.revalidate).line m).sense = (s.line m).sense ∧
    ((s.revalidate).line m).hook = (s.line m).hook ∧ ((s.revalidate).line m).tone = (s.line m).tone ∧ ((s.revalidate).line
    m).eventsLost = (s.line m).eventsLost := by
  unfold State.revalidate; (try dsimp only); (repeat' split) <;> (try simp)

@[simp] theorem State.shedLine_parts (n : Line) (m : Line) :
    ((s.shedLine n).line m).sense = (s.line m).sense ∧ ((s.shedLine n).line m).hook = (s.line m).hook := by
  unfold State.shedLine; (try dsimp only); (repeat' split) <;> (try simp)

@[simp] theorem State.overloadCheck_parts (m : Line) :
    ((s.overloadCheck).line m).sense = (s.line m).sense ∧ ((s.overloadCheck).line m).hook = (s.line m).hook := by
  have shed : ∀ (ls : List Line) (t : State), ((ls.foldl State.shedLine t).line m).sense = (t.line m).sense ∧ ((ls.foldl State.shedLine t).line m).hook = (t.line m).hook := by
    intro ls; induction ls with
    | nil => intro t; simp
    | cons n ls ih => intro t; simpa using ih (t.shedLine n)
  unfold State.overloadCheck; (repeat' split) <;> simp [shed]

@[simp] theorem State.viewChange_parts (b : Bool) (m : Line) :
    ((s.viewChange b).line m).sense = (s.line m).sense ∧ ((s.viewChange b).line m).hook = (s.line m).hook := by
  unfold State.viewChange; (try dsimp only); (repeat' split) <;> (try simp)

@[simp] theorem State.ownLinesChanged_parts (m : Line) :
    ((s.ownLinesChanged).line m).sense = (s.line m).sense ∧ ((s.ownLinesChanged).line m).hook = (s.line m).hook := by
  unfold State.ownLinesChanged; (try dsimp only); (repeat' split) <;> (try simp)

@[simp] theorem State.releaseLine_parts (n : Line) (m : Line) :
    ((s.releaseLine n).line m).sense = (s.line m).sense ∧ ((s.releaseLine n).line m).hook = (s.line m).hook := by
  unfold State.releaseLine; (try dsimp only); (repeat' split) <;> (try simp)

@[simp] theorem State.endClaim_parts (n : Line) (m : Line) :
    ((s.endClaim n).line m).relay = (s.line m).relay ∧ ((s.endClaim n).line m).sense = (s.line m).sense ∧ ((s.endClaim
    n).line m).hook = (s.line m).hook ∧ ((s.endClaim n).line m).tone = (s.line m).tone ∧ ((s.endClaim n).line m).eventsLost
    = (s.line m).eventsLost := by
  unfold State.endClaim; (try dsimp only); (repeat' split) <;> (try simp)

@[simp] theorem State.endRingWork_parts (n : Line) (m : Line) :
    ((s.endRingWork n).line m).sense = (s.line m).sense ∧ ((s.endRingWork n).line m).hook = (s.line m).hook := by
  unfold State.endRingWork; (try dsimp only); (repeat' split) <;> (try simp)

@[simp] theorem State.takeTrip_parts (n : Line) (m : Line) :
    ((s.takeTrip n).line m).sense = (s.line m).sense := by
  unfold State.takeTrip; (try dsimp only); (repeat' split) <;> (try simp)

@[simp] theorem State.expire_parts (n : Line) (m : Line) :
    ((s.expire n).line m).sense = (s.line m).sense ∧ ((s.expire n).line m).hook = (s.line m).hook := by
  unfold State.expire; (try dsimp only); (repeat' split) <;> (try simp)

@[simp] theorem State.defer_parts (n : Line) (m : Line) :
    ((s.defer n).line m).relay = (s.line m).relay ∧ ((s.defer n).line m).sense = (s.line m).sense ∧ ((s.defer n).line
    m).hook = (s.line m).hook := by
  unfold State.defer; (try dsimp only); (repeat' split) <;> (try simp)

@[simp] theorem State.examineOrder_parts (n : Line) (m : Line) :
    ((s.examineOrder n).line m).sense = (s.line m).sense ∧ ((s.examineOrder n).line m).hook = (s.line m).hook := by
  unfold State.examineOrder; (try dsimp only); (repeat' split) <;> (try simp)

@[simp] theorem State.countCycle_parts (m : Line) :
    ((s.countCycle).line m).sense = (s.line m).sense ∧ ((s.countCycle).line m).hook = (s.line m).hook := by
  unfold State.countCycle; simp [allLines, List.finRange, List.foldl]

@[simp] theorem State.acceptRing_parts (n : Line) (k : Fin 8) (i : Nat) (m : Line) :
    ((s.acceptRing n k i).line m).relay = (s.line m).relay ∧ ((s.acceptRing n k i).line m).sense = (s.line m).sense ∧
    ((s.acceptRing n k i).line m).hook = (s.line m).hook ∧ ((s.acceptRing n k i).line m).tone = (s.line m).tone ∧
    ((s.acceptRing n k i).line m).eventsLost = (s.line m).eventsLost := by
  unfold State.acceptRing; (try dsimp only); (repeat' split) <;> (try simp)

@[simp] theorem State.commit_parts (n : Line) (m : Line) :
    ((s.commit n).line m).sense = (s.line m).sense ∧ ((s.commit n).line m).hook = (s.line m).hook := by
  unfold State.commit; (try dsimp only); (repeat' split) <;> (try simp)

@[simp] theorem State.claimCompleted_parts (m : Line) :
    ((s.claimCompleted).line m).sense = (s.line m).sense ∧ ((s.claimCompleted).line m).hook = (s.line m).hook := by
  unfold State.claimCompleted; (try dsimp only); (repeat' split) <;> (try simp)

@[simp] theorem State.claimNotCarried_parts (m : Line) :
    ((s.claimNotCarried).line m).relay = (s.line m).relay ∧ ((s.claimNotCarried).line m).sense = (s.line m).sense ∧
    ((s.claimNotCarried).line m).hook = (s.line m).hook ∧ ((s.claimNotCarried).line m).tone = (s.line m).tone ∧
    ((s.claimNotCarried).line m).eventsLost = (s.line m).eventsLost := by
  unfold State.claimNotCarried; (try dsimp only); (repeat' split) <;> (try simp)

@[simp] theorem State.join_parts (m : Line) :
    ((s.join).line m).sense = (s.line m).sense ∧ ((s.join).line m).hook = (s.line m).hook := by
  unfold State.join; (try dsimp only); (repeat' split) <;> (try simp)

@[simp] theorem State.rejoin_parts (m : Line) :
    ((s.rejoin).line m).sense = (s.line m).sense ∧ ((s.rejoin).line m).hook = (s.line m).hook := by
  unfold State.rejoin; (try dsimp only); (repeat' split) <;> (try simp)

@[simp] theorem State.dropClaim_parts (m : Line) :
    ((s.dropClaim).line m).relay = (s.line m).relay ∧ ((s.dropClaim).line m).sense = (s.line m).sense ∧ ((s.dropClaim).line
    m).hook = (s.line m).hook ∧ ((s.dropClaim).line m).tone = (s.line m).tone ∧ ((s.dropClaim).line m).eventsLost = (s.line
    m).eventsLost := by
  unfold State.dropClaim; (try dsimp only); (repeat' split) <;> (try simp)

@[simp] theorem State.island_parts (m : Line) :
    ((s.island).line m).relay = (s.line m).relay ∧ ((s.island).line m).sense = (s.line m).sense ∧ ((s.island).line m).hook =
    (s.line m).hook ∧ ((s.island).line m).tone = (s.line m).tone ∧ ((s.island).line m).eventsLost = (s.line m).eventsLost := by
  unfold State.island; (try dsimp only); (repeat' split) <;> (try simp)

@[simp] theorem State.toneAtSeizure_parts (n : Line) (m : Line) :
    ((s.toneAtSeizure n).line m).ring = (s.line m).ring ∧ ((s.toneAtSeizure n).line m).relay = (s.line m).relay ∧
    ((s.toneAtSeizure n).line m).sense = (s.line m).sense ∧ ((s.toneAtSeizure n).line m).hook = (s.line m).hook ∧
    ((s.toneAtSeizure n).line m).eventsLost = (s.line m).eventsLost := by
  unfold State.toneAtSeizure; (try dsimp only); (repeat' split) <;> (try simp)

@[simp] theorem State.completeTrain_parts (n : Line) (m : Line) :
    ((s.completeTrain n).line m).ring = (s.line m).ring ∧ ((s.completeTrain n).line m).relay = (s.line m).relay ∧
    ((s.completeTrain n).line m).sense = (s.line m).sense := by
  unfold State.completeTrain; dsimp only; split <;> simp [LineState.storeDigit]

@[simp] theorem State.beginSeizing_parts (n : Line) (m : Line) :
    ((s.beginSeizing n).line m).ring = (s.line m).ring ∧ ((s.beginSeizing n).line m).relay = (s.line m).relay ∧
    ((s.beginSeizing n).line m).sense = (s.line m).sense ∧ ((s.beginSeizing n).line m).tone = (s.line m).tone ∧
    ((s.beginSeizing n).line m).eventsLost = (s.line m).eventsLost := by
  unfold State.beginSeizing; (try dsimp only); (repeat' split) <;> (try simp)

@[simp] theorem State.failSeizure_parts (n : Line) (m : Line) :
    ((s.failSeizure n).line m).ring = (s.line m).ring ∧ ((s.failSeizure n).line m).relay = (s.line m).relay ∧
    ((s.failSeizure n).line m).sense = (s.line m).sense ∧ ((s.failSeizure n).line m).tone = (s.line m).tone ∧
    ((s.failSeizure n).line m).eventsLost = (s.line m).eventsLost := by
  unfold State.failSeizure; (try dsimp only); (repeat' split) <;> (try simp)

@[simp] theorem State.confirmSeizure_parts (n : Line) (m : Line) :
    ((s.confirmSeizure n).line m).sense = (s.line m).sense := by
  unfold State.confirmSeizure; (try dsimp only); (repeat' split) <;> (try simp)

@[simp] theorem State.trySeize_parts (n : Line) (m : Line) :
    ((s.trySeize n).line m).sense = (s.line m).sense := by
  unfold State.trySeize; (try dsimp only); (repeat' split) <;> (try simp)

@[simp] theorem State.tellGlitchLimit_parts (n : Line) (m : Line) :
    ((s.tellGlitchLimit n).line m).ring = (s.line m).ring ∧ ((s.tellGlitchLimit n).line m).relay = (s.line m).relay ∧
    ((s.tellGlitchLimit n).line m).sense = (s.line m).sense ∧ ((s.tellGlitchLimit n).line m).eventsLost = (s.line
    m).eventsLost := by
  unfold State.tellGlitchLimit; (try dsimp only); (repeat' split) <;> (try simp)

@[simp] theorem State.testGlitchLimit_parts (n : Line) (m : Line) :
    ((s.testGlitchLimit n).line m).ring = (s.line m).ring ∧ ((s.testGlitchLimit n).line m).relay = (s.line m).relay ∧
    ((s.testGlitchLimit n).line m).sense = (s.line m).sense ∧ ((s.testGlitchLimit n).line m).eventsLost = (s.line
    m).eventsLost := by
  unfold State.testGlitchLimit; (try dsimp only); (repeat' split) <;> (try simp)

@[simp] theorem State.beginBreak_parts (n : Line) (m : Line) :
    ((s.beginBreak n).line m).ring = (s.line m).ring ∧ ((s.beginBreak n).line m).relay = (s.line m).relay ∧ ((s.beginBreak
    n).line m).sense = (s.line m).sense ∧ ((s.beginBreak n).line m).eventsLost = (s.line m).eventsLost := by
  unfold State.beginBreak; (try dsimp only); (repeat' split) <;> (try simp)

@[simp] theorem State.takeFlash_parts (n : Line) (m : Line) :
    ((s.takeFlash n).line m).ring = (s.line m).ring ∧ ((s.takeFlash n).line m).relay = (s.line m).relay ∧ ((s.takeFlash
    n).line m).sense = (s.line m).sense := by
  unfold State.takeFlash; (try dsimp only); (repeat' split) <;> (try simp)

@[simp] theorem State.endBreak_parts (n : Line) (d : Nat) (m : Line) :
    ((s.endBreak n d).line m).ring = (s.line m).ring ∧ ((s.endBreak n d).line m).relay = (s.line m).relay ∧ ((s.endBreak n
    d).line m).sense = (s.line m).sense := by
  unfold State.endBreak; (try dsimp only); (repeat' split) <;> (try simp)

@[simp] theorem State.declareClear_parts (n : Line) (m : Line) :
    ((s.declareClear n).line m).ring = (s.line m).ring ∧ ((s.declareClear n).line m).relay = (s.line m).relay ∧
    ((s.declareClear n).line m).sense = (s.line m).sense := by
  unfold State.declareClear; (try dsimp only); (repeat' split) <;> (try simp)

@[simp] theorem State.offHookWindow_parts (n : Line) (b : Bool) (m : Line) :
    ((s.offHookWindow n b).line m).ring = (s.line m).ring ∧ ((s.offHookWindow n b).line m).relay = (s.line m).relay ∧
    ((s.offHookWindow n b).line m).sense = (s.line m).sense := by
  unfold State.offHookWindow; (try dsimp only); (repeat' split) <;> (try simp)

@[simp] theorem State.breakWindow_parts (n : Line) (d : Nat) (m : Line) :
    ((s.breakWindow n d).line m).ring = (s.line m).ring ∧ ((s.breakWindow n d).line m).relay = (s.line m).relay ∧
    ((s.breakWindow n d).line m).sense = (s.line m).sense := by
  unfold State.breakWindow; (try dsimp only); (repeat' split) <;> (try simp)

@[simp] theorem State.superviseWindow_parts (n : Line) (w : Nat) (x : Option Loop) (m : Line) :
    ((s.superviseWindow n w x).line m).sense = (s.line m).sense := by
  unfold State.superviseWindow; (try dsimp only); (repeat' split) <;> (try simp)

@[simp] theorem State.ageView_parts (m : Line) :
    ((s.ageView).line m).sense = (s.line m).sense ∧ ((s.ageView).line m).hook = (s.line m).hook := by
  unfold State.ageView; (try dsimp only); (repeat' split) <;> (try simp)

@[simp] theorem State.countPeriod_parts (m : Line) :
    ((s.countPeriod).line m).sense = (s.line m).sense ∧ ((s.countPeriod).line m).hook = (s.line m).hook := by
  unfold State.countPeriod; (try dsimp only); (repeat' split) <;> (try simp)

@[simp] theorem State.directRelays_parts (j k : Slot) (m : Line) :
    ((s.directRelays j k).line m).hook = (s.line m).hook ∧ ((s.directRelays j k).line m).tone = (s.line m).tone ∧
    ((s.directRelays j k).line m).eventsLost = (s.line m).eventsLost := by
  unfold State.directRelays
  simp only [State.line_mapLines, LineState.classBoundary]
  split
  · (repeat' split) <;> simp [LineState.ringRequest, LineState.syncedFeed, LineState.immediateFeed, LineState.openFeed,
      LineState.beginCloseWait, LineState.closeRing, LineState.openRing, LineState.closeFeed] <;> (repeat' split) <;> simp
  all_goals (try simp)

@[simp] theorem State.slotTask_parts (j k : Slot) (x : SlotTask) (m : Line) :
    ((State.slotTask j k s x).line m).hook = (s.line m).hook := by
  unfold State.slotTask; (try dsimp only); (repeat' split) <;> (try simp)

@[simp] theorem State.slotStart_parts (j k : Slot) (m : Line) :
    ((s.slotStart j k).line m).hook = (s.line m).hook := by
  have tasks : ∀ (ls : List SlotTask) (t : State), ((ls.foldl (State.slotTask j k) t).line m).hook = (t.line m).hook := by
    intro ls; induction ls with
    | nil => intro t; simp
    | cons x ls ih => intro t; simpa using ih (State.slotTask j k t x)
  exact tasks _ s

@[simp] theorem State.boundary_parts (k : Slot) (m : Line) :
    ((s.boundary k).line m).hook = (s.line m).hook := by
  unfold State.boundary; (try dsimp only); (repeat' split) <;> (try simp)

@[simp] theorem State.turnLeak_parts (n : Line) (b : Bool) (m : Line) :
    ((s.turnLeak n b).line m).ring = (s.line m).ring ∧ ((s.turnLeak n b).line m).relay = (s.line m).relay ∧ ((s.turnLeak n
    b).line m).hook = (s.line m).hook := by
  unfold State.turnLeak; (try dsimp only); (repeat' split) <;> (try simp)

@[simp] theorem State.prepareNotice_parts (m : Line) :
    ((s.prepareNotice).line m).relay = (s.line m).relay ∧ ((s.prepareNotice).line m).sense = (s.line m).sense ∧
    ((s.prepareNotice).line m).hook = (s.line m).hook ∧ ((s.prepareNotice).line m).tone = (s.line m).tone ∧
    ((s.prepareNotice).line m).eventsLost = (s.line m).eventsLost := by
  unfold State.prepareNotice; (try dsimp only); (repeat' split) <;> (try simp)

@[simp] theorem State.attemptFailed_parts (x : Sent) (m : Line) :
    ((s.attemptFailed x).line m).relay = (s.line m).relay ∧ ((s.attemptFailed x).line m).sense = (s.line m).sense ∧
    ((s.attemptFailed x).line m).eventsLost = (s.line m).eventsLost := by
  unfold State.attemptFailed; (try dsimp only); (repeat' split) <;> (try simp)

@[simp] theorem State.loseAttempt_parts (m : Line) :
    ((s.loseAttempt).line m).relay = (s.line m).relay ∧ ((s.loseAttempt).line m).sense = (s.line m).sense ∧
    ((s.loseAttempt).line m).eventsLost = (s.line m).eventsLost := by
  unfold State.loseAttempt; (try dsimp only); (repeat' split) <;> (try simp)

@[simp] theorem State.countClash_parts (m : Line) :
    ((s.countClash).line m).relay = (s.line m).relay ∧ ((s.countClash).line m).sense = (s.line m).sense ∧
    ((s.countClash).line m).hook = (s.line m).hook ∧ ((s.countClash).line m).tone = (s.line m).tone ∧ ((s.countClash).line
    m).eventsLost = (s.line m).eventsLost := by
  unfold State.countClash; (try dsimp only); (repeat' split) <;> (try simp)

@[simp] theorem State.clashAttempt_parts (m : Line) :
    ((s.clashAttempt).line m).relay = (s.line m).relay ∧ ((s.clashAttempt).line m).sense = (s.line m).sense ∧
    ((s.clashAttempt).line m).eventsLost = (s.line m).eventsLost := by
  unfold State.clashAttempt; (try dsimp only); (repeat' split) <;> (try simp)

@[simp] theorem State.discharge_parts (x : Sent) (m : Line) :
    ((s.discharge x).line m).sense = (s.line m).sense := by
  unfold State.discharge; (try dsimp only); (repeat' split) <;> (try simp)

@[simp] theorem State.completeAttempt_parts (a : Attempt) (m : Line) :
    ((s.completeAttempt a).line m).sense = (s.line m).sense := by
  unfold State.completeAttempt; (try dsimp only); (repeat' split) <;> (try simp)

@[simp] theorem State.applyEntry_parts (a : PeerAddr) (x : Totals) (b : Option Nat) (m : Line) :
    ((s.applyEntry a x b).line m).sense = (s.line m).sense ∧ ((s.applyEntry a x b).line m).hook = (s.line m).hook := by
  unfold State.applyEntry; (try dsimp only); (repeat' split) <;> (try simp)

@[simp] theorem State.peerNotice_parts (w : Notice) (i j : Nat) (b : Option Nat) (m : Line) :
    ((s.peerNotice w i j b).line m).sense = (s.line m).sense ∧ ((s.peerNotice w i j b).line m).hook = (s.line m).hook := by
  unfold State.peerNotice; (try dsimp only); (repeat' split) <;> (try simp)

@[simp] theorem State.refuse_parts (k : OrderKind) (w : Notice) (r : Reason) (m : Line) :
    ((s.refuse k w r).line m).ring = (s.line m).ring ∧ ((s.refuse k w r).line m).relay = (s.line m).relay ∧ ((s.refuse k w
    r).line m).sense = (s.line m).sense ∧ ((s.refuse k w r).line m).hook = (s.line m).hook ∧ ((s.refuse k w r).line
    m).eventsLost = (s.line m).eventsLost := by
  unfold State.refuse; (try dsimp only); (repeat' split) <;> (try simp)

@[simp] theorem State.takeRing_parts (w : Notice) (n : Line) (m : Line) :
    ((State.takeRing w s n).line m).relay = (s.line m).relay ∧ ((State.takeRing w s n).line m).sense = (s.line m).sense ∧
    ((State.takeRing w s n).line m).hook = (s.line m).hook ∧ ((State.takeRing w s n).line m).eventsLost = (s.line
    m).eventsLost := by
  unfold State.takeRing; (try dsimp only); (repeat' split) <;> (try simp)

@[simp] theorem State.takeTone_parts (w : Notice) (n : Line) (m : Line) :
    ((State.takeTone w s n).line m).ring = (s.line m).ring ∧ ((State.takeTone w s n).line m).relay = (s.line m).relay ∧
    ((State.takeTone w s n).line m).sense = (s.line m).sense ∧ ((State.takeTone w s n).line m).eventsLost = (s.line
    m).eventsLost := by
  unfold State.takeTone; (try dsimp only); (repeat' split) <;> (try simp)

@[simp] theorem State.readBack_parts (a : Attempt) (b : Byte) (m : Line) :
    ((s.readBack a b).line m).relay = (s.line m).relay ∧ ((s.readBack a b).line m).sense = (s.line m).sense ∧ ((s.readBack a
    b).line m).eventsLost = (s.line m).eventsLost := by
  unfold State.readBack; (try dsimp only); (repeat' split) <;> (try simp)

@[simp] theorem State.edgeInNotice_parts (d : Bool) (b : Byte) (m : Line) :
    ((s.edgeInNotice d b).line m).relay = (s.line m).relay ∧ ((s.edgeInNotice d b).line m).sense = (s.line m).sense ∧
    ((s.edgeInNotice d b).line m).eventsLost = (s.line m).eventsLost := by
  unfold State.edgeInNotice; (try dsimp only); (repeat' split) <;> (try simp)

end Sys2Proof.Machine
end

