-- ==== Sys2Proof/Laws/Operations.lean ====
section
/-! SUPPORT. What each shared operation can do, said once, in the relations of the statements, so that no proof unfolds the operation. -/

namespace Sys2Proof.Machine

open Sys2Proof.Claims

/-! ### Orders the state chooses -/

/-- A member put into a list is a member more, and nothing else changes. -/
theorem insertAt_perm {α} (k : Nat) (x : α) (l : List α) : (insertAt k x l).Perm (x :: l) := by
  induction l generalizing k with
  | nil => cases k <;> simp [insertAt]
  | cons y l ih => cases k with
    | zero => simp [insertAt]
    | succ k => simp only [insertAt]; exact ((ih k).cons y).trans (List.Perm.swap x y l)

/-- `permute` names an order of the members: none is lost, none taken twice. -/
theorem permute_perm {α} (k : Nat) (l : List α) : (permute k l).Perm l := by
  induction l generalizing k with
  | nil => simp [permute]
  | cons x l ih => simp only [permute]; exact (insertAt_perm _ _ _).trans ((ih _).cons x)

/-! ### Relay requests (R66 to R71) -/

/-- A waiting LineState.switchRing_movementMade is made as R68 and R69 say. -/
theorem LineState.switchRing_movementMade (p) (l : LineState) : MovementMade p l (l.switchRing p) := by
  unfold MovementMade LineState.switchRing RingMayClose
  cases hp : l.relay.position <;> simp [hp, LineState.closeRing, RelayRecord.mayCloseRing, RingClosed, RingOpened, LineState.openRing]
  · constructor
    · rintro (h|h) <;> simp [h]
    · intro h1 h2 h3; simp_all; omega
  · constructor <;> intro h <;> simp [h]

/-- A ring request does what R67 gives for each position. -/
theorem LineState.ringRequest_ringRequested (p z) (l : LineState) : RingRequested p z l (l.ringRequest p z) := by
  unfold RingRequested LineState.ringRequest RingMayClose
  cases hp : l.relay.position <;> cases z <;> simp [LineState.closeRing, RelayRecord.mayCloseRing, RingClosed, FeedOpened, LineState.openFeed, LineState.beginCloseWait, WaitingToClose] <;>
   (try constructor) <;> intros <;> simp_all

/-- An immediate feed request does what R70 gives for each position. -/
theorem LineState.immediateFeed_feedRequestedNow (p) (l : LineState) : FeedRequestedNow p l (l.immediateFeed p) := by
  unfold FeedRequestedNow LineState.immediateFeed
  cases hp : l.relay.position <;> simp [LineState.closeFeed, RelayRecord.mayCloseFeed, FeedClosed, RingOpened, LineState.openRing] <;>
   (try constructor) <;> intros <;> simp_all <;> omega

/-- A synced feed request does what R69 gives for each position. -/
theorem LineState.syncedFeed_feedRequestedSynced (p z) (l : LineState) : FeedRequestedSynced p z l (l.syncedFeed p z) := by
  unfold FeedRequestedSynced
  refine ⟨?_, ?_, ?_, ?_⟩
  · intro h h2 h3; simp [LineState.syncedFeed, h, h2, h3]
  · intro h h2 h3; simp [LineState.syncedFeed, h, h2, h3, LineState.openRing, RingOpened]
  · intro h h2; simp [LineState.syncedFeed, h, h2]
  · intro h
    have := LineState.immediateFeed_feedRequestedNow p l
    unfold LineState.syncedFeed
    cases hp : l.relay.position <;> simp_all
    all_goals unfold LineState.immediateFeed at this; simpa [hp] using this

/-! ### The report queue (R153, R161) -/

/-- No entry is free exactly when the queue holds 12. -/
theorem State.freeCount_eq_zero (s : State) : s.freeCount = 0 ↔ 12 ≤ s.asm.queue.length := by
  simp only [State.freeCount, queueSize]; omega

/-- An entry pushed into a queue with room stands at its end, and WITHHELD lines are reconsidered. -/
theorem State.pushReport_queued (s : State) (r : Report) (h : s.asm.queue.length < 12) : Queued s r (s.pushReport r) := by
  unfold Queued State.pushReport State.reconsiderWithheld
  have hf : (s.setQueue (s.asm.queue ++ [r])).freeCount = 12 - (s.asm.queue.length + 1) := by
    simp [State.freeCount, queueSize]
  constructor
  · split <;> rfl
  · intro m
    by_cases h9 : s.asm.queue.length < 9
    · rw [if_pos (by omega)]
      simp only [State.line_mapLines, LineState.releaseTone]
      have e : (s.setQueue (s.asm.queue ++ [r])).line m = s.line m := rfl
      rw [e]
      by_cases hw : (s.line m).tone.tone = some .withheld
      · simp [hw, h9]
      · simp [hw]
    · rw [if_neg (by omega)]
      simp only [h9, false_and, if_false]; rfl

/-- An answer or a refusal is queued, or dropped when the queue is full. -/
theorem State.offerReport_offered (s : State) (r : Report) : Offered s r (s.offerReport r) := by
  unfold Offered State.offerReport
  refine ⟨fun h => by rw [if_pos ((State.freeCount_eq_zero s).2 h)], fun h => ?_⟩
  rw [if_neg (by rw [State.freeCount_eq_zero]; omega)]; exact State.pushReport_queued s _ h

/-! ### Received notices and orders (R143, R157, R158) -/

/-- The blocks work in the running phase. -/
theorem State.running_of_phase {s : State} (h : s.phase = .running) : s.running = true := by simp [State.running, h]

/-- A line that is served is in use, in the running phase. -/
theorem State.phase_of_serves {s : State} {n : Line} (h : s.serves n = true) : s.phase = .running ∧ s.inUse n = true := by
  simpa [State.serves, State.running] using h

/-- The end of a notice leaves the receiver idle and its buffer empty. -/
theorem State.noticeEnds_eq (s : State) : s.noticeEnds = NoticeOver s := rfl

/-- In RECEIVING, with BUS HELD clear and no own attempt, a notice of another station can be ending. -/
theorem State.receives_of {s : State} (h : Receiving s) : s.receives = true := by
  obtain ⟨h1, h2, h3, h4⟩ := h; simp [State.receives, State.hears, State.running, h1, h2, h3, h4]

/-- A notice of another station that ends is acted on in the state that its end leaves. -/
theorem State.received_eq {s : State} (h : Receiving s) (f : State → State) : s.received f = f (NoticeOver s) := by
  simp [State.received, State.receives_of h, State.noticeEnds_eq]

/-- In RECEIVING with BUS HELD clear the receiver works, whether or not an own attempt is in transmission. -/
theorem State.hears_of_hearing {s : State} (h : Hearing s) : s.hears = true := by
  obtain ⟨h1, h2, h3⟩ := h; simp [State.hears, State.running, h1, h2, h3]

/-- The notice of an order ends without touching an own attempt. -/
theorem State.orderEnds_eq (s : State) : s.orderEnds = Heard s := by
  unfold State.orderEnds Heard; cases s.bus.attempt <;> simp [State.noticeEnds_eq]

/-- An order that arrives is acted on in the state that the end of its notice leaves. -/
theorem State.ordered_eq {s : State} (h : Hearing s) (f : State → State) : s.ordered f = f (Heard s) := by
  simp [State.ordered, State.hears_of_hearing h, State.orderEnds_eq]

/-- An order is for this station when a control station sent it and its first byte is the own address. -/
theorem State.orderForUs_of {s : State} {w : Notice} (h1 : 48 ≤ w.sender.toNat) (h2 : w.sender.toNat ≤ 55) (h : w.payload.head?.map BitVec.toNat = some s.address) :
    s.orderForUs w = true := by
  simp [State.orderForUs, Notice.fromControlStation, h1, h2, h]

/-- An order that passes the checks of R158 is run for its line. -/
theorem State.takeOrder_eq {s : State} {kind : OrderKind} {w : Notice} {f : State → Line → State} {n : Line} (h1 : 48 ≤ w.sender.toNat) (h2 : w.sender.toNat ≤ 55)
    (hh : w.payload.head?.map BitVec.toNat = some s.address) (hl : w.payload.length = kind.length) (hf : fieldsOk kind w = true) (hn : field w 1 = n.val)
    (hu : s.inUse n = true) : State.takeOrder kind w f s = f s n := by
  unfold State.takeOrder
  rw [if_pos (State.orderForUs_of h1 h2 hh)]
  unfold State.checkOrder
  have : field w 1 < 8 := by rw [hn]; exact n.isLt
  have e : (⟨field w 1, this⟩ : Line) = n := Fin.ext hn
  simp [hl, hf, this, e, hu]

/-! ### Placement (R46) -/

/-- Every slot is among all slots. -/
theorem mem_allSlots (t : Slot) : t ∈ allSlots := List.mem_finRange t

/-- A mask fits when every slot it holds stays within the budget. -/
theorem fits_iff (T : Totals) (B w : Nat) (m : SlotSet) : fits T B w m = true ↔ Fits T B w m := by
  simp only [fits, Fits, List.all_eq_true, mem_allSlots, true_implies, SlotSet.holds, Bool.or_eq_true, Bool.not_eq_true', decide_eq_true_eq]
  constructor
  · intro h t ht; rcases h t with h | h
    · rw [ht] at h; cases h
    · exact h
  · intro h t; cases ht : m.getLsbD t.val
    · exact .inl rfl
    · exact .inr (h t ht)

/-- The walk over slots answers a highest total under the mask. -/
theorem score_foldl (T : Totals) (w : Nat) (m : SlotSet) : ∀ (ls : List Slot) (b : Nat),
   let r := ls.foldl (fun best t => if SlotSet.holds m t then max best (T[t.val] + w) else best) b
   b ≤ r ∧ (∀ t ∈ ls, m.getLsbD t.val = true → T[t.val] + w ≤ r) ∧ (r = b ∨ ∃ t ∈ ls, m.getLsbD t.val = true ∧ T[t.val] + w = r) := by
  intro ls; induction ls with
  | nil => intro b; simp
  | cons x ls ih =>
    intro b
    simp only [List.foldl_cons]
    by_cases hx : SlotSet.holds m x = true
    · simp only [hx, if_true]
      obtain ⟨h1, h2, h3⟩ := ih (max b (T[x.val] + w))
      refine ⟨by omega, ?_, ?_⟩
      · intro t ht hm; rcases List.mem_cons.1 ht with rfl | ht
        · omega
        · exact h2 t ht hm
      · rcases h3 with h3 | ⟨t, ht, hm, he⟩
        · rcases Nat.le_total b (T[x.val] + w) with hle | hle
          · right; exact ⟨x, List.mem_cons_self, hx, by omega⟩
          · left; omega
        · right; exact ⟨t, List.mem_cons_of_mem _ ht, hm, he⟩
    · simp only [hx]
      obtain ⟨h1, h2, h3⟩ := ih b
      refine ⟨h1, ?_, ?_⟩
      · intro t ht hm; rcases List.mem_cons.1 ht with rfl | ht
        · exact absurd hm hx
        · exact h2 t ht hm
      · rcases h3 with h3 | ⟨t, ht, hm, he⟩
        · left; exact h3
        · right; exact ⟨t, List.mem_cons_of_mem _ ht, hm, he⟩

/-- The score is the highest total under the mask. -/
theorem score_eq (T : Totals) (w : Nat) (m : SlotSet) (k : Nat) (h : IsScore T w m k) : score T w m = k := by
  obtain ⟨⟨t, ht, he⟩, hmax⟩ := h
  obtain ⟨h1, h2, h3⟩ := score_foldl T w m allSlots 0
  unfold score
  have := h2 t (mem_allSlots t) ht
  rcases h3 with h3 | ⟨u, _, hu, hue⟩
  · omega
  · have := hmax u hu; omega

/-! ### What a ring record keeps -/

/-- What a ring record keeps through placement, claim, commit and shedding: pattern, limit, cycles elapsed and whether it has rung. -/
def RingRecord.core (r : RingRecord) : Option (Fin 8 × Nat × Nat × Bool) := r.order?.map fun o => (o.pattern, o.limit, o.elapsed, o.rung)

/-- Issuing a claim keeps every order. -/
theorem State.core_issueClaim (s : State) (n : Line) (p : Placement) (m : Line) : ((s.issueClaim n p).line m).ring.core = (s.line m).ring.core := by
  unfold State.issueClaim
  split
  · rename_i o h
    simp only [State.setToken_line, State.line_setRing]
    split
    · subst m; unfold State.ring at h; rw [h]; rfl
    · rfl
  all_goals rfl

/-- A placement attempt keeps every order (R45). -/
theorem State.core_placementAttempt (s : State) (m : Line) : (s.placementAttempt.line m).ring.core = (s.line m).ring.core := by
  unfold State.placementAttempt; (repeat' split) <;> simp [State.core_issueClaim]

/-- Re-validation keeps every order (R49). -/
theorem State.core_revalidate (s : State) (m : Line) : (s.revalidate.line m).ring.core = (s.line m).ring.core := by
  unfold State.revalidate
  split
  · rename_i n h
    split
    · rfl
    · split
      · rename_i o p hr
        split
        · rfl
        · unfold State.replaceClaim
          unfold State.ring at hr
          split
          · rw [State.line_setRing]; split
            · subst m; rw [hr]; rfl
            · rfl
          · unfold State.freeToken; rw [State.core_placementAttempt]; simp only [State.setToken_line]; rw [State.line_setRing]; split
            · subst m; rw [hr]; rfl
            · rfl
      all_goals rfl
  all_goals rfl

/-- Handing an event keeps every ring record. -/
theorem State.core_handEvent (s : State) (n e) (m : Line) : ((s.handEvent n e).line m).ring = (s.line m).ring := by simp

/-- Shedding keeps every order (R33). -/
theorem State.core_shedLine (s : State) (n m : Line) : ((s.shedLine n).line m).ring.core = (s.line m).ring.core := by
  unfold State.shedLine
  split
  · rename_i o p f h
    unfold State.ring at h
    simp only [State.core_handEvent, State.oweRelease_line, State.leaveCommits_line, State.line_setRing]
    split
    · subst m; rw [h]; rfl
    · simp
  all_goals rfl

/-- Shedding lines one after another keeps every order. -/
theorem State.core_shedLines (ls : List Line) (m : Line) : ∀ s : State, ((ls.foldl State.shedLine s).line m).ring.core = (s.line m).ring.core := by
  induction ls with
  | nil => intro s; rfl
  | cons n ls ih => intro s; rw [List.foldl_cons, ih, State.core_shedLine]

/-- The overload check keeps every order (R34). -/
theorem State.core_overloadCheck (s : State) (m : Line) : (s.overloadCheck.line m).ring.core = (s.line m).ring.core := by
  unfold State.overloadCheck
  split
  · split
    · rfl
    · rw [State.core_placementAttempt]; simp only [State.recomputeOwn_line]; rw [State.core_shedLines]
  · rfl

/-- A view change keeps every order (R30). -/
theorem State.core_viewChange (s : State) (b : Bool) (m : Line) : ((s.viewChange b).line m).ring.core = (s.line m).ring.core := by
  unfold State.viewChange
  dsimp only
  rw [State.core_overloadCheck]; split
  · rw [State.core_revalidate, State.core_placementAttempt]; rfl
  · rw [State.core_placementAttempt]; rfl

/-- A change of the own lines keeps every order. -/
theorem State.core_ownLinesChanged (s : State) (m : Line) : (s.ownLinesChanged.line m).ring.core = (s.line m).ring.core := by
  unfold State.ownLinesChanged; split
  · rfl
  · rw [State.core_viewChange]; rfl

/-- A record with nothing to keep is IDLE. -/
theorem State.core_idle {r : RingRecord} : r.core = none ↔ r = .idle := by cases r <;> simp [RingRecord.core, RingRecord.order?]

/-- What a record with an order keeps. -/
theorem RingRecord.core_some {r : RingRecord} {o : Order} (h : r.order? = some o) : r.core = some (o.pattern, o.limit, o.elapsed, o.rung) := by simp [RingRecord.core, h]

/-- Ring work ended for one line leaves it IDLE and keeps every other order. -/
theorem State.core_endRingWork (s : State) (n m : Line) : ((s.endRingWork n).line m).ring.core = if m = n then none else (s.line m).ring.core := by
  unfold State.endRingWork
  split
  · rename_i h; unfold State.ring at h
    split
    · subst m; rw [h]; rfl
    · rfl
  · simp only [State.leaveAccepted_line, State.line_setRing]; split <;> rfl
  · unfold State.endClaim; dsimp only; split
    · simp only [State.setToken_line, State.leaveAccepted_line, State.line_setRing]; split <;> rfl
    · unfold State.freeToken; rw [State.core_placementAttempt]
      simp only [State.setToken_line, State.leaveAccepted_line, State.line_setRing]; split <;> rfl
  · unfold State.releaseLine; rw [State.core_ownLinesChanged]
    simp only [State.oweRelease_line, State.leaveAccepted_line, State.leaveCommits_line, State.line_setRing]
    split
    · rfl
    · rw [State.line_onLine_ring]; simp

/-- Expiry of one line leaves it IDLE and keeps every other order. -/
theorem State.core_expire (s : State) (n m : Line) : ((s.expire n).line m).ring.core = if m = n then none else (s.line m).ring.core := by
  unfold State.expire
  split
  · rename_i h
    split
    · subst m; unfold State.ring at h; simp [RingRecord.core, h]
    · rfl
  · simp only [State.core_handEvent, State.core_endRingWork]

/-- A deferral keeps every order. -/
theorem State.core_defer (s : State) (n m : Line) : ((s.defer n).line m).ring.core = (s.line m).ring.core := by
  unfold State.defer
  split
  · rename_i o h
    split
    · rfl
    · simp only [State.core_handEvent, State.line_setRing]
      unfold State.ring at h
      split
      · subst m; rw [h]; rfl
      · rfl
  all_goals rfl

/-! ### What a view change may do (R30, R33, R34, R44, R45, R49) -/

/-- `t` comes of `s` by view changes: only ring work moves, hooks and sensing stand, every order is kept, IDLE lines keep their relays, peers and
acceptance order stand, commits only leave, and a release is owed at most for a line that was committed. -/
structure ViewChanged (s t : State) : Prop where
  only : RingWorkOnly s t
  loops : LoopsKept s t
  core : ∀ m, (t.line m).ring.core = (s.line m).ring.core
  idleRelay : ∀ m, (s.line m).ring = .idle → (t.line m).relay = (s.line m).relay
  peers : t.table.peers = s.table.peers
  accepted : t.sched.accepted = s.sched.accepted
  commits : t.sched.commits.Sublist s.sched.commits
  mask1 : ∀ m : Line, t.asm.releaseMask.getLsbD m.val = true → s.asm.releaseMask.getLsbD m.val = true ∨ m ∈ s.sched.commits
  mask2 : ∀ m : Line, s.asm.releaseMask.getLsbD m.val = true → t.asm.releaseMask.getLsbD m.val = true

/-- Nothing done is a view change done. -/
theorem ViewChanged.refl (s : State) : ViewChanged s s := ⟨rfl, fun _ => ⟨rfl, rfl⟩, fun _ => rfl, fun _ _ => rfl, rfl, rfl, List.Sublist.refl _, fun _ h => .inl h, fun _ h => h⟩

/-- Ring work alone, twice over. -/
theorem ringWorkOnly_trans {s t u : State} (h : RingWorkOnly s t) (g : RingWorkOnly t u) : RingWorkOnly s u := by
  unfold RingWorkOnly at *; rw [g, h]

/-- One view change after another. -/
theorem ViewChanged.trans {s t u : State} (h : ViewChanged s t) (g : ViewChanged t u) : ViewChanged s u where
  only := ringWorkOnly_trans h.only g.only
  loops m := ⟨(g.loops m).1.trans (h.loops m).1, (g.loops m).2.trans (h.loops m).2⟩
  core m := (g.core m).trans (h.core m)
  idleRelay m hm := (g.idleRelay m (by
    have := h.core m
    rw [hm] at this
    exact State.core_idle.1 this)).trans (h.idleRelay m hm)
  peers := g.peers.trans h.peers
  accepted := g.accepted.trans h.accepted
  commits := g.commits.trans h.commits
  mask1 m hm := by
    rcases g.mask1 m hm with x | x
    · exact h.mask1 m x
    · exact .inr (h.commits.subset x)
  mask2 m hm := g.mask2 m (h.mask2 m hm)

/-- The derived quantities of the view may be recomputed. -/
theorem ViewChanged.setTable (s : State) (b : LoadTable) (hb : b.peers = s.table.peers) : ViewChanged s (s.setTable b) where
  only := rfl
  loops _ := ⟨rfl, rfl⟩
  core _ := rfl
  idleRelay _ _ := rfl
  peers := hb
  accepted := rfl
  commits := List.Sublist.refl _
  mask1 _ h := .inl h
  mask2 _ h := h

/-- The claim token may change hands. -/
theorem ViewChanged.setToken (s : State) (k : Token) : ViewChanged s (s.setToken k) where
  only := rfl
  loops _ := ⟨rfl, rfl⟩
  core _ := rfl
  idleRelay _ _ := rfl
  peers := rfl
  accepted := rfl
  commits := List.Sublist.refl _
  mask1 _ h := .inl h
  mask2 _ h := h

/-- A record may change that keeps its order. -/
theorem ViewChanged.setRing (s : State) (n : Line) (r : RingRecord) (hr : r.core = (s.ring n).core) : ViewChanged s (s.setRing n r) where
  only := rfl
  loops m := by rw [State.line_setRing]; split
                · subst m; exact ⟨rfl, rfl⟩
                · exact ⟨rfl, rfl⟩
  core m := by rw [State.line_setRing]; split
               · subst m; exact hr
               · rfl
  idleRelay m _ := by rw [State.line_setRing]; split
                      · subst m; rfl
                      · rfl
  peers := rfl
  accepted := rfl
  commits := List.Sublist.refl _
  mask1 _ h := .inl h
  mask2 _ h := h

/-- Issuing a claim. -/
theorem ViewChanged.issueClaim (s : State) (n : Line) (p : Placement) : ViewChanged s (s.issueClaim n p) := by
  unfold State.issueClaim; split
  · rename_i o ho
    exact (ViewChanged.setRing s n _ (by rw [ho]; rfl)).trans (ViewChanged.setToken _ _)
  all_goals exact ViewChanged.refl s

/-- A placement attempt. -/
theorem ViewChanged.placementAttempt (s : State) : ViewChanged s s.placementAttempt := by
  unfold State.placementAttempt; (repeat' split)
  · exact ViewChanged.issueClaim _ _ _
  all_goals exact ViewChanged.refl s

/-- Freeing the token. -/
theorem ViewChanged.freeToken (s : State) : ViewChanged s s.freeToken := (ViewChanged.setToken s _).trans (ViewChanged.placementAttempt _)

/-- Placing a claim again. -/
theorem ViewChanged.replaceClaim (s : State) (n : Line) (o : Order) (p : Placement) (h : s.ring n = .claiming o p) : ViewChanged s (s.replaceClaim n o) := by
  unfold State.replaceClaim; split
  · exact ViewChanged.setRing s n _ (by rw [h]; rfl)
  · exact (ViewChanged.setRing s n _ (by rw [h]; rfl)).trans (ViewChanged.freeToken _)

/-- Re-validation. -/
theorem ViewChanged.revalidate (s : State) : ViewChanged s s.revalidate := by
  unfold State.revalidate
  split
  · rename_i n _
    split
    · exact ViewChanged.refl s
    · split
      · rename_i o p h
        split
        · exact ViewChanged.refl s
        · exact ViewChanged.replaceClaim s n o p h
      all_goals exact ViewChanged.refl s
  all_goals exact ViewChanged.refl s

/-- Handing an event owes no release. -/
theorem State.handEvent_releaseMask (s : State) (n e) : (s.handEvent n e).asm.releaseMask = s.asm.releaseMask := by
  unfold State.handEvent State.pushReport State.reconsiderWithheld; (repeat' split) <;> rfl

/-- The set of one line holds that line alone. -/
theorem LineSet.single_getLsbD (n m : Line) : (LineSet.single n).getLsbD m.val = decide (m = n) := by
  revert n m; decide

/-- Handing an event touches lines and the assembler alone. -/
theorem State.handEvent_only (s : State) (n e) : s.handEvent n e = { s with lines := (s.handEvent n e).lines, asm := (s.handEvent n e).asm } := by
  unfold State.handEvent State.pushReport State.reconsiderWithheld; (repeat' split) <;> rfl

/-- As for a view change, a release being owed at most for the lines `ls`. -/
structure LinesShed (ls : List Line) (s t : State) : Prop where
  only : RingWorkOnly s t
  loops : LoopsKept s t
  core : ∀ m, (t.line m).ring.core = (s.line m).ring.core
  idleRelay : ∀ m, (s.line m).ring = .idle → (t.line m).relay = (s.line m).relay
  peers : t.table.peers = s.table.peers
  accepted : t.sched.accepted = s.sched.accepted
  commits : t.sched.commits.Sublist s.sched.commits
  mask1 : ∀ m : Line, t.asm.releaseMask.getLsbD m.val = true → s.asm.releaseMask.getLsbD m.val = true ∨ m ∈ ls
  mask2 : ∀ m : Line, s.asm.releaseMask.getLsbD m.val = true → t.asm.releaseMask.getLsbD m.val = true

/-- Shedding one line. -/
theorem LinesShed.shedLine (s : State) (n : Line) : LinesShed [n] s (s.shedLine n) := by
  have hc := State.core_shedLine s n
  unfold State.shedLine at *
  split
  · rename_i o p b h
    have hs : s.ring n = .ringing o p b := h
    refine ⟨?_, ?_, ?_, ?_, ?_, ?_, ?_, ?_, ?_⟩
    · exact ringWorkOnly_trans (t := ((((s.onLine n (LineState.immediateFeed s.params.relay)).setRing n (.pending o)).leaveCommits n).oweRelease n)) rfl (by rw [State.handEvent_only]; rfl)
    · intro m; simp [State.line_onLine]; split <;> simp_all
    · rw [hs] at hc; exact hc
    · intro m hm
      have hne : m ≠ n := by rintro rfl; have : s.ring m = .idle := hm; rw [hs] at this; cases this
      simp [State.line_onLine, hne]
    · simp
    · simp [State.leaveCommits]
    · simpa [State.leaveCommits] using List.erase_sublist
    · intro m
      rw [State.handEvent_releaseMask]
      simp [State.oweRelease, LineSet.single_getLsbD]
      intro h; rcases h with h | h
      · left; exact h
      · right; have := LineSet.single_getLsbD n m; simp at this; simpa [h] using this
    · intro m hm
      rw [State.handEvent_releaseMask]
      simp [State.oweRelease, LineSet.single_getLsbD]; left; exact hm
  all_goals exact ⟨rfl, fun _ => ⟨rfl, rfl⟩, fun _ => rfl, fun _ _ => rfl, rfl, rfl, List.Sublist.refl _, fun _ h => .inl h, fun _ h => h⟩

/-- Shedding lines one after another. -/
theorem LinesShed.fold (ls : List Line) : ∀ s : State, LinesShed ls s (ls.foldl State.shedLine s) := by
  induction ls with
  | nil => intro s; exact ⟨rfl, fun _ => ⟨rfl, rfl⟩, fun _ => rfl, fun _ _ => rfl, rfl, rfl, List.Sublist.refl _, fun _ h => .inl h, fun _ h => h⟩
  | cons n ls ih =>
    intro s
    have h := LinesShed.shedLine s n
    have g := ih (s.shedLine n)
    rw [List.foldl_cons]
    refine ⟨ringWorkOnly_trans h.only g.only, fun m => ⟨(g.loops m).1.trans (h.loops m).1, (g.loops m).2.trans (h.loops m).2⟩, fun m => (g.core m).trans (h.core m),
      fun m hm => (g.idleRelay m ?_).trans (h.idleRelay m hm), g.peers.trans h.peers, g.accepted.trans h.accepted, g.commits.trans h.commits,
      fun m hm => ?_, fun m hm => g.mask2 m (h.mask2 m hm)⟩
    · have := h.core m
      rw [hm] at this
      exact State.core_idle.1 this
    · rcases g.mask1 m hm with x | x
      · rcases h.mask1 m x with y | y
        · exact .inl y
        · right; simp at y; simp [y]
      · right; simp [x]

/-- The walk sheds lines it is given, in their order. -/
theorem State.shedWalk_sublist (s : State) (al) (ls : List Line) : ∀ kept, (s.shedWalk al kept ls).Sublist ls := by
  induction ls with
  | nil => intro k; simp [State.shedWalk]
  | cons n ls ih =>
    intro k; unfold State.shedWalk; (repeat' split)
    · exact (ih _).cons₂ _
    · exact (ih _).cons _
    · exact List.nil_sublist _

/-- Only committed lines are shed. -/
theorem State.mem_commits_of_linesToShed (s : State) {m : Line} (h : m ∈ s.linesToShed) : m ∈ s.sched.commits := by
  have := (State.shedWalk_sublist s s.overAllowance s.sched.commits.reverse s.ringingLines).subset h
  simpa using this

/-- Recomputing the own totals. -/
theorem ViewChanged.recomputeOwn (s : State) : ViewChanged s s.recomputeOwn := ViewChanged.setTable s _ rfl

/-- The overload check. -/
theorem ViewChanged.overloadCheck (s : State) : ViewChanged s s.overloadCheck := by
  unfold State.overloadCheck; (repeat' split)
  · exact ViewChanged.refl s
  · rename_i n rest h
    have f := LinesShed.fold (n :: rest) s
    have : ViewChanged s ((n :: rest).foldl State.shedLine s) :=
      ⟨f.only, f.loops, f.core, f.idleRelay, f.peers, f.accepted, f.commits,
        fun m hm => (f.mask1 m hm).imp_right fun hh => State.mem_commits_of_linesToShed s (by rw [h]; exact hh), f.mask2⟩
    exact (this.trans (ViewChanged.recomputeOwn _)).trans (ViewChanged.placementAttempt _)
  · exact ViewChanged.refl s

/-- A view change. -/
theorem ViewChanged.viewChange (s : State) (b : Bool) : ViewChanged s (s.viewChange b) := by
  unfold State.viewChange; dsimp only
  refine ViewChanged.trans ?_ (ViewChanged.overloadCheck _)
  have h := (ViewChanged.setTable s (s.table.recompute s.params.ring.budget) rfl).trans (ViewChanged.placementAttempt _)
  split
  · exact h.trans (ViewChanged.revalidate _)
  · exact h

/-- A change of the own lines. -/
theorem ViewChanged.own (s : State) : ViewChanged s s.ownLinesChanged := by
  unfold State.ownLinesChanged; split
  · exact ViewChanged.refl s
  · exact ViewChanged.trans (t := s.setTable { s.table with own := s.ownTotals }) (ViewChanged.setTable s _ rfl) (ViewChanged.viewChange _ _)

/-- Joining. -/
theorem ViewChanged.join (s : State) : ViewChanged (s.setLink .joined 2) s.join := (ViewChanged.placementAttempt _).trans (ViewChanged.overloadCheck _)

/-! ### Own totals after a change of the own lines (R15) -/

/-- The mask by which a RINGING record rings. -/
def RingRecord.ringingMask (r : RingRecord) : Option SlotSet := match r with | .ringing _ p _ => some p.mask | _ => none

/-- A record rings exactly when it has such a mask. -/
theorem RingRecord.isRinging_iff_mask (r : RingRecord) : r.isRinging = (RingRecord.ringingMask r).isSome := by cases r <;> rfl

/-- Own totals depend on parameters and those masks alone. -/
theorem State.ownTotals_congr {s t : State} (hp : t.params = s.params) (h : ∀ m, RingRecord.ringingMask (t.ring m) = RingRecord.ringingMask (s.ring m)) : t.ownTotals = s.ownTotals := by
  have hl : t.ringingLines = s.ringingLines := by
    unfold State.ringingLines; congr 1; funext m; rw [RingRecord.isRinging_iff_mask, RingRecord.isRinging_iff_mask, h]
  unfold State.ownTotals; rw [hl]; unfold State.totalsOf
  congr 1; funext k; congr 1
  apply List.map_congr_left
  intro n hn
  unfold State.ringingLines at hn
  have hn := (List.mem_filter.1 hn).2
  have hk := h n
  unfold State.load; rw [hp]
  cases hs : s.ring n with
  | ringing o p b =>
    cases ht : t.ring n with
    | ringing o' p' b' => 
      rw [hs, ht] at hk; simp only [RingRecord.ringingMask, Option.some.injEq] at hk
      have e : (RingRecord.ringing o' p' b').rings k = (RingRecord.ringing o p b).rings k := by simp only [RingRecord.rings, RingRecord.placement?, hk]
      rw [e]
    | idle => rw [hs, ht] at hk; cases hk
    | pending => rw [hs, ht] at hk; cases hk
    | claiming => rw [hs, ht] at hk; cases hk
  | idle => rw [hs] at hn; cases hn
  | pending => rw [hs] at hn; cases hn
  | claiming => rw [hs] at hn; cases hn

/-- Parameters, held own totals and the masks that ring are kept. -/
def RingingKept (s t : State) : Prop := t.params = s.params ∧ t.table.own = s.table.own ∧ ∀ m, RingRecord.ringingMask (t.ring m) = RingRecord.ringingMask (s.ring m)

/-- Nothing done keeps them. -/
theorem RingingKept.refl (s : State) : RingingKept s s := ⟨rfl, rfl, fun _ => rfl⟩

/-- Kept twice is kept. -/
theorem RingingKept.trans {s t u : State} (h : RingingKept s t) (g : RingingKept t u) : RingingKept s u := ⟨g.1.trans h.1, g.2.1.trans h.2.1, fun m => (g.2.2 m).trans (h.2.2 m)⟩

/-- A record may change that keeps its ringing mask. -/
theorem RingingKept.setRing (s : State) (n) (r) (h : RingRecord.ringingMask r = RingRecord.ringingMask (s.ring n)) : RingingKept s (s.setRing n r) := by
  refine ⟨rfl, rfl, fun m => ?_⟩
  rw [State.ring_setRing]; split
  · subst m; exact h
  · rfl

/-- The claim token may change hands. -/
theorem RingingKept.setToken (s : State) (k) : RingingKept s (s.setToken k) := ⟨rfl, rfl, fun _ => rfl⟩

/-- Issuing a claim. -/
theorem RingingKept.issueClaim (s : State) (n p) : RingingKept s (s.issueClaim n p) := by
  unfold State.issueClaim; split
  · rename_i o ho
    exact (RingingKept.setRing s n _ (by rw [ho]; rfl)).trans (RingingKept.setToken _ _)
  all_goals exact RingingKept.refl s

/-- A placement attempt. -/
theorem RingingKept.placementAttempt (s : State) : RingingKept s s.placementAttempt := by
  unfold State.placementAttempt; (repeat' split)
  · exact RingingKept.issueClaim _ _ _
  all_goals exact RingingKept.refl s

/-- Re-validation. -/
theorem RingingKept.revalidate (s : State) : RingingKept s s.revalidate := by
  unfold State.revalidate
  split
  · rename_i n _
    split
    · exact RingingKept.refl s
    · split
      · rename_i o p h
        split
        · exact RingingKept.refl s
        · unfold State.replaceClaim; split
          · exact RingingKept.setRing s n _ (by rw [h]; rfl)
          · exact (RingingKept.setRing s n _ (by rw [h]; rfl)).trans ((RingingKept.setToken _ _).trans (RingingKept.placementAttempt _))
      all_goals exact RingingKept.refl s
  all_goals exact RingingKept.refl s

/-- The held own totals are those of the lines that ring. -/
def OwnTotalsHeld (s : State) : Prop := s.table.own = s.ownTotals

/-- They stay so where totals and masks are kept. -/
theorem RingingKept.own {s t : State} (h : RingingKept s t) (o : OwnTotalsHeld s) : OwnTotalsHeld t := by
  unfold OwnTotalsHeld at *; rw [h.2.1, o, State.ownTotals_congr h.1 h.2.2]

/-- They stay so through the overload check. -/
theorem State.overloadCheck_ownTotalsHeld (s : State) (h : OwnTotalsHeld s) : OwnTotalsHeld s.overloadCheck := by
  unfold State.overloadCheck; (repeat' split)
  · exact h
  · apply (RingingKept.placementAttempt _).own
    unfold OwnTotalsHeld State.recomputeOwn
    exact (State.ownTotals_congr rfl fun _ => rfl)
  · exact h

/-- They stay so through a view change. -/
theorem State.viewChange_ownTotalsHeld (s : State) (b) (h : OwnTotalsHeld s) : OwnTotalsHeld (s.viewChange b) := by
  unfold State.viewChange; dsimp only
  apply State.overloadCheck_ownTotalsHeld
  have : OwnTotalsHeld (s.setTable (s.table.recompute s.params.ring.budget)).placementAttempt := (RingingKept.placementAttempt _).own h
  split
  · exact (RingingKept.revalidate _).own this
  · exact this

/-- They are so after a change of the own lines. -/
theorem State.ownLinesChanged_ownTotalsHeld (s : State) : OwnTotalsHeld s.ownLinesChanged := by
  unfold State.ownLinesChanged; split
  · rename_i h; exact h.symm
  · apply State.viewChange_ownTotalsHeld; exact State.ownTotals_congr rfl fun _ => rfl

/-! ### The end of ring work (R55, R57, R58, R61) -/

/-- A RINGING line that is State.releaseLine_released is IDLE, owed a release, with feed requested at once; the own totals are those of the lines that still ring. -/
theorem State.releaseLine_released (s : State) (n : Line) (o p b) (h : s.ring n = .ringing o p b) : Released s n (s.releaseLine n) := by
  let u := ((((s.onLine n (LineState.immediateFeed s.params.relay)).setRing n .idle).leaveCommits n).leaveAccepted n).oweRelease n
  have hv : ViewChanged u (s.releaseLine n) := ViewChanged.own u
  have hu : (u.line n).ring = .idle := by simp [u, State.line_setRing]
  refine ⟨?_, ?_, ?_, ?_, ?_, ?_, ?_, ⟨(s.line n).immediateFeed s.params.relay, LineState.immediateFeed_feedRequestedNow _ _, ?_⟩, ?_, ?_, ?_⟩
  · have := hv.core n
    rw [hu] at this; exact State.core_idle.1 this
  · rw [hv.accepted]; simp [u, State.leaveAccepted, State.leaveCommits]
  · have := hv.commits; simpa [u, State.leaveAccepted, State.leaveCommits] using this
  · intro m hm hne
    rcases hv.mask1 m hm with x | x
    · left
      have hb := LineSet.single_getLsbD n m
      simp [u, State.oweRelease, hne] at x hb
      rcases x with x | x
      · exact x
      · rw [hb] at x; cases x
    · right
      simp [u, State.leaveAccepted, State.leaveCommits] at x
      exact List.mem_of_mem_erase x
  · intro m hm
    apply hv.mask2 m
    have hb := LineSet.single_getLsbD n m
    simp [u, State.oweRelease] at hb ⊢
    rcases hm with hm | hm
    · left; exact hm
    · right; rw [hb]; simp [hm]
  · exact State.ownLinesChanged_ownTotalsHeld u
  · rw [hv.peers]; simp [u]
  · rw [hv.idleRelay n hu]; simp [u, State.line_setRing]
  · intro m
    have := hv.loops m
    rw [this.1, this.2]
    simp [u, State.line_onLine]; split <;> simp_all
  · intro m hm
    have := hv.core m
    simp [u, State.line_setRing, hm, State.line_onLine] at this
    exact this
  · exact ringWorkOnly_trans (t := u) rfl hv.only

/-- Ring work ends for a line by its ring state. -/
theorem State.endRingWork_ended (s : State) (n : Line) : RingWorkEnded s n (s.endRingWork n) := by
  unfold State.endRingWork
  refine ⟨fun h => by rw [h], fun o h => by rw [h]; rfl, fun o p h hc => ?_, fun o p a m h ha hs => ?_, fun o p b h => ?_⟩
  · rw [h]; simp only [State.endClaim]
    have : s.claimInTransmission = false := by
      unfold State.claimInTransmission; split
      · rename_i a ha; split
        · rename_i m hm; exact absurd hm (hc a m ha)
        · rfl
        · rfl
        · rfl
      · rfl
    have e : (( s.setRing n .idle).leaveAccepted n).claimInTransmission = s.claimInTransmission := rfl
    rw [this]; rfl
  · rw [h]; simp only [State.endClaim]
    have : s.claimInTransmission = true := by
      unfold State.claimInTransmission; rw [ha]; simp [hs]
    rw [this]; rfl
  · rw [h]; exact State.releaseLine_released s n o p b h

/-! ### The bus record under work that does not read it (R134, R149, R155) -/

/-- Taking one digit commutes with a change of the bus record that keeps the attempt. -/
theorem State.takeDigit_setBus (s : State) (b : Bus) (hb : b.attempt = s.bus.attempt) (m n d) :
    (s.setBus b).takeDigit m n d = (s.takeDigit m n d).map fun t => t.setBus b := by
  unfold State.takeDigit
  have : (s.setBus b).headInTransmission = s.headInTransmission := by
    unfold State.headInTransmission; rw [show (s.setBus b).bus = b from rfl, hb]
  dsimp only; rw [this]
  rw [show (s.setBus b).asm = s.asm from rfl, show (s.setBus b).line n = s.line n from rfl, show (s.setBus b).freeCount = s.freeCount from rfl]
  cases appendDigit n d (s.line n).hook.digitsLost s.headInTransmission s.asm.queue with
  | some q => rfl
  | none =>
    dsimp only
    split
    · simp [State.pushReport, State.reconsiderWithheld, State.setQueue, State.freeCount]
      split <;> rfl
    · rfl

/-- Taking one digit leaves the bus record. -/
theorem State.takeDigit_bus (s t : State) (m n d) (h : s.takeDigit m n d = some t) : t.bus = s.bus := by
  unfold State.takeDigit at h; dsimp only at h
  split at h
  · cases h; rfl
  · split at h
    · cases h; simp
    · cases h

/-- Taking digits commutes with such a change. -/
theorem State.takeDigitList_setBus (m n) : ∀ (ds : List Digit) (s : State) (b : Bus), b.attempt = s.bus.attempt →
    State.takeDigitList m n ds (s.setBus b) = (State.takeDigitList m n ds s).setBus b
  | [], _, _, _ => rfl
  | d :: ds, s, b, hb => by
    unfold State.takeDigitList; rw [State.takeDigit_setBus s b hb]
    cases h : s.takeDigit m n d with
    | none => rfl
    | some t => exact State.takeDigitList_setBus m n ds t b (by rw [hb, State.takeDigit_bus _ _ _ _ _ h])

/-- Taking digits leaves the bus record. -/
theorem State.takeDigitList_bus (m n) : ∀ (ds : List Digit) (s : State), (State.takeDigitList m n ds s).bus = s.bus
  | [], _ => rfl
  | d :: ds, s => by
    unfold State.takeDigitList
    cases h : s.takeDigit m n d with
    | none => rfl
    | some t => exact (State.takeDigitList_bus m n ds t).trans (State.takeDigit_bus _ _ _ _ _ h)

/-- Taking every line's digits commutes with such a change. -/
theorem State.takeAllDigits_setBus (s : State) (b : Bus) (hb : b.attempt = s.bus.attempt) (m) :
    (s.setBus b).takeAllDigits m = (s.takeAllDigits m).setBus b := by
  unfold State.takeAllDigits
  generalize allLines = ls
  induction ls generalizing s with
  | nil => rfl
  | cons n ls ih =>
    rw [List.foldl_cons, List.foldl_cons]
    show List.foldl _ (State.takeDigitList m n (s.line n).hook.digits (s.setBus b)) ls = _
    rw [State.takeDigitList_setBus _ _ _ _ _ hb]
    exact ih _ (by rw [hb]; exact congrArg Bus.attempt (State.takeDigitList_bus m n (s.line n).hook.digits s).symm)

/-- The first line that can be placed does not depend on the bus record. -/
theorem State.firstPlaceable_setBus (s : State) (b : Bus) : ∀ ls, (s.setBus b).firstPlaceable ls = s.firstPlaceable ls
  | [] => rfl
  | n :: ls => by
    unfold State.firstPlaceable; rw [State.firstPlaceable_setBus s b ls]; rfl

/-- A placement attempt commutes with a change of the bus record that keeps the link. -/
theorem State.placementAttempt_setBus (s : State) (b : Bus) (hb : b.link = s.bus.link) : (s.setBus b).placementAttempt = s.placementAttempt.setBus b := by
  unfold State.placementAttempt
  rw [State.firstPlaceable_setBus]
  show (if b.link = .joined ∧ s.sched.token = .free then _ else _) = _
  rw [hb]
  split
  · show (match s.firstPlaceable s.pendingList with | some (n, p) => _ | none => _) = _
    cases s.firstPlaceable s.pendingList with
    | none => rfl
    | some x =>
      show (s.setBus b).issueClaim x.1 x.2 = (s.issueClaim x.1 x.2).setBus b
      unfold State.issueClaim
      rw [show (s.setBus b).ring x.1 = s.ring x.1 from rfl]
      cases s.ring x.1 <;> rfl
  · rfl

/-- Dropping a SPENT claim commutes with such a change. -/
theorem State.claimNotCarried_setBus (s : State) (b : Bus) (hb : b.link = s.bus.link) : (s.setBus b).claimNotCarried = s.claimNotCarried.setBus b := by
  unfold State.claimNotCarried State.freeToken
  rw [show (s.setBus b).sched = s.sched from rfl]
  cases s.sched.token with
  | spent n => exact State.placementAttempt_setBus (s.setToken .free) b hb
  | _ => rfl

/-- Dropping a SPENT claim leaves the bus record. -/
theorem State.claimNotCarried_bus (s : State) : s.claimNotCarried.bus = s.bus := by simp

/-- The end of an attempt undischarged commutes with such a change. -/
theorem State.attemptFailed_setBus (s : State) (b : Bus) (hb : b.link = s.bus.link) (x : Sent) :
    (s.setBus b).attemptFailed x = (s.attemptFailed x).setBus { b with attempt := none } := by
  unfold State.attemptFailed
  cases x with
  | claim n =>
    show ((s.setBus { s.bus with attempt := none }).setBus { b with attempt := none }).claimNotCarried.takeAllDigits false = _
    rw [State.claimNotCarried_setBus (s.setBus { s.bus with attempt := none }) { b with attempt := none } hb]
    exact State.takeAllDigits_setBus _ _ (by rw [State.claimNotCarried_bus]; rfl) _
  | refresh => exact State.takeAllDigits_setBus ((s.setBus { s.bus with attempt := none }).setAsm { s.asm with dueInAttempt := false }) { b with attempt := none } rfl _
  | release _ => exact State.takeAllDigits_setBus (s.setBus { s.bus with attempt := none }) { b with attempt := none } rfl _
  | report => exact State.takeAllDigits_setBus (s.setBus { s.bus with attempt := none }) { b with attempt := none } rfl _

/-! ### The report queue and digits (R110, R155) -/

/-- Where the last entry of a line is a DIGITS entry with room, a digit is appended to it. -/
theorem appendDigit_eq_some (n : Line) (d : Digit) (lost : Bool) : ∀ (before : List Report) (busy : Bool) (after : List Report) (ds : List Digit) (b : Bool),
    (∀ r ∈ after, r.line? ≠ some n) → ds.length < 6 → ¬ (before = [] ∧ busy = true) →
    appendDigit n d lost busy (before ++ .digits n ds b :: after) = some (before ++ .digits n (ds ++ [d]) (b || lost) :: after)
  | [], busy, after, ds, b, ha, hd, hb => by
    have h1 : after.any (fun x => x.line? == some n) = false := by
      rw [List.any_eq_false]; intro r hr; simpa using ha r hr
    show appendDigit n d lost busy (.digits n ds b :: after) = _
    unfold appendDigit
    rw [if_neg (by rw [h1]; simp)]; dsimp only
    rw [if_pos ⟨rfl, hd, by simpa using hb⟩]; rfl
  | r :: before, busy, after, ds, b, ha, hd, hb => by
    show appendDigit n d lost busy (r :: (before ++ .digits n ds b :: after)) = _
    unfold appendDigit
    rw [if_pos (by simp [Report.line?]), appendDigit_eq_some n d lost before false after ds b ha hd (by simp)]; rfl

/-- Where a digit is appended, it is to the last entry of the line, a DIGITS entry with room. -/
theorem eq_of_appendDigit (n : Line) (d : Digit) (lost : Bool) : ∀ (q : List Report) (busy : Bool) (q' : List Report), appendDigit n d lost busy q = some q' →
    ∃ before after ds b, q = before ++ .digits n ds b :: after ∧ (∀ r ∈ after, r.line? ≠ some n) ∧ ds.length < 6 ∧ ¬ (before = [] ∧ busy = true) ∧
      q' = before ++ .digits n (ds ++ [d]) (b || lost) :: after := by
  intro q
  induction q with
  | nil => intro b q' h; cases h
  | cons r rs ih =>
    intro busy q' h
    unfold appendDigit at h
    split at h
    · rw [Option.map_eq_some_iff] at h
      obtain ⟨x, hx, rfl⟩ := h
      obtain ⟨before, after, ds, b, rfl, h2, h3, h4, rfl⟩ := ih _ _ hx
      exact ⟨r :: before, after, ds, b, rfl, h2, h3, by simp, rfl⟩
    · rename_i hn
      split at h
      · rename_i m ds l
        split at h
        · rename_i hc
          cases h
          obtain ⟨rfl, h2, h3⟩ := hc
          refine ⟨[], rs, ds, l, rfl, fun r hr => ?_, h2, by simp [h3], rfl⟩
          intro e; exact hn (List.any_eq_true.2 ⟨r, hr, by simp [e]⟩)
        · cases h
      · cases h

/-- The head entry is in transmission exactly while a report attempt is. -/
theorem State.headInTransmission_iff (s : State) : s.headInTransmission = true ↔ ∃ a : Attempt, s.bus.attempt = some a ∧ a.sent = .report := by
  unfold State.headInTransmission
  cases s.bus.attempt with
  | none => simp
  | some a => simp

/-! ### Hook records -/

/-- The debounced state is the majority of the last three raw states (R99). -/
theorem RawStates.majority_iff_debounced (r : RawStates) (x : Loop) : Majority r x ↔ r.debounced = x := by
  obtain ⟨a, b, c⟩ := r
  cases a <;> cases b <;> cases c <;> cases x <;> simp [Majority, RawStates.debounced]

/-- Digits taken for one line leave the hook record of every other line. -/
theorem State.takeDigitList_hook_ne (b : Bool) (n m : Line) (h : m ≠ n) (ds : List Digit) : ∀ s : State, ((State.takeDigitList b n ds s).line m).hook = (s.line m).hook := by
  induction ds with
  | nil => intro s; rfl
  | cons d ds ih =>
    intro s
    unfold State.takeDigitList; split
    · rename_i t ht
      rw [ih]
      unfold State.takeDigit at ht; dsimp only at ht
      split at ht
      · cases ht; rw [State.line_onLine, if_neg h]; rfl
      · split at ht
        · cases ht; simp [State.line_onLine, h]
        · cases ht
    · rfl

/-- Digits taken leave all of a hook record but its digit store and digits-lost flag. -/
theorem State.takeDigitList_hook (b : Bool) (n m : Line) (ds : List Digit) : ∀ s : State,
    let t := State.takeDigitList b n ds s
    (t.line m).hook.mode = (s.line m).hook.mode ∧ (t.line m).hook.state = (s.line m).hook.state ∧ (t.line m).hook.pulses = (s.line m).hook.pulses ∧ (t.line m).hook.makeTimer = (s.line m).hook.makeTimer ∧
    (t.line m).hook.breakTimer = (s.line m).hook.breakTimer ∧ (t.line m).hook.seizeTimer = (s.line m).hook.seizeTimer ∧ (t.line m).hook.dialTimer = (s.line m).hook.dialTimer ∧ (t.line m).hook.raw = (s.line m).hook.raw ∧ (t.line m).hook.glitchTold = (s.line m).hook.glitchTold := by
  induction ds with
  | nil => intro s; simp [State.takeDigitList]
  | cons d ds ih =>
    intro s
    unfold State.takeDigitList; split
    · rename_i t ht
      have := ih t
      dsimp only at this ⊢
      simp only [this]
      unfold State.takeDigit at ht; dsimp only at ht
      split at ht
      · cases ht; rw [State.line_onLine]; split
        · subst m; simp [LineState.digitTaken]
        · simp
      · split at ht
        · cases ht; simp; rw [State.line_onLine]; split
          · subst m; simp [LineState.digitTaken]
          · simp
        · cases ht
    · simp

/-- A train completed on one line leaves the hook record of every other line. -/
theorem State.completeTrain_hook_ne (s : State) (n m : Line) (h : m ≠ n) : ((s.completeTrain n).line m).hook = (s.line m).hook := by
  unfold State.completeTrain; dsimp only; split
  · unfold State.takeDigits; rw [State.takeDigitList_hook_ne _ _ _ h]; simp [State.line_onLine, State.line_onHook, h]
  · simp [State.line_onHook, h]

/-- A completed train leaves pulses 0 and no make timer, and states, mode and the other timers as they were. -/
theorem State.completeTrain_hook (s : State) (n : Line) :
    let t := s.completeTrain n
    (t.line n).hook.mode = (s.line n).hook.mode ∧ (t.line n).hook.state = (s.line n).hook.state ∧ (t.line n).hook.raw = (s.line n).hook.raw ∧ (t.line n).hook.breakTimer = (s.line n).hook.breakTimer ∧ (t.line n).hook.seizeTimer = (s.line n).hook.seizeTimer ∧ (t.line n).hook.pulses = 0 ∧ (t.line n).hook.makeTimer = none := by
  unfold State.completeTrain; dsimp only; split
  · unfold State.takeDigits
    have := State.takeDigitList_hook true n n (((s.onHook n fun h => { h with pulses := 0, makeTimer := none }).onLine n (LineState.storeDigit (Fin.ofNat 10 (s.line n).hook.pulses))).line n).hook.digits ((s.onHook n fun h => { h with pulses := 0, makeTimer := none }).onLine n (LineState.storeDigit (Fin.ofNat 10 (s.line n).hook.pulses)))
    dsimp only at this ⊢
    simp only [this]
    simp [State.line_onHook, LineState.storeDigit]; split <;> simp
  · simp [State.line_onHook]

/-- On an IDLE line there is no trip to take. -/
theorem State.takeTrip_of_idle (s : State) (n) (h : s.ring n = .idle) : s.takeTrip n = s := by
  unfold State.takeTrip
  have : (s.line n).tripPlace = none := by
    unfold LineState.tripPlace; have h' : (s.line n).ring = .idle := h
    rw [h']
  rw [this]

/-- The test of a break for the glitch limit keeps the hook state. -/
theorem State.testGlitchLimit_state (s : State) (n : Line) : ((s.testGlitchLimit n).line n).hook.state = (s.line n).hook.state := by
  unfold State.testGlitchLimit State.tellGlitchLimit; dsimp only; (repeat' split) <;> simp [State.line_onHook]

/-- The test of a break for the glitch limit is what GLITCH_LIMIT_REACHED does once the limit is reached (R104). -/
theorem State.testGlitchLimit_tested (a : State) (n : Line) (hs : a.serves n = true) (hb : (a.line n).hook.state = .brk) : GlitchTested a n (a.testGlitchLimit n) := by
  intro d hd
  unfold State.testGlitchLimit; dsimp only; rw [hd]; dsimp only
  refine ⟨fun h1 h2 => ?_, fun h => ?_⟩
  · rw [if_pos ⟨h1, h2⟩]
    show Host.Outcome.next (ite _ _ _) = _
    rw [if_pos (by simp [hs, hb, h2])]
    congr 1
    have : (a.onHook n fun h => { h with breakTimer := some (max (h.breakTimer.getD 0) (eighths a.params.timing.glitch)) }) = a := by
      have e : ({ (a.line n) with hook := { (a.line n).hook with breakTimer := some (max ((a.line n).hook.breakTimer.getD 0) (eighths a.params.timing.glitch)) } } : LineState) = a.line n := by
        rw [hd]; simp only [Option.getD_some]
        rw [Nat.max_eq_left (show eighths _ ≤ d from h1), ← hd]
      refine (congrArg (a.setLine n) e).trans ?_
      exact State.setLine_eta a n
    rw [this]
  · rw [if_neg]; rintro ⟨h1, h2⟩
    rcases h with h | h
    · unfold eighths at h1; omega
    · rw [h] at h2; cases h2

/-- What the supervisor's pass over a line that is not PARKED can do: the raw state and the time are taken, and then the rules of its hook state (R99 to R108). -/
theorem State.superviseWindow_moved (u : State) (n : Line) (w : Nat) (x : Option Loop) (hs : u.serves n = true) (hm : (u.line n).hook.mode ≠ .parked) :
    HookMoved (Advanced u n ((u.line n).hook.raw.enter x) w) n (u.superviseWindow n w x) := by
  unfold State.superviseWindow; rw [if_neg hm]; dsimp only
  rw [show (u.onHook n fun h => { h.advance w with raw := h.raw.enter x }) = Advanced u n ((u.line n).hook.raw.enter x) w from rfl]
  have hs' : (Advanced u n ((u.line n).hook.raw.enter x) w).serves n = true := hs
  have hpp : u.params = (Advanced u n ((u.line n).hook.raw.enter x) w).params := rfl
  rw [hpp]; clear hpp
  clear hs
  generalize (Advanced u n ((u.line n).hook.raw.enter x) w) = a at *
  have ml : ∀ y, Majority (a.line n).hook.raw y ↔ (a.line n).loop = y := fun y => RawStates.majority_iff_debounced _ _
  unfold HookMoved; dsimp only
  simp only [ml]
  cases hst : (a.line n).hook.state with
  | onHook =>
    simp only [reduceCtorEq, false_implies, implies_true, forall_const, true_implies, and_true]
    cases hd : (a.line n).loop with
    | opened => simp
    | closed => simp [State.beginSeizing]; rfl
  | seizing =>
    simp only [reduceCtorEq, false_implies, implies_true, forall_const, true_implies, and_true, true_and]
    intro d hd
    have ex : exec (.seizeConfirm n) a = .next (a.trySeize n) := by
      show Host.Outcome.next (ite _ _ _) = _
      rw [if_pos (by simp [hs', hst])]
    rw [ex]; unfold State.trySeize; rw [hd]; simp only [Option.getD_some]
    cases hl : (a.line n).loop with
    | opened => simp
    | closed =>
      simp only [reduceCtorEq, false_or, true_implies]
      refine ⟨fun h => ?_, fun h => ?_⟩
      · rw [if_pos (show eighths _ ≤ d from h)]
      · rw [if_neg (by unfold eighths; omega)]
  | offHook =>
    simp only [reduceCtorEq, false_implies, implies_true, forall_const, true_implies, and_true, true_and]
    have td : (a.line n).hook.pulses ≠ 0 ∧ (∃ d, (a.line n).hook.makeTimer = some d ∧ 8 * a.params.timing.interdigit ≤ d) ↔ a.trainDue n = true := by
      unfold State.trainDue HookRecord.inTrain eighths; dsimp only
      cases (a.line n).hook.makeTimer <;> simp
    rw [td]
    refine ⟨fun h => ?_, fun h hl => ?_, fun h hl => ?_⟩
    · show Host.Outcome.next (ite _ _ _) = _
      rw [if_pos (by simp [hs', hst, HookRecord.inTrain]; exact (td.2 h).1), h]
    · unfold State.offHookWindow; dsimp only; rw [if_neg h, hl]
    · unfold State.offHookWindow; dsimp only; rw [if_neg h, hl]
      unfold State.beginBreak
      exact State.testGlitchLimit_tested _ n hs' (by simp [State.line_onHook])
  | brk =>
    simp only [reduceCtorEq, false_implies, implies_true, forall_const, true_implies, and_true, true_and]
    intro d hd
    refine ⟨a.testGlitchLimit n, State.testGlitchLimit_tested a n hs' hst, fun h => ?_, fun h hl => ?_, fun h hl => ?_⟩
    · show Host.Outcome.next (ite _ _ _) = _
      have sv : (a.testGlitchLimit n).serves n = true := by
        have := State.testGlitchLimit_keeps (s := a) n
        unfold State.serves State.running State.inUse State.lineCount at *; rw [this.1, this.2.1]; exact hs'
      rw [if_pos (by rw [sv, State.testGlitchLimit_state a n, hst]; rfl)]
      unfold State.breakWindow; dsimp only; rw [hd, Option.getD_some, if_pos (show eighths _ < d from h)]
    · unfold State.breakWindow; dsimp only; rw [hd, Option.getD_some, if_neg (show ¬ eighths _ < d by unfold eighths; omega), hl]
    · unfold State.breakWindow; dsimp only; rw [hd, Option.getD_some, if_neg (show ¬ eighths _ < d by unfold eighths; omega), hl]

/-! ### The crystal period: pins and the close of the marker window (R3, R7, R10, R82) -/

/-- `run` gives the state that `exec` answers. -/
theorem State.exec_run (c : Instr) (s : State) : exec c s = .next (s.run c) := by
  unfold State.run; cases c <;> rfl

/-- The Cadence Timer at the close of the window is as R7 says. -/
theorem Cadence.closeWindow_closed (c : Cadence) : c.closeWindow = WindowClosed c := by
  unfold Cadence.closeWindow WindowClosed; split
  · rfl
  · split
    · rename_i q; simp [q]
    · rename_i q; cases c; simp_all; omega

/-- The window of slot 0 closes where its timer reads 40 ms, if it has not closed, and nothing else changes. -/
theorem State.closeDue_closed (s : State) :
    (s.cadence.slot = 0 → s.cadence.slotTimer = 40 → s.cadence.past = false → s.closeDue = { s with cadence := WindowClosed s.cadence }) ∧
    (¬ (s.cadence.slot = 0 ∧ s.cadence.slotTimer = 40 ∧ s.cadence.past = false) → s.closeDue = s) := by
  have w : s.closeWindow = { s with cadence := WindowClosed s.cadence } := by rw [← Cadence.closeWindow_closed]; rfl
  unfold State.closeDue Cadence.closing lateUpTo
  exact ⟨fun h1 h2 h3 => by simp [h1, h2, h3, w], fun h => if_neg (by simpa [and_assoc] using h)⟩

/-- As the reading of 40 ms runs out an open window closes, and a marker edge seen there finds slot 0 past 40 ms, in either order of the two (R7). -/
theorem State.closeMs_closed (s : State) :
    (s.cadence.closing = true → s.cymEdge = false → s.closeMs = { s with cadence := WindowClosed s.cadence }) ∧
    (s.cadence.closing = true → s.cymEdge = true → s.closeMs =
      { s with cadence := { (if s.order.lateClose = true then s.cadence else WindowClosed s.cadence) with slotTimer := 41 } }) ∧
    (s.cadence.closing = false → s.closeMs = s) := by
  have w : s.closeWindow = { s with cadence := WindowClosed s.cadence } := by rw [← Cadence.closeWindow_closed]; rfl
  refine ⟨fun h e => ?_, fun h e => ?_, fun h => ?_⟩
  · simp [State.closeMs, State.closeDue, h, e, w]
  · cases l : s.order.lateClose <;> simp [State.closeMs, State.closeDue, h, e, w, l, State.setCadence, pastWindow]
  · simp [State.closeMs, State.closeDue, h]

/-- `t` is `s` with the pulse counter of each of these lines, where it is in use, raised by the leading edge on its pin. -/
def SensePulsesCounted (s : State) (pins : Pins) (last : LastRead) (ls : List Line) (t : State) : Prop :=
  t = { s with lines := t.lines } ∧ ∀ n : Line,
    let edge := n ∈ ls ∧ s.serves n = true ∧ pins.sns.getLsbD n.val = true ∧ last.sns.getLsbD n.val = false
    (edge → t.line n = { s.line n with sense := { (s.line n).sense with counter := min 4095 ((s.line n).sense.counter + 1) } }) ∧
    (¬ edge → t.line n = s.line n)

/-- Each line's edge is counted once. -/
theorem sensePulses_counted (pins : Pins) (last : LastRead) : ∀ (ls : List Line) (s : State), ls.Nodup →
    SensePulsesCounted s pins last ls (ls.foldl (fun t n => if pins.sns.getLsbD n.val && !last.sns.getLsbD n.val then t.run (.sensePulseEdge n) else t) s) := by
  intro ls; induction ls with
  | nil => intro s _; exact ⟨rfl, fun n => ⟨fun h => (by simp at h), fun _ => rfl⟩⟩
  | cons m ls ih =>
    intro s hd
    rw [List.foldl_cons]
    rw [List.nodup_cons] at hd
    generalize hu : (if (pins.sns.getLsbD m.val && !last.sns.getLsbD m.val) = true then s.run (.sensePulseEdge m) else s) = u
    have key : u = { s with lines := u.lines } ∧ (∀ n, n ≠ m → u.line n = s.line n) ∧
       ((s.serves m = true ∧ pins.sns.getLsbD m.val = true ∧ last.sns.getLsbD m.val = false) → u.line m = { s.line m with sense := { (s.line m).sense with counter := min 4095 ((s.line m).sense.counter + 1) } }) ∧
       (¬ (s.serves m = true ∧ pins.sns.getLsbD m.val = true ∧ last.sns.getLsbD m.val = false) → u.line m = s.line m) := by
      rw [← hu]
      split
      · rename_i he
        simp only [Bool.and_eq_true, Bool.not_eq_eq_eq_not, Bool.not_true] at he
        simp only [State.run, exec, execSensePulseEdge]
        split
        · rename_i hs
          refine ⟨rfl, fun n hn => State.line_onLine_ne s hn _, fun _ => State.line_onLine_same .., fun h => absurd ⟨?_, he⟩ h⟩
          exact hs
        · rename_i hs
          refine ⟨rfl, fun n hn => rfl, fun h => absurd ?_ hs, fun h => rfl⟩
          exact h.1
      · rename_i he
        refine ⟨rfl, fun n hn => rfl, fun h => absurd ?_ he, fun h => rfl⟩
        rw [h.2.1, h.2.2]; rfl
    clear hu
    obtain ⟨k1, k2, k3, k4⟩ := key
    have i := ih u hd.2
    have ui : ∀ n, u.serves n = s.serves n := fun n => by rw [k1]; rfl
    refine ⟨?_, fun n => ⟨fun h => ?_, fun h => ?_⟩⟩
    · rw [i.1]; rw [k1]
    · obtain ⟨h1, h2⟩ := h
      by_cases hn : n = m
      · subst hn
        rw [(i.2 n).2 (fun h => hd.1 h.1)]; exact k3 h2
      · rw [(i.2 n).1 ⟨by simpa [hn] using h1, by rw [ui]; exact h2⟩, k2 n hn]
    · by_cases hn : n = m
      · subst hn
        rw [(i.2 n).2 (fun h => hd.1 h.1)]; exact k4 (fun q => h ⟨List.mem_cons_self, q⟩)
      · rw [(i.2 n).2 (fun q => h ⟨List.mem_cons_of_mem _ q.1, by rw [← ui]; exact q.2⟩), k2 n hn]

/-- The reading of the pins counts the edges on SNSn and then takes the marker and the mark. -/
theorem State.readPins_read (s : State) : PinsRead s s.readPins := by
  have ed := sensePulses_counted s.pins s.last allLines s (by decide)
  have es' : s.readSense = allLines.foldl (fun t n => if s.pins.sns.getLsbD n.val && !s.last.sns.getLsbD n.val then t.run (.sensePulseEdge n) else t) s := rfl
  rw [← es'] at ed
  have em : ∀ n : Line, n ∈ allLines := fun n => List.mem_finRange n
  refine ⟨s.readSense, if s.pins.cym && !s.last.cym then s.readSense.run .cycleMarker else s.readSense, if s.pins.zcm && !s.last.zcm then (if s.pins.cym && !s.last.cym then s.readSense.run .cycleMarker else s.readSense).run .zeroCrossMark else (if s.pins.cym && !s.last.cym then s.readSense.run .cycleMarker else s.readSense), ed.1, fun n => ?_, fun h1 h2 => ?_, fun h => ?_, fun h1 h2 => ?_, fun h => ?_, rfl⟩
  · have := ed.2 n
    dsimp only at this ⊢
    exact ⟨fun h => this.1 ⟨em n, h⟩, fun h => this.2 fun q => h q.2⟩
  · rw [h1, h2]; exact State.exec_run _ _
  · rw [if_neg (by rcases h with h | h <;> simp [h])]
  · rw [h1, h2]; exact State.exec_run _ _
  · generalize (if s.pins.cym && !s.last.cym then s.readSense.run .cycleMarker else s.readSense) = u
    rw [if_neg (by rcases h with h | h <;> simp [h])]

end Sys2Proof.Machine
end

