-- ==== Sys2Proof/Tests/Slice0.lean ====
section
/-! SUPPORT. Tests: the ill-formed terms that `wellFormed` refuses, notice bytes written out from the spec, worked figures of the spec, and for each
statement with hypotheses a state that meets them. Expected values are the spec's own, or hand calculation from its rules. -/

namespace Sys2Proof.Tests

set_option Elab.async false

open Sys2Proof.Machine Sys2Proof.Claims

/-! ### Helpers -/

/-- The state that a command answers. -/
def after (c : Instr) (s : State) : State :=
  match exec c s with
  | .next t => t
  | .fault _ => s
  | .refused _ => s

/-- Reset with the work begun on default parameters, JOINED, the receiver IDLE. -/
def up : State := { State.reset with phase := .running, bus := { State.reset.bus with link := .joined, rx := .idle, idle := 12 } }

/-- Reset with a memory fitted. -/
def fitted : State := { State.reset with straps := { State.reset.straps with cfgp := true } }

/-- An order for pattern 0 that has run for no cycle. -/
def order : Order := { pattern := 0, limit := 23, elapsed := 0, deferred := false, rung := false }

/-- Pattern 0 at offset 0: slots 0 and 1. -/
def place : Placement := { offset := 0, mask := 0b00000011#8 }

/-- `s` with line `n`'s relay pair standing so. -/
def withRelay (s : State) (n : Line) (p : Position) (o : Relay) (w : ZcWait) (d : Nat) : State :=
  s.setLine n { s.line n with relay := { (s.line n).relay with position := p, lastOpened := o, wait := w, deadTimer := d } }

/-- `s` with line `n`'s hook record changed. -/
def withHook (s : State) (n : Line) (f : HookRecord → HookRecord) : State :=
  s.setLine n { s.line n with hook := f (s.line n).hook }

/-- `s` with line `n`'s ring record replaced. -/
def withRing (s : State) (n : Line) (r : RingRecord) : State := s.setLine n { s.line n with ring := r }

/-- Line 2 of `up` RINGING in pattern 0 at offset 0, alone in the lists and the view. -/
def ringing : State :=
  let s := withRing up 2 (.ringing { order with rung := true } place false)
  { s with sched := { accepted := [2], commits := [2], token := .free }
           table := { s.table with own := #v[1, 1, 0, 0, 0, 0, 0, 0], shelf := #v[1, 1, 0, 0, 0, 0, 0, 0] } }

/-- Line 2 of `up` CLAIMING with the token. -/
def claiming : State :=
  let s := withRing up 2 (.claiming order place)
  { s with sched := { accepted := [2], commits := [], token := .held 2 } }

/-- An attempt of the own station on the wire. -/
def attempt (x : Sent) : Attempt := { sent := x, bytes := [0x43#8, 0x0B#8], sample := 20 }

/-- `s` sending this. -/
def sending (s : State) (x : Sent) : State := { s with bus := { s.bus with rx := .receiving, attempt := some (attempt x) } }

/-- `s` with a notice of another station in its receive buffer. -/
def hearing (s : State) : State := { s with bus := { s.bus with rx := .receiving } }

/-- Line 2's claim on the wire, its line IDLE again and the token SPENT. -/
def spent : State := { sending up (.claim 2) with sched := { up.sched with token := .spent 2 } }

/-- A notice from control station 48 to address 0, with a payload. -/
def control (rest : List Byte) : Notice := { cls := 0, sender := 48#6, payload := 0#8 :: rest }

/-- A refresh of station 6: totals 0, this budget, flags and counts 0. -/
def refreshOf (budget : Byte) : Notice := { cls := 3, sender := 6#6, payload := List.replicate 8 0#8 ++ [budget, 0#8, 0#8] }

/-! ### Ill-formed commands (R133, R141, R143, R157, R168) -/

theorem test_image_of_47_bytes_refused : (Instr.endOfLoading (.image (List.replicate 47 0#8))).wellFormed = false := by decide
theorem test_image_of_48_bytes_accepted : (Instr.endOfLoading (.image (List.replicate 48 0#8))).wellFormed = true := by decide
theorem test_payload_of_13_bytes_refused : (Instr.query { cls := 0, sender := 48#6, payload := List.replicate 13 0#8 }).wellFormed = false := by decide
theorem test_claim_from_address_24_refused : (Instr.claimReceived { cls := 1, sender := 24#6, payload := [] }).wellFormed = false := by decide
theorem test_order_from_address_47_refused : (Instr.cancel { cls := 0, sender := 47#6, payload := [] }).wellFormed = false := by decide
theorem test_order_from_address_56_refused : (Instr.cancel { cls := 0, sender := 56#6, payload := [] }).wellFormed = false := by decide
theorem test_kind_12_refused : (Instr.reportNoticeHeard 12 { cls := 2, sender := 5#6, payload := [] }).wellFormed = false := by decide
theorem test_loss_to_all_ones_refused : (Instr.arbitrationLoss 0xFF#8).wellFormed = false := by decide
theorem test_false_start_with_a_byte_refused : (Instr.startEdge false 0x01#8).wellFormed = false := by decide

/-! ### Notice bytes (9-10, 8-12, R130, R164, R165) -/

/-- 9-10: the running CRC values of 85H 83H 02H 00H 00H. -/
theorem test_crc_of_the_worked_report :
    [crc8 [0x85#8], crc8 [0x85#8, 0x83#8], crc8 [0x85#8, 0x83#8, 0x02#8], crc8 [0x85#8, 0x83#8, 0x02#8, 0#8],
      crc8 [0x85#8, 0x83#8, 0x02#8, 0#8, 0#8]] = [0x92#8, 0x77#8, 0x4C#8, 0xE3#8, 0xA7#8] := by decide

/-- 9-10: the bytes on the wire are a report of station 5, class 2. -/
theorem test_worked_report_decodes : decodeNotice [0x85#8, 0x83#8, 0x02#8, 0x00#8, 0x00#8, 0xA7#8] =
    .reportNoticeHeard 8 { cls := 2, sender := 5#6, payload := [0x02#8, 0x00#8, 0x00#8] } := by decide +kernel

/-- One wrong bit of the check byte makes the notice invalid (R143). -/
theorem test_wrong_check_byte_is_invalid : decodeNotice [0x85#8, 0x83#8, 0x02#8, 0x00#8, 0x00#8, 0xA6#8] = .noticeInvalid := by decide +kernel

/-- A length below the buffer's makes the notice invalid (R143). -/
theorem test_wrong_length_is_invalid : decodeNotice [0x85#8, 0x82#8, 0x02#8, 0x00#8, 0x00#8, crc8 [0x85#8, 0x82#8, 0x02#8, 0x00#8, 0x00#8]] =
    .noticeInvalid := by decide +kernel

/-- 8-12: a claim of class 1 from station 3 begins 43H 0BH. -/
theorem test_claim_head : ((encodeNotice (.claimReceived { cls := 1, sender := 3#6, payload := List.replicate 11 0#8 })).map (List.take 2)) =
    some [0x43#8, 0x0B#8] := by decide

/-- Kinds 0 to 7 of 9-9, each with a two-byte payload from station 48, class 0. -/
theorem test_kinds_decode : ([0x02#8, 0x12#8, 0x22#8, 0x32#8, 0x42#8, 0x52#8, 0x62#8, 0x72#8].map fun k =>
      decodeNotice [0x30#8, k, 0x05#8, 0x01#8, crc8 [0x30#8, k, 0x05#8, 0x01#8]]) =
    (let w : Notice := { cls := 0, sender := 48#6, payload := [0x05#8, 0x01#8] }
     [.claimReceived w, .releaseReceived w, .refreshReceived w, .ringOrder w, .cancel w, .toneOrder w, .modeOrder w, .query w]) := by decide +kernel

/-- No row of the table has bits. -/
theorem test_no_row_has_bits : decodeTableWord 8 0 = none := by decide

/-! ### Worked figures -/

/-- 5-4: the readings of the table. -/
theorem test_worked_readings : [readingOf 0 36, readingOf 1 28, readingOf 1000 28, readingOf 1000 36, readingOf 2100 29, readingOf 3583 28,
      readingOf 3584 28, readingOf 3900 28, readingOf 4095 36] = [0, 1, 1143, 889, 2317, 4095, 4095, 4095, 4095] := by decide

/-- 3-7: station 5, weight 2, pattern 0. -/
theorem test_worked_placement : placement 5 #v[5, 3, 2, 2, 4, 1, 0, 3] 6 2 0b00000011#8 = some { offset := 5, mask := 0b01100000#8 } := by decide

/-- 1-11: pattern 5 at offset 2 gives slots 2, 3, 6 and 7. -/
theorem test_worked_rotation : rotatedMask 0b00110011#8 2 = 0b11001100#8 := by decide

/-- 1-11: the totals of lines 0, 3 and 6 with weights 2, 1 and 3. -/
theorem test_worked_totals :
    (let p := { Params.default with line := { LineParams.default with weights := #v[2, 1, 1, 1, 1, 1, 3, 1] } }
     let r (k : Fin 8) (o : Slot) : RingRecord := .ringing { order with pattern := k } { offset := o, mask := rotatedMask (p.pattern k) o } false
     (withRing (withRing (withRing { up with params := p } 0 (r 0 5)) 3 (r 2 1)) 6 (r 5 2)).ownTotals) = #v[0, 1, 3, 4, 0, 3, 5, 3] := by
  decide

/-! ### The loader (10-6) -/

/-- The image of 10-6, but for its check byte: ring 10 and 30, line 5 of weight 0, timing 10, 5, 30, 28, 175, 50, 20, other groups as the defaults. -/
def imageBody (budget weight5 : Byte) : List Byte :=
  [0x4D#8, 0x32#8, budget, 30#8, 0x03#8, 0x05#8, 0x15#8, 0x01#8, 0x07#8, 0x33#8, 0x09#8, 0#8] ++
  [1#8, 1#8, 1#8, 1#8, 1#8, weight5, 1#8, 1#8] ++ [10#8, 5#8, 30#8, 28#8, 175#8, 50#8, 20#8] ++
  [0#8, 80#8, 1#8, 0x90#8, 2#8, 0x58#8, 6#8, 0x40#8] ++ [12#8, 2#8, 3#8] ++ [1#8, 0x90#8, 3#8] ++ List.replicate 6 0#8

/-- The image with its check byte. -/
def image (budget weight5 : Byte) : List Byte := imageBody budget weight5 ++ [crc8 (imageBody budget weight5)]

/-- 10-6: the line and timing groups take their defaults, the others their values. -/
theorem test_worked_image : let t := after (.endOfLoading (.image (image 10#8 0#8))) fitted
    t.loader.defaulted = { ring := false, line := true, timing := true, threshold := false, relay := false, tone := false } ∧
    t.params.ring.budget = 10 ∧ t.params.timing = TimingParams.default ∧ t.loader.configDefaulted = true := by decide +kernel

/-! ### One step of a family -/

/-- R2, R5: a marker found at 40 ms of slot 0 is late, and times slot 0 from itself. -/
theorem test_late_marker : (let s := { up with cadence := { up.cadence with slotTimer := 40 } }
    (after .cycleMarker s).cadence.slotTimer) = 0 := by decide

/-- R68: with ZC LOST set the dead time closes the ring relay at once. -/
theorem test_ring_relay_closes_without_marks :
    (let s := withRelay { up with cadence := { up.cadence with zcLost := true } } 4 .toRing .feed .none 11
     (after (.deadTimeToRing 4) s).ringClosed 4) = true := by decide

/-- R105, R107: a break of exactly the glitch limit is a pulse. -/
theorem test_break_of_glitch_limit_is_a_pulse : (((withHook up 1 fun h => { h with state := .brk, breakTimer := some 160 }).endBreak 1 160).line 1).hook.pulses = 1 := by
  decide

/-- R108: ten pulses are the digit 0. -/
theorem test_ten_pulses_are_digit_zero :
    (let s := withHook up 1 fun h => { h with state := .offHook, raw := ⟨.closed, .closed, .closed⟩, pulses := 10, makeTimer := some 1600 }
     (after (.interdigitMake 1) s).asm.queue) = [.digits 1 [0] false] := by decide

/-- R76: a trip in a silent slot has the place OFF. -/
theorem test_trip_in_a_silent_slot : (after (.ringTrip 2) ringing).asm.queue = [.event 2 (.ringTripped .off)] := by decide

/-- R144: the error tally stops at 15. -/
theorem test_error_tally_stops : (after .noticeInvalid { up with bus := { up.bus with rx := .receiving, errors := 15 } }).bus.errors = 15 := by decide

/-! ### States that meet the hypotheses of the statements, clause by clause at the bounds of the ranges -/

/-- `up` in a slot of the cycle, this many milliseconds into it. -/
def inSlot (j : Slot) (t : Nat) : State := { up with cadence := { up.cadence with slot := j, slotTimer := t } }

/-- `up` with this link state and period count. -/
def linked (k : Link) (p : Nat) : State := { up with bus := { up.bus with link := k, period := p } }

/-- Line 2 of `up` PENDING with this order. -/
def pending (o : Order) : State :=
  let s := withRing up 2 (.pending o)
  { s with sched := { accepted := [2], commits := [], token := .free } }

/-- `up` with a view in which this budget governs and the load is 12 in every slot, all of it station 6's. -/
def crowded (b : Nat) : State :=
  { up with table := { up.table with peers := up.table.peers.set 6 (some { totals := Vector.replicate 8 12, budget := some b, age := 0 })
                                     shelf := Vector.replicate 8 12, budget := b, mismatch := b != 12 } }

/-- Line 3 of `up` with hook record, timers and pulses for a break of `d` eighth-milliseconds. -/
def breaking (d : Nat) (x : Loop) : State :=
  withHook up 3 fun h => { h with state := .brk, breakTimer := some d, raw := ⟨x, x, x⟩ }

/-- The last crystal period of a millisecond, of an eighth and of a bus sample, and one of none of them; slot timers 498 and 499, zero-cross timers 58, 59 and
60, window timers 30 and 31 of a window of 32; an idle counter of 11 with 14 and 15 samples. -/
theorem witness_IdleStepIsOneCrystalPeriod :
    (State.reset.pending = [] ∧ State.reset.pins.rst = false ∧ State.reset.phase ≠ .held) ∧
    ({ State.reset with pins := { State.reset.pins with rst := true } } : State).pins.rst = true ∧
    (let s : State := { State.reset with phase := .held }; s.pending = [] ∧ s.pins.rst = false ∧ s.phase = .held) ∧
    (up.pending = [] ∧ up.pins.rst = false ∧ up.phase = .running ∧ up.pins.cym = false ∧ up.pins.zcm = false ∧ up.pins.nbLow = false) ∧
    ((4095 + 1) % 4096 = 0 ∧ (511 + 1) % 4096 % 512 = 0 ∧ (7 + 1) % 4096 % 8 = 0 ∧ (0 + 1) % 4096 % 8 ≠ 0) ∧
    (498 < 499 ∧ 499 ≤ 499 ∧ 58 < 59 ∧ 60 ≤ 60 ∧ 30 + 1 < lengthOf up.sense.dither ∧ lengthOf up.sense.dither ≤ 31 + 1) ∧
    (up.bus.rx = .idle ∧ up.bus.byte = none ∧ up.bus.busHeld = false ∧ up.bus.attempt = none ∧ 11 < 12 ∧ 14 + 1 < 16 ∧ ¬ 15 + 1 < 16) := by
  decide

/-- The millisecond in which loading ends: CFGP low; the transfer over; the transfer ending in this crystal period; and one in which it goes on. Edges on
SNS, CYM and ZCM. -/
theorem witness_IdleStepIsOneCrystalPeriod_loading :
    (let s : State := { State.reset with crystal := 4095 }
     s.pins.rst = false ∧ s.phase = .loading ∧ (s.crystal + 1) % 4096 = 0 ∧ s.straps.cfgp = false ∧ s.cadence.slotTimer < 499 ∧ s.cadence.zcTimer ≠ 59) ∧
    ({ fitted.loader with finished := true } : Loader).finished = true ∧
    (({ fitted.loader with position := 452 * 32 - 1 } : Loader).clock true).finished = true ∧
    (fitted.straps.cfgp = true ∧ fitted.loader.finished = false ∧ (fitted.loader.clock true).finished = false) ∧
    (let s : State := { up with pins := { up.pins with sns := 0x01#8, cym := true, zcm := true } }
     s.serves 0 = true ∧ s.pins.sns.getLsbD 0 = true ∧ s.last.sns.getLsbD 0 = false ∧ s.pins.cym = true ∧ s.last.cym = false ∧ s.pins.zcm = true ∧
       s.last.zcm = false) := by decide +kernel

/-- R166, R168: loading ends at the first millisecond with CFGP low, and with it high only once the transfer is over. -/
theorem test_loading_ends_at_a_millisecond :
    (({ State.reset with crystal := 4094 } : State).advance.phase, ({ State.reset with crystal := 4095 } : State).advance.phase,
      ({ fitted with crystal := 4095 } : State).advance.phase,
      ({ fitted with crystal := 4095, loader := { fitted.loader with finished := true } } : State).advance.phase) =
    (.loading, .running, .loading, .running) := by decide +kernel

/-- CFGDA as a memory that answers drives it: both answer bits low, then these bytes, most significant bit first, each with its answer clock. -/
def memory (image : List Byte) (k : Nat) : Bool :=
  19 ≤ k / 32 && ((k / 32 - 19) % 9 == 8 || (image.getD ((k / 32 - 19) / 9) 0#8).getLsbD (7 - (k / 32 - 19) % 9))

/-- The loader of a fresh start; a memory with the bytes of 10-6; an address byte and a location byte without an answer. -/
theorem witness_IdleStepIsOneCrystalPeriod_transfer :
    (let l := State.reset.loader
     l.position = 0 ∧ l.shift = 0#8 ∧ l.image = [] ∧ l.unanswered = false ∧ l.finished = false) ∧
    (let d := memory (image 10#8 0#8)
     d (readAt 9) = false ∧ d (readAt 18) = false ∧ (image 10#8 0#8).length = 48 ∧
       ∀ j : Nat, j < 48 → ∀ b : Nat, b < 8 → d (readAt (19 + 9 * j + b)) = ((image 10#8 0#8).getD j 0#8).getLsbD (7 - b)) ∧
    (let d (k : Nat) : Bool := k == readAt 18
     d (readAt 9) = false ∧ d (readAt 18) = true) ∧
    fitted.phase = .loading ∧ fitted.straps.cfgp = true ∧ fitted.loader.finished = false := by
  unfold memory readAt; decide +kernel

/-- Hand calculation from R11: a crystal period that ends a millisecond takes a zero-cross timer of 59 to 60, and ZC LOST is set. -/
theorem test_tick_sets_zc_lost :
    (let s : State := { up with crystal := 4095, cadence := { up.cadence with zcTimer := 59 } }
     (s.advance.cadence.zcTimer, s.advance.cadence.zcLost)) = (60, true) := by decide +kernel

/-- The last crystal period of a millisecond in which only timers are due: line 0 TO-FEED and line 1 TO-RING at 11 of a dead time of 12 ms, line 2 waiting for
24 ms to close its ring relay, line 3 with its dial-tone timer at 14 999 ms, line 4 in the last stutter phase at 99 ms, line 5 with an edge on its SNS. -/
def timersDue : State :=
  let s := withRelay (withRelay (withRelay up 0 .toFeed .ring .none 11) 1 .toRing .feed .none 11) 2 .ringWait .feed .toClose 12
  let s := s.setLine 0 { s.line 0 with relay := { (s.line 0).relay with deadRunning := true } }
  let s := s.setLine 1 { s.line 1 with relay := { (s.line 1).relay with deadRunning := true } }
  let s := s.setLine 2 { s.line 2 with relay := { (s.line 2).relay with waitTimer := 24 } }
  let s := withHook s 3 fun h => { h with dialTimer := some 14999 }
  let s := s.setLine 4 { s.line 4 with tone := { (s.line 4).tone with tone := some (.recall (.burst 5) 99) } }
  { s with crystal := 4095, bus := { s.bus with idle := 11 }, cadence := { s.cadence with slotTimer := 498, zcTimer := 58 }
           sense := { s.sense with windowTimer := 30 }, pins := { s.pins with sns := 0x20#8 } }

theorem witness_IdleStepIsOneCrystalPeriod_millisecond : timersDue.pending = [] ∧ timersDue.pins.rst = false ∧ timersDue.phase = .running ∧
    (timersDue.crystal + 1) % 4096 = 0 ∧ OnlyTimersRun timersDue ∧ timersDue.inUse 5 = true ∧ timersDue.pins.sns.getLsbD 5 = true ∧
    timersDue.last.sns.getLsbD 5 = false ∧ timersDue.pins.sns.getLsbD 4 = false := by
  unfold OnlyTimersRun QuietBus; decide

/-- R68, R71, R111, R125, R82: what is due at the limits of the timers of each line comes about in the millisecond in which they reach them. -/
theorem test_line_timers_fall_due :
    (let t := timersDue.advance
     ((t.line 0).relay.position, (t.line 1).relay.position, (t.line 2).relay.position, (t.line 5).sense.counter) = (.feed, .ringWait, .ring, 1) ∧
       (t.line 3).hook.dialTimer = none ∧ t.asm.queue = [.event 3 .permanentLoop] ∧ (t.line 4).tone.tone = some (.recall .continuous 0)) := by
  decide +kernel

/-- R65, 4-10: a relay pair opened at a slot start has its dead-time timer at 0 in that millisecond. -/
theorem test_dead_time_begins_at_zero :
    (let s := withRelay { ringing with crystal := 4095, cadence := { ringing.cadence with slot := 7, slotTimer := 499 } } 2 .feed .ring .none 12
     ((s.advance.line 2).relay.position, (s.advance.line 2).relay.deadTimer)) = (.toRing, 0) := by decide +kernel

theorem witness_ConfigurationStands : up.phase = .running ∧ exec .slotEnd up = .next (after .slotEnd up) ∧
    (∀ a l8 cfgp, Instr.slotEnd ≠ .reset a l8 cfgp) ∧ Instr.slotEnd ≠ .resetAsserted := by
  refine ⟨rfl, rfl, fun _ _ _ h => ?_, fun h => ?_⟩ <;> cases h

theorem witness_ResetBusAndAssembler : State.reset.phase = .loading := by decide

theorem witness_LoadingWithoutImageTakesDefaults :
    (State.reset.phase = .loading ∧ State.reset.straps.cfgp = false) ∧ (fitted.phase = .loading ∧ fitted.straps.cfgp = true) ∧
    ¬ ImagePasses (imageBody 10#8 1#8 ++ [0#8]) := by unfold ImagePasses; decide +kernel

/-- The ring group at its bounds: 1 and 48 pass, 0 and 49 fail; the line group with weight 4 and weight 5. -/
theorem witness_LoadingValidatesEachGroup : fitted.phase = .loading ∧ fitted.straps.cfgp = true ∧
    (∀ b : Fin 4, ImagePasses (image ([1#8, 48#8, 0#8, 49#8][b.val]) ([4#8, 1#8, 5#8, 0#8][b.val]))) := by unfold ImagePasses; decide +kernel

theorem witness_OneWrongByteRejectsTheImage : (image 10#8 1#8).length = 48 ∧ ImagePasses (image 10#8 1#8) ∧
    0xFF#8 ≠ (image 10#8 1#8).getD 0 0#8 ∧ 0xFF#8 ≠ (image 10#8 1#8).getD 47 0#8 := by unfold ImagePasses; decide +kernel

theorem witness_SlotEndBeginsTheNextSlot : (inSlot 7 499).phase ≠ .held ∧ (inSlot 7 499).cadence.slot = 7 ∧
    State.reset.phase = .loading ∧ State.reset.cadence.slot ≠ 7 ∧
    (let s : State := { State.reset with cadence := { Cadence.reset with slot := 7 } }
     s.phase = .loading ∧ s.cadence.slot = 7 ∧ s.bus.link = .listening ∧ s.bus.period = 0) := by decide

/-- Line 2 rings in slots 0 and 1: from slot 0 the ring continues, from slot 1 it ends, from slot 2 it stays silent; freshly committed in slot 0, it
begins in slot 1. Address 0 owns slot 0, address 3 slot 3. -/
theorem witness_BoundaryDirectsRelays : ringing.phase = .running ∧ ringing.cadence.slot = 0 ∧ (ringing.ring 0).isRinging = false ∧
    ringing.ring 2 = .ringing { order with rung := true } place false ∧
    (place.mask.getLsbD 0 = true ∧ place.mask.getLsbD 1 = true ∧ place.mask.getLsbD 2 = false ∧ place.mask.getLsbD 3 = false) ∧
    (withRing ringing 2 (.ringing order place true)).ring 2 = .ringing order place true ∧
    (let s : State := { inSlot 2 0 with straps := { up.straps with address := 3#5 } }
     s.phase = .running ∧ s.cadence.slot ≠ 7 ∧ (s.cadence.slot + 1).val = s.address % 8) ∧
    (ringing.cadence.slot + 1).val ≠ ringing.address % 8 ∧
    (let s : State := { ringing with cadence := { ringing.cadence with slot := 7, slotTimer := 499 } }
     MakesCycleStart .slotEnd s ∧ s.ring 2 = .ringing { order with rung := true } place false ∧
       ∃ o : Order, (after .slotEnd s).ring 2 = .ringing o place false) := by
  refine ⟨by decide, by decide, by decide, by decide, by decide, by decide, by decide, by decide, ?_, by decide, ?_⟩
  · exact .inl ⟨rfl, rfl⟩
  · exact ⟨{ order with rung := true, elapsed := 1 }, by decide +kernel⟩

theorem witness_CycleMarkerRestartsSlotZero : LateMarker (inSlot 0 40) ∧ ¬ LateMarker (inSlot 0 41) ∧ ¬ LateMarker (inSlot 7 40) := by
  unfold LateMarker; decide

/-- Both ways to make a cycle start; orders one and two cycles from their limit; peers of age 2 and 3; every link state at both counts. -/
theorem witness_CycleStartCountsAndAges : (inSlot 7 499).phase = .running ∧ MakesCycleStart .slotEnd (inSlot 7 499) ∧
    MakesCycleStart .cycleMarker (inSlot 3 0) ∧ (up.ring 0 = .idle) ∧
    ((pending { order with elapsed := 22 }).ring 2).order? = some { order with elapsed := 22 } ∧ order.limit ≤ 22 + 1 ∧
    ((pending { order with elapsed := 21 }).ring 2).order? = some { order with elapsed := 21 } ∧ 21 + 1 < order.limit ∧
    (linked .listening 0).bus.link = .listening ∧ (linked .listening 1).bus.period = 1 ∧ (linked .islanded 0).bus.link = .islanded ∧
    (linked .islanded 1).bus.period = 1 ∧ (linked .joined 2).bus.link = .joined ∧ (linked .silent 0).bus.link = .silent := by
  unfold MakesCycleStart LateMarker; decide

/-- The crystal period to come is number `at_` of its millisecond, `ms` into slot 0, with no marker met in the window and one window missed before. -/
def closing (late cym : Bool) (ms : Nat) (at_ : Nat := 4095) : State :=
  { inSlot 0 ms with cadence := { (inSlot 0 ms).cadence with markerMet := false, missed := 1 }, crystal := at_ - 1
                     pins := { up.pins with cym := cym }, order := { up.order with lateClose := late } }

/-- The window opening at 460 ms; slot 0 at 40 ms and just past it, its window open or closed; the crystal period in which the clock closes the window, with
and without a marker edge, in either order of the two, and those before it; slot 7 at 459 ms; a millisecond of neither; the same while loading. -/
theorem witness_MarkerWindowWatchesForMarkers : ((inSlot 7 460).cadence.slot = 7 ∧ (inSlot 7 460).cadence.slotTimer ≤ 460) ∧
    (∀ ms ∈ [40, 41], (inSlot 0 ms).phase ≠ .held ∧ (inSlot 0 ms).cadence.slot = 0 ∧ (inSlot 0 ms).cadence.slotTimer ≤ 41 ∧
      (inSlot 0 ms).cadence.past = false) ∧
    (∀ late cym : Bool, let s := closing late cym 40
      s.pending = [] ∧ s.pins.rst = false ∧ s.phase ≠ .held ∧ (s.crystal + 1) % 4096 ≠ 0 ∧ WindowCloses s ∧
        (s.pins.cym = true ∧ s.last.cym = false ↔ cym = true)) ∧
    (∀ late cym : Bool, let s := closing late cym 40 4094
      (s.crystal + 1) % 4096 ≠ 0 ∧ ¬ WindowCloses s ∧ LateMarker s ∧ (s.pins.cym = true ∧ s.last.cym = false ↔ cym = true)) ∧
    ((closing true false 40 4096).crystal + 1) % 4096 = 0 ∧
    ((inSlot 7 459).cadence.slot = 7 ∧ (inSlot 7 459).cadence.slotTimer = 459 ∧ (inSlot 0 498).cadence.slot ≠ 7 ∧ 498 < 499) ∧
    (let s : State := { fitted with crystal := 4094, cadence := { fitted.cadence with slotTimer := 40 }, pins := { fitted.pins with cym := true } }
     s.phase = .loading ∧ s.bus.link = .listening ∧ s.bus.period = 0 ∧ WindowCloses s ∧
       ¬ WindowCloses { s with crystal := 0 } ∧ LateMarker { s with crystal := 0 }) := by
  unfold LateMarker; decide +kernel

/-- R7: a marker taken after the close of its millisecond realigns, with the count at 0 and MARKER LOST clear; it makes a cycle start. The command for a close
that the clock has made brings slot 0 past 40 ms and examines no flag again. -/
theorem test_marker_after_the_close_realigns :
    (let s : State := { inSlot 0 40 with
       cadence := { (inSlot 0 40).cadence with markerMet := false, missed := 1 }, bus := (linked .listening 0).bus }
     let t := after .markerWindowCloses s
     let u := after .cycleMarker t
     let v := after .markerWindowCloses { s with cadence := { s.cadence with past := true } }
     (t.cadence.markerLost, u.cadence.slotTimer, u.cadence.missed, u.cadence.markerLost, u.bus.period, v.cadence.slotTimer, v.cadence.missed)) =
       (true, 0, 0, false, 1, 41, 1) := by decide +kernel

/-- R9, 1-6: the window closes in the millisecond in which slot 0 reads 40 ms, in the last crystal period of it and with the timer still at 40, in either order
of the close and a marker; at the second miss MARKER LOST is set. It closes at no other reading and in no other crystal period. -/
theorem test_clock_closes_the_window_at_40_ms : ∀ late : Bool, ([(39, 4095), (40, 4094), (40, 4095), (40, 4096), (41, 4095)].map fun x =>
    let t := (closing late false x.1 x.2).advance
    (t.cadence.slotTimer, t.cadence.past, t.cadence.missed, t.cadence.markerLost)) =
      [(39, false, 1, false), (40, false, 1, false), (40, true, 2, true), (41, false, 1, false), (41, false, 1, false)] := by decide +kernel

/-- R7: a marker in the crystal period of the close, in either order of the two, or in the next one, finds slot 0 past 40 ms and realigns, the count at 0 and
MARKER LOST clear: the cycle start makes a listening station count. -/
theorem test_marker_at_the_close_realigns : ∀ late : Bool,
    (let s := fun cym => { closing late cym 40 with bus := (linked .listening 0).bus }
     let seen := fun t : State => (t.cadence.slotTimer, t.cadence.past, t.cadence.missed, t.cadence.markerLost, t.bus.period)
     let next := ({ (s false).advance with pins := (s true).pins } : State).advance
     (seen (s true).advance, seen next)) = ((0, false, 0, false, 1), (0, false, 0, false, 1)) := by decide +kernel

/-- R3, R5: a marker read by the clock while slot 0's timer reads 40 ms, in the crystal period in which it comes to 40 or in the last one before the close, is
late and makes no cycle start, and the window does not close in that millisecond. -/
theorem test_markers_at_40_ms_are_late : ([(39, 4096), (40, 4094)].map fun x =>
    let t := ({ closing true true x.1 x.2 with bus := (linked .listening 0).bus } : State).advance
    (t.cadence.slotTimer, t.cadence.slot, t.cadence.past, t.bus.period, t.advance.cadence.past)) =
      [(0, 0, false, 0, false), (0, 0, false, 0, false)] := by decide +kernel

/-- A movement to close at the dead time and one short of it, one to open, and the positions with none. -/
theorem witness_ZeroCrossMakesWaitingMovements :
    (let s := withRelay (withRelay (withRelay (withRelay up 0 .ringWait .feed .toClose 12) 1 .ringWait .feed .toClose 11) 2 .ring .feed .toOpen 12) 3
        .ring .feed .none 12
     s.phase ≠ .held ∧ s.params.relay.deadTime ≤ (s.line 0).relay.deadTimer ∧ ¬ s.params.relay.deadTime ≤ (s.line 1).relay.deadTimer ∧
     (s.line 1).relay.lastOpened ≠ .ring ∧ (s.line 2).relay.wait = .toOpen ∧ (s.line 3).relay.wait ≠ .toOpen ∧
     (s.line 4).relay.position = .toFeed) := by decide

theorem witness_RelayTimersMoveTheirLine : (withRelay up 7 .toRing .feed .none 11).serves 7 = true ∧
    ((withRelay up 7 .toRing .feed .none 11).line 7).relay.position = .toRing ∧ up.cadence.zcLost = false ∧ (up.line 7).relay.position = .toFeed ∧
    ((withRelay up 7 .ringWait .feed .toClose 12).line 7).relay.wait ≠ .none := by decide

theorem witness_NoCommandMakesBeforeBreak : 1 ≤ up.params.relay.deadTime ∧ (withRelay up 0 .feed .feed .none 12).feedClosed 0 = true ∧
    (withRelay up 0 .ring .feed .none 12).ringClosed 0 = true ∧ exec (.deadTimeToFeed 0) up = .next (after (.deadTimeToFeed 0) up) := by
  refine ⟨?_, ?_, ?_, rfl⟩ <;> decide

/-- An offset chosen by its score, one chosen by the search order among equals, and a view that no offset fits. -/
theorem witness_PlacementTakesLowestScore :
    (placement 5 #v[5, 3, 2, 2, 4, 1, 0, 3] 6 2 0b00000011#8 = some { offset := 5, mask := 0b01100000#8 } ∧
      Fits #v[5, 3, 2, 2, 4, 1, 0, 3] 6 2 (rotatedMask 0b00000011#8 4) ∧ IsScore #v[5, 3, 2, 2, 4, 1, 0, 3] 2 0b01100000#8 3 ∧
      IsScore #v[5, 3, 2, 2, 4, 1, 0, 3] 2 (rotatedMask 0b00000011#8 4) 6) ∧
    (placement 5 (Vector.replicate 8 0) 12 1 0b00000011#8 = some { offset := 5, mask := 0b01100000#8 } ∧
      IsScore (Vector.replicate 8 0) 1 0b01100000#8 1 ∧ IsScore (Vector.replicate 8 0) 1 (rotatedMask 0b00000011#8 4) 1) ∧
    placement 5 (Vector.replicate 8 12) 12 1 0b00000011#8 = none := by unfold Fits IsScore; decide

theorem witness_PlacementAttemptClaimsFirstFit : (linked .listening 0).bus.link ≠ .joined ∧ claiming.sched.token ≠ .free ∧
    placed (crowded 12) 2 order = none ∧
    ((pending order).bus.link = .joined ∧ (pending order).sched.token = .free ∧ (pending order).sched.accepted = [] ++ 2 :: [] ∧
      (pending order).ring 2 = .pending order ∧ placed (pending order) 2 order = some place) := by unfold placed; decide

/-- `claiming` with these totals of station 6 in the view. -/
def claimingBeside (t : Totals) (b : Nat) : State :=
  { claiming with table := { up.table with peers := up.table.peers.set 6 (some { totals := t, budget := some b, age := 0 }), shelf := t } }

/-- The load of station 6 leaves the held claim its offset, another offset, or none; a claim on the wire; a budget that falls and one that does not. -/
theorem witness_ViewChangeRecomputesTheView :
    ((crowded 11).table.peers[6] = some { totals := Vector.replicate 8 12, budget := some 11, age := 0 } ∧ (11 : Nat) ≠ (crowded 11).params.ring.budget) ∧
    (∀ n : Line, up.sched.token ≠ .held n) ∧ claiming.sched.token = .held 2 ∧ claiming.ring 2 = .claiming order place ∧ claiming.bus.attempt = none ∧
    ((sending claiming (.claim 2)).bus.attempt = some (attempt (.claim 2)) ∧ (sending claiming (.claim 2)).sched.token = .held 2) ∧
    (let v (s : State) : LoadTable := s.table.recompute s.params.ring.budget
     Fits (v claiming).shelf (v claiming).budget (claiming.params.weight 2) place.mask ∧ claiming.table.budget ≤ (v claiming).budget ∧
     (let s := claimingBeside (Vector.replicate 8 0) 11; (v s).budget < s.table.budget) ∧
     (let s := claimingBeside #v[12, 0, 0, 0, 0, 0, 0, 0] 12
      ¬ Fits (v s).shelf (v s).budget (s.params.weight 2) place.mask ∧
        placed { s with table := v s } 2 order = some { offset := 1, mask := 0b00000110#8 }) ∧
     (let s := claimingBeside (Vector.replicate 8 12) 12
      ¬ Fits (v s).shelf (v s).budget (s.params.weight 2) place.mask ∧ placed { s with table := v s } 2 order = none)) := by
  unfold Fits placed; decide +kernel

/-- The lists and the view of `ringing` are sound, and none of its slots is over allowance. -/
theorem ringing_is_sound : ringing.SchedulerOk ∧ ringing.ViewOk ∧ ringing.WithinAllowance := by
  refine ⟨⟨by decide, by decide, by decide, by decide, by decide, fun h => absurd rfl h⟩, ⟨by decide, by decide⟩, fun _ => ?_⟩
  decide

/-- The same at address 9, with a budget of 1 and a load of 1 of station 6 in slot 0: slot 0 is over allowance. -/
def overloaded : State :=
  { ringing with straps := { ringing.straps with address := 9#5 }
                 params := { ringing.params with ring := { ringing.params.ring with budget := 1 } }
                 table := { ringing.table with
                   peers := ringing.table.peers.set 6 (some { totals := #v[1, 0, 0, 0, 0, 0, 0, 0], budget := some 1, age := 0 })
                   shelf := #v[2, 1, 0, 0, 0, 0, 0, 0], budget := 1 } }

theorem witness_OverloadCheckRelievesEverySlot : overloaded.bus.link = .joined ∧ overloaded.SchedulerOk ∧ overloaded.ViewOk ∧
    overloaded.overAllowance 0 ≠ none ∧ (∀ k : Slot, ringing.overAllowance k = none) ∧
    overloaded.sched.commits.reverse = [] ++ 2 :: [] ∧ StillOver overloaded [] 0 ∧ (overloaded.ring 2).rings 0 = true := by
  refine ⟨rfl, ⟨by decide, by decide, by decide, by decide, by decide, fun h => absurd rfl h⟩, ⟨by decide, by decide⟩, ?_, ?_, ?_, ?_, ?_⟩
  case refine_4 => exact ⟨0, by decide, by decide⟩
  all_goals decide

/-- R54: a RING order that arrives while the token is SPENT waits in PENDING, and the attempt goes on. -/
theorem test_ring_order_while_spent :
    (let t := after (.ringOrder (control [2#8, 0#8, 23#8])) spent
     (t.ring 2, t.sched.accepted, t.sched.token, t.bus)) = (.pending order, [2], .spent 2, spent.bus) := by decide

/-- R57: a CANCEL that arrives while the token is SPENT ends the PENDING line's new order, and the token stays SPENT. -/
theorem test_cancel_while_spent :
    (let t := after (.cancel (control [2#8])) (after (.ringOrder (control [2#8, 0#8, 23#8])) spent)
     (t.ring 2, t.sched.accepted, t.sched.token, t.bus.attempt)) = (.idle, [], .spent 2, some (attempt (.claim 2))) := by decide

/-- Ring limits 0 and 63; a line that is PARKED, OFF-HOOK, in BREAK, SEIZING, with an order of the pattern asked, of another, and without; pattern 7 is
empty. -/
theorem witness_RingOrderIsTakenByItsChecks : ((hearing up).serves 2 = true ∧ Hearing (hearing up)) ∧ Hearing (hearing (pending order)) ∧
    (spent.serves 2 = true ∧ Hearing spent ∧ spent.bus.attempt ≠ none ∧ (spent.line 2).ring = .idle) ∧
    (∀ l : Fin 2, (control [2#8, 0#8, [0#8, 63#8][l.val]]).payload =
      [BitVec.ofNat 8 up.address, BitVec.ofNat 8 2, BitVec.ofNat 8 0, BitVec.ofNat 8 [0, 63][l.val]]) ∧
    ((withHook up 2 fun h => { h with mode := .parked }).line 2).hook.mode = .parked ∧ up.params.pattern 7 = 0#8 ∧ up.params.pattern 0 ≠ 0#8 ∧
    ((withHook up 2 fun h => { h with state := .offHook }).line 2).hook.state = .offHook ∧ (up.line 2).hook.state = .onHook ∧
    ((pending order).ring 2).order? = some order ∧ ((pending { order with pattern := 1 }).ring 2).order? = some { order with pattern := 1 } ∧
    (up.line 2).ring = .idle := by unfold Hearing; decide

/-- Senders 47 and 56; no payload; another target; a wrong length; pattern 8, limit 64; line 8, and line 4 with four lines in use. -/
theorem witness_OrdersAreCheckedForTargetFormAndLine : Hearing (hearing up) ∧ Hearing spent ∧ (47#6).toNat < 48 ∧ 55 < (56#6).toNat ∧
    (control [2#8]).payload.length ≠ orderLength .ring ∧ ¬ orderFieldsOk .ring (control [2#8, 8#8, 0#8]) ∧
    ¬ orderFieldsOk .ring (control [2#8, 7#8, 64#8]) ∧ orderFieldsOk .ring (control [8#8, 7#8, 63#8]) ∧
    8 ≤ ((control [8#8, 7#8, 63#8]).payload.getD 1 0#8).toNat ∧
    (let s : State := { up with straps := { up.straps with l8 := false } }; s.phase = .running ∧ s.straps.l8 = false) := by
  unfold orderFieldsOk Hearing; decide

theorem witness_CancelEndsRingWork : ((hearing ringing).serves 2 = true ∧ Hearing (hearing ringing) ∧
      (hearing ringing).SchedulerOk ∧ (hearing ringing).ViewOk ∧ (hearing ringing).WithinAllowance) ∧
    (control [2#8]).payload = [BitVec.ofNat 8 (hearing ringing).address, BitVec.ofNat 8 2] ∧
    ((hearing claiming).serves 2 = true ∧ Hearing (hearing claiming)) ∧
    ((hearing (pending order)).serves 2 = true ∧ Hearing (hearing (pending order))) ∧ (hearing up).ring 2 = .idle ∧
    (Hearing (sending claiming (.claim 2)) ∧ (sending claiming (.claim 2)).ring 2 = .claiming order place) ∧ Hearing spent := by
  refine ⟨⟨by decide, ⟨by decide, by decide, by decide⟩, ⟨by decide, by decide, by decide, by decide, by decide, fun h => absurd rfl h⟩,
    ⟨by decide, by decide⟩, fun _ => by decide⟩, by decide, ⟨by decide, by decide, by decide, by decide⟩,
    ⟨by decide, by decide, by decide, by decide⟩, by decide, ⟨⟨by decide, by decide, by decide⟩, by decide⟩, by decide, by decide, by decide⟩

theorem witness_OrdersExpireAndReportDeferral : (pending order).serves 2 = true ∧ ((pending order).ring 2).order? = some order ∧
    (pending order).ring 2 = .pending order ∧ 8 < order.limit ∧ order.deferred = false := by decide

theorem witness_TripIsTakenByRingState : up.serves 2 = true ∧ up.ring 2 = .idle ∧ (pending order).ring 2 = .pending order ∧
    claiming.ring 2 = .claiming order place ∧ ringing.ring 2 = .ringing { order with rung := true } place false ∧
    (withRelay ringing 2 .ring .feed .none 12).ringClosed 2 = true ∧ ringing.ringClosed 2 = false := by decide

theorem witness_CompletedClaimIsCommitted : (sending claiming (.claim 2)).phase = .running ∧ (sending claiming (.claim 2)).SchedulerOk ∧
    (sending claiming (.claim 2)).ViewOk ∧ (sending claiming (.claim 2)).WithinAllowance ∧
    (sending claiming (.claim 2)).bus.attempt = some (attempt (.claim 2)) ∧ (sending claiming (.claim 2)).ring 2 = .claiming order place ∧
    Fits claiming.table.shelf claiming.table.budget (claiming.params.weight 2) place.mask := by
  refine ⟨rfl, ⟨by decide, by decide, by decide, by decide, by decide, fun h => absurd rfl h⟩, ⟨by decide, by decide⟩, fun _ => ?_, rfl, rfl, ?_⟩
  · decide
  · unfold Fits; decide

/-- A release, a claim whose line has left CLAIMING, a refresh with one more fallen due and without, and a report. -/
theorem witness_CompletionDischargesWhatWasSent : (∀ k : Fin 4,
      let x : Sent := [.release 0x04#8, .claim 2, .refresh, .report][k.val]
      (sending up x).phase = .running ∧ (sending up x).bus.attempt = some (attempt x)) ∧
    ({ sending up (.claim 2) with sched := { up.sched with token := .spent 2 } } : State).sched.token = .spent 2 := by decide

/-- Totals of 0 and 32, budgets of 1 and 48, from station 6 heard by station 0. -/
theorem witness_PeerNoticesAreAppliedToTheView : Receiving (hearing up) ∧ ((crowded 12).table.peers[6]).isSome = true ∧ (crowded 12).phase = .running ∧
    (refreshOf 1#8).sender.toNat = 6 ∧ (6 : Nat) ≠ up.address ∧ (refreshOf 1#8).payload.length = 11 ∧
    TotalsInRange (carriedTotals (refreshOf 1#8).payload 0) ∧ TotalsInRange (carriedTotals (List.replicate 11 32#8) 3) ∧
    1 ≤ ((refreshOf 1#8).payload.getD 8 0#8).toNat ∧ ((refreshOf 48#8).payload.getD 8 0#8).toNat ≤ 48 := by
  unfold TotalsInRange Receiving; decide

/-- A short notice, a total of 33, budgets of 0 and 49; senders 24 and the own address. -/
theorem witness_UnfitPeerNoticesAreNotApplied : Receiving (hearing up) ∧
    (6#6).toNat < 24 ∧ ([] : List Byte).length ≠ 11 ∧ ¬ TotalsInRange (carriedTotals (List.replicate 11 33#8) 3) ∧
    ((refreshOf 0#8).payload.getD 8 0#8).toNat = 0 ∧ 48 < ((refreshOf 49#8).payload.getD 8 0#8).toNat ∧ 24 ≤ (24#6).toNat ∧
    (0#6).toNat = up.address := by unfold TotalsInRange Receiving; decide

theorem witness_PeriodEndsJoinTheStation : (linked .listening 1).phase ≠ .held ∧ (linked .listening 1).bus.link = .listening ∧
    (linked .islanded 1).bus.link = .islanded := by decide

theorem witness_IslandingDropsTheClaim : claiming.phase = .running ∧ claiming.bus.link = .joined ∧ claiming.bus.attempt = none ∧
    claiming.sched.token = .held 2 ∧ claiming.ring 2 = .claiming order place ∧ up.sched.token = .free ∧ (linked .listening 0).bus.link = .listening := by
  decide

/-- Six clashes before this one, and seven, of a claim that is held and of one that is SPENT. -/
theorem witness_ClashAndLossDischargeNothing : ∀ k : Fin 2,
    let s : State := { sending claiming (.claim 2) with bus := { (sending claiming (.claim 2)).bus with clashes := 6 + k.val } }
    s.phase = .running ∧ s.bus.attempt = some (attempt (.claim 2)) ∧ (∀ n : Line, s.sched.token ≠ .spent n) ∧ s.bus.clashes = 6 + k.val ∧
      s.bus.link = .joined ∧ ({ s with sched := { s.sched with token := .spent 2 } } : State).sched.token = .spent 2 := by decide

/-- A release mask of one line; a claim that fits, one that fits only at another offset, one that fits nowhere; each refresh state; one report. -/
theorem witness_AttemptSendsTheFirstNoticePresent : MayBegin up ∧ MayBegin claiming ∧
    ({ up with asm := { up.asm with releaseMask := 0x80#8 } } : State).asm.releaseMask ≠ 0#8 ∧ up.asm.releaseMask = 0#8 ∧
    claiming.sched.token = .held 2 ∧ claiming.ring 2 = .claiming order place ∧
    Fits claiming.table.shelf claiming.table.budget (claiming.params.weight 2) place.mask ∧
    (let s : State := { claiming with table := { claiming.table with shelf := #v[12, 0, 0, 0, 0, 0, 0, 0] } }
     ¬ Fits s.table.shelf s.table.budget (s.params.weight 2) place.mask ∧ placed s 2 order = some { offset := 1, mask := 0b00000110#8 }) ∧
    (let s : State := { claiming with table := (crowded 12).table }
     ¬ Fits s.table.shelf s.table.budget (s.params.weight 2) place.mask ∧ placed s 2 order = none) ∧
    (∀ n : Line, up.sched.token ≠ .held n) ∧ up.asm.refresh = .none ∧ up.asm.queue = [] := by
  unfold MayBegin Fits placed; decide

/-- A full queue of 12 STATE entries with line 5 the lowest that lost events, an entry of room, and three; a line with a digit waiting, a line WITHHELD. -/
theorem witness_FreedRoomIsFilled :
    (let s : State := { up with asm := { up.asm with queue := List.replicate 12 (.state 0 false) } }.setLine 5
        { up.line 5 with eventsLost := true }
     s.asm.queue = .state 0 false :: List.replicate 11 (.state 0 false) ∧ (s.line 5).eventsLost = true ∧
       (∀ m : Line, m < 5 → (s.line m).eventsLost = false)) ∧
    (List.replicate 9 (Report.state 0 false)).length ≤ 9 ∧ (∀ n : Line, (up.line n).eventsLost = false ∧ (up.line n).hook.digits = []) ∧
    (let s := withHook { up with asm := { up.asm with queue := [.state 0 false] } } 4 fun h => { h with state := .offHook, digits := [7] }
     s.asm.queue = .state 0 false :: [] ∧ (∀ n : Line, (s.line n).eventsLost = false) ∧ (s.line 4).hook.digits = [7]) ∧
    (up.setLine 4 { up.line 4 with tone := { (up.line 4).tone with tone := some .withheld } }).line 4 =
      { up.line 4 with tone := { (up.line 4).tone with tone := some .withheld } } := by
  decide

/-- Line 3 with the digits 7 and 8 waiting, behind this queue. -/
def dialling (q : List Report) : State :=
  withHook { up with asm := { up.asm with queue := q } } 3 fun h => { h with state := .offHook, digits := [7, 8], digitsLost := true }

/-- A last entry of five digits, and one of six; an entry in transmission; an empty queue, and a full one. -/
theorem witness_DigitsMoveIntoTheQueueInOrder :
    CanAppend (dialling [.digits 3 [1, 2, 3, 4, 5] false]) 3 [] [] [1, 2, 3, 4, 5] false ∧ ((dialling []).line 3).hook.digits = 7 :: [8] ∧
    (∀ before after ds b, ¬ CanAppend (dialling [.digits 3 [1, 2, 3, 4, 5, 6] false]) 3 before after ds b) ∧
    (∀ before after ds b, ¬ CanAppend (sending (dialling [.digits 3 [1] false]) .report) 3 before after ds b) ∧
    (∀ before after ds b, ¬ CanAppend (dialling []) 3 before after ds b) ∧
    (dialling []).asm.queue.length < 12 ∧ 12 ≤ (dialling (List.replicate 12 (.state 0 false))).asm.queue.length ∧
    (∀ before after ds b, ¬ CanAppend (dialling (List.replicate 12 (.state 0 false))) 3 before after ds b) := by
  have one (r : Report) (s : State) (before after : List Report) (ds : List Digit) (b : Bool) (hq : s.asm.queue = [r])
      (h : CanAppend s 3 before after ds b) : before = [] ∧ r = .digits 3 ds b := by
    have := h.1.symm.trans hq
    cases before with
    | nil => simp at this; exact ⟨rfl, this.1.symm⟩
    | cons x xs => simp at this
  refine ⟨⟨rfl, by simp, by decide, ?_⟩, rfl, fun before after ds b h => ?_, fun before after ds b h => ?_, fun before after ds b h => ?_, by decide,
    by decide, fun before after ds b h => ?_⟩
  · rintro ⟨-, a, h, -⟩; cases h
  · obtain ⟨-, e⟩ := one _ _ _ _ _ _ rfl h
    cases e; exact absurd h.2.2.1 (by decide)
  · obtain ⟨e, -⟩ := one _ _ _ _ _ _ rfl h
    exact h.2.2.2 ⟨e, _, rfl, rfl⟩
  · exact absurd h.1 (by simp [dialling, withHook, State.setLine])
  · have : Report.digits 3 ds b ∈ List.replicate 12 (Report.state 0 false) := by
      rw [show List.replicate 12 (Report.state 0 false) = _ from h.1]; simp
    simp at this

/-- R155: at the end of an own attempt a digit is appended where the last entry has room, and the next one, with no entry to take it, stays. -/
theorem test_digits_are_only_appended :
    (let t := (dialling [.digits 3 [1, 2, 3, 4, 5] false]).takeDigits false 3
     (t.asm.queue, (t.line 3).hook.digits)) = ([.digits 3 [1, 2, 3, 4, 5, 7] true], [8]) ∧
    ((dialling []).takeDigits false 3).asm.queue = [] := by decide

/-- The queue at 11 and 12 entries, the flag clear and set. -/
theorem witness_EventsEnterTheQueueOrAreLost : (up.line 0).eventsLost = false ∧ (List.replicate 11 (Report.state 0 false)).length < 12 ∧
    12 ≤ (List.replicate 12 (Report.state 0 false)).length := by decide

theorem witness_ReadingScalesTheCount : (0 < 28 ∧ 4095 ≤ 4095) ∧ (4094 ≠ 4095 ∧ 4094 ≤ 4095 ∧ 0 < 36) := by decide

/-- Line 3 in feed position, eligible, its leak count at 248 and 249 with a reading of 80, and at 79 with the flag set; line 2 of `ringing` in ring position
with a trip run of 1 and 2 and a reading of 1600, and of 1599; a line out of use. Line 3 of `up` itself, moving to feed position, has its windows blanked. -/
theorem witness_WindowEndTakesEveryReading : up.phase = .running ∧ ringing.phase = .running ∧ up.inUse 3 = true ∧
    ({ up with straps := { up.straps with l8 := false } } : State).inUse 4 = false ∧
    FeedWindow ((withRelay up 3 .feed .feed .none 12).line 3) ∧ RingWindow ((withRelay ringing 2 .ring .feed .none 12).line 2) ∧
    ¬ RingWindow (up.line 3) ∧ ¬ FeedWindow (up.line 3) ∧ (up.line 3).sense.leakCount < 250 ∧
    ((up.line 3).hook.state = .onHook ∧ (up.line 3).ring = .idle ∧ (up.line 3).hook.mode ≠ .parked) ∧
    (readingOf 80 (lengthOf 0) = 80 ∧ up.params.threshold.leak ≤ 80 ∧ 80 < up.params.threshold.offHook ∧ Majority (up.line 3).hook.raw .opened) ∧
    (readingOf 1600 (lengthOf 0) = 1600 ∧ up.params.threshold.trip ≤ 1600 ∧ 1599 < up.params.threshold.trip) ∧
    (1 + 1 < up.params.relay.tripConfirm ∧ up.params.relay.tripConfirm ≤ 2 + 1) ∧ ((ringing.line 2).ring).isRinging = true ∧
    ((up.line 3).ring).isRinging = false ∧ (ringing.line 2).hook.state ≠ .seizing ∧ ¬ TripDue ringing 2 := by
  unfold TripDue FeedWindow RingWindow Majority; decide

/-- R72: the settle count is lowered by one at a window end that saw no movement, and a movement's mark clears. -/
theorem test_settle_windows :
    (let s := up.setLine 3 { up.line 3 with relay := { (up.line 3).relay with settle := 2, moved := false } }
     let s := s.setLine 4 { s.line 4 with relay := { (s.line 4).relay with settle := 2, moved := true } }
     let t := after .windowEnd s
     ((t.line 3).relay.settle, (t.line 4).relay.settle, (t.line 4).relay.moved)) = (1, 2, false) := by decide +kernel

theorem witness_LeakFlagsTurnAndPulsesCount : up.serves 7 = true ∧ (up.line 7).hook.state = .onHook ∧ up.ring 7 = .idle ∧
    (up.line 7).hook.mode ≠ .parked ∧ (up.line 7).sense.leakFlag = false ∧
    ({ up with straps := { up.straps with l8 := false } } : State).inUse 4 = false := by decide

/-- Raw states with either majority; a seize timer that the next window of 32 brings to 319 and to 320; a break that it brings to 5600 and to 5601; a PARKED
line; a line with ring work, ON-HOOK and SEIZING, whose window completes no trip run; a train that the window brings to 1599 and to 1600. -/
theorem witness_WindowEndMovesTheHookState : up.serves 3 = true ∧ up.ring 3 = .idle ∧ (up.line 3).hook.mode ≠ .parked ∧
    Majority ⟨.opened, .closed, .opened⟩ .opened ∧ Majority ⟨.closed, .opened, .closed⟩ .closed ∧ lengthOf up.sense.dither = 32 ∧
    (287 + 32 < 8 * up.params.timing.seizeConfirm ∧ 8 * up.params.timing.seizeConfirm ≤ 288 + 32) ∧
    (¬ 8 * up.params.timing.flashMax < 5568 + 32 ∧ 8 * up.params.timing.flashMax < 5569 + 32) ∧
    (let s := withHook up 3 fun h => { h with mode := .parked }
     s.serves 3 = true ∧ s.ring 3 = .idle ∧ (s.line 3).hook.mode = .parked) ∧
    (ringing.serves 2 = true ∧ ringing.ring 2 ≠ .idle ∧ (ringing.line 2).hook.mode ≠ .parked ∧ ¬ TripDue ringing 2 ∧
      (ringing.line 2).hook.state = .onHook ∧ 0 < ringing.params.relay.tripConfirm ∧
      ((withHook ringing 2 fun h => { h with state := .seizing, seizeTimer := some 288 }).line 2).hook.seizeTimer = some 288) ∧
    (let s := withHook up 3 fun h => { h with state := .offHook, pulses := 10, makeTimer := some 1568 }
     (s.line 3).hook.state = .offHook ∧ (s.line 3).hook.makeTimer = some 1568 ∧ (s.line 3).hook.pulses ≠ 0 ∧
       1567 + 32 < 8 * s.params.timing.interdigit ∧ 8 * s.params.timing.interdigit ≤ 1568 + 32) := by
  unfold TripDue RingWindow Majority; decide

/-- Lengths 159 and 160, 800 and 801, 1199 and 1200, with and without a train. -/
theorem witness_BreaksAreClassedByLength : up.params.timing.glitch < up.params.timing.pulseMax ∧
    up.params.timing.pulseMax < up.params.timing.flashMin ∧ 159 < 8 * up.params.timing.glitch ∧ 8 * up.params.timing.glitch ≤ 160 ∧
    800 ≤ 8 * up.params.timing.pulseMax ∧ 8 * up.params.timing.pulseMax < 801 ∧ 1199 < 8 * up.params.timing.flashMin ∧
    8 * up.params.timing.flashMin ≤ 1200 ∧ (up.line 3).hook.pulses = 0 ∧
    ((withHook up 3 fun h => { h with pulses := 11 }).line 3).hook.pulses ≠ 0 := by decide

/-- R104, R105, R107: a make found at a window end of 32 that brings the break to 160 eighth-milliseconds counts a pulse; at 159 it counts none. -/
theorem test_window_end_counts_the_pulse : ([127, 128].map fun d =>
    ((after .windowEnd (breaking d .closed)).line 3).hook.pulses) = [0, 1] := by decide +kernel

/-- R109: a flash with a train of 3 in progress hands the digit before FLASH. -/
theorem test_flash_completes_the_train :
    ((withHook up 3 fun h => { h with state := .brk, breakTimer := some 1200, pulses := 3, makeTimer := some 0 }).endBreak 3 1200).asm.queue =
      [.digits 3 [3] false, .event 3 .flash] := by decide +kernel

theorem witness_SeizureFailsOrIsConfirmed :
    (let s := withHook up 3 fun h => { h with state := .seizing, raw := ⟨.closed, .closed, .closed⟩ }
     s.serves 3 = true ∧ (s.line 3).hook.state = .seizing ∧ Majority (s.line 3).hook.raw .closed ∧ s.ring 3 = .idle) ∧
    (let s := withHook ringing 2 fun h => { h with state := .seizing }
     s.serves 2 = true ∧ (s.line 2).hook.state = .seizing ∧ Majority (s.line 2).hook.raw .opened ∧
       s.ring 2 = .ringing { order with rung := true } place false) := by unfold Majority; decide

theorem witness_BreaksStopToneAndClear : (breaking 160 .opened).serves 3 = true ∧ ((breaking 160 .opened).line 3).hook.state = .brk ∧
    ((breaking 160 .opened).line 3).hook.breakTimer = some 160 ∧ ((breaking 160 .opened).line 3).hook.glitchTold = false ∧
    Majority ((breaking 160 .opened).line 3).hook.raw .opened ∧ Majority ((breaking 160 .closed).line 3).hook.raw .closed := by
  unfold Majority; decide

/-- Ten pulses and eleven; a store of 15 digits and of 16; either loop. -/
theorem witness_TrainsCompleteAsDigits : ∀ k : Fin 2,
    let s := withHook up 3 fun h => { h with state := .offHook, pulses := 10 + k.val, digits := List.replicate (15 + k.val) 1 }
    s.serves 3 = true ∧ (s.line 3).hook.state = .offHook ∧ (s.line 3).hook.pulses ≠ 0 ∧ (s.line 3).hook.pulses = 10 + k.val ∧
      (s.line 3).hook.digits.length = 15 + k.val ∧ Majority (s.line 3).hook.raw .opened ∧ 1 ≤ s.params.timing.glitch := by
  unfold Majority; decide

theorem witness_DialToneAndStutterTimersAct :
    ((withHook up 3 fun h => { h with state := .offHook, dialTimer := some 15000 }).line 3).hook.dialTimer ≠ none ∧
    (∀ k : Fin 6, let s := up.setLine 3 { up.line 3 with tone := { (up.line 3).tone with tone := some (.recall (.burst k) 100) } }
      s.serves 3 = true ∧ (s.line 3).tone.tone = some (.recall (.burst k) 100)) := by decide

/-- Tones 0 to 2, for a line that is ON-HOOK and one that is OFF-HOOK. -/
theorem witness_ToneOrderSetsTheTone : (hearing up).serves 3 = true ∧ Hearing (hearing up) ∧ Hearing spent ∧ (∀ k : Fin 3,
      (control [3#8, BitVec.ofNat 8 k.val]).payload = [BitVec.ofNat 8 up.address, BitVec.ofNat 8 3, BitVec.ofNat 8 k.val]) ∧
    (up.line 3).hook.state = .onHook ∧ ((withHook up 3 fun h => { h with state := .offHook }).line 3).hook.state = .offHook := by
  unfold Hearing; decide

/-- Modes 0 to 2, for a FREE line ON-HOOK, an IN CALL line OFF-HOOK and a PARKED line. -/
theorem witness_ModeOrderSetsTheMode : (hearing up).serves 3 = true ∧ Hearing (hearing up) ∧ Hearing spent ∧ (∀ k : Fin 3,
      (control [3#8, BitVec.ofNat 8 k.val]).payload = [BitVec.ofNat 8 up.address, BitVec.ofNat 8 3, BitVec.ofNat 8 k.val]) ∧
    ((up.line 3).hook.state = .onHook ∧ (up.line 3).hook.mode = .free) ∧
    ((withHook up 3 fun h => { h with state := .offHook, mode := .inCall }).line 3).hook.mode = .inCall ∧
    ((withHook up 3 fun h => { h with mode := .parked }).line 3).hook.mode = .parked := by unfold Hearing; decide

theorem witness_QueryIsAnsweredAndReportsIgnored : Receiving (hearing up) ∧ Hearing (hearing up) ∧ Hearing spent ∧ (hearing up).inUse 7 = true ∧
    (control [7#8]).payload = [BitVec.ofNat 8 up.address, BitVec.ofNat 8 7] := by unfold Receiving Hearing; decide

/-- A notice being received; WAITING and DISCARDING; a bus that is held; 14 and 15 dominant samples, 18 and 19 dominant bit times. -/
theorem witness_ReceiverErrorsAndHeldBus : Receiving (hearing up) ∧ up.phase = .running ∧ up.bus.attempt = none ∧
    (∀ k : Fin 2, let s : State := { up with bus := { up.bus with rx := [RxCondition.waiting, .discarding][k.val] } }
      (s.bus.rx = .waiting ∨ s.bus.rx = .discarding) ∧ s.bus.busHeld = false) ∧
    ({ up with bus := { up.bus with busHeld := true } } : State).bus.busHeld = true ∧ up.bus.busHeld = false ∧ (14 < 15 ∧ 15 ≤ 15 ∧ 18 < 19 ∧ 19 ≤ 19) := by
  unfold Receiving; decide

/-- R140: the twentieth dominant bit time sets BUS HELD, discards what was being received and counts one error; the idle counter is 0. -/
theorem test_bus_held_counts_one_error :
    (let s : State := { hearing up with bus := { (hearing up).bus with buffer := [1#8], dominantRun := 19, dominantSamples := 15, errors := 3 } }
     let t := s.countDominant true
     (t.bus.busHeld, t.bus.rx, t.bus.buffer, t.bus.errors, t.bus.idle)) = (true, .discarding, [], 4, 0) := by decide

/-- R132, R140: a hold that begins on an idle bus after an own notice is taken first as a start edge, which clears own-last. -/
theorem test_bus_held_clears_own_last :
    (let s : State := { up with bus := { up.bus with ownLast := true } }
     let t := after .busHeldClear (after .busHeld s)
     (s.idleEnough, t.bus.ownLast, t.bus.idle, t.idleEnough)) = (false, false, 12, true) := by decide

/-- R132, R141: a false start sets the idle counter back to what stood before its edge, and own-last, which the edge cleared, stays clear (log 30). -/
theorem test_false_start_leaves_own_last_clear :
    (let s : State := { up with bus := { up.bus with ownLast := true, idle := 13, idleSamples := 5 } }
     let t := s.watchEdge true
     let u := t.testStartBit (t.bus.byte.getD ⟨0, 0, 0#8, 0, 0⟩) false
     [t, u].map fun v => (v.bus.ownLast, v.bus.idle, v.bus.byte.isSome)) = [(false, 0, true), (false, 13, false)] := by decide

/-- Buffers of 14 and 15 bytes; an own first byte of 43H read as sent, as the stronger 03H, and as 47H, which no station of stronger class sent. -/
theorem witness_StartEdgesTakeBytes : up.phase = .running ∧ up.bus.busHeld = false ∧ up.bus.byte = none ∧ up.bus.rx = .idle ∧
    (List.replicate 14 (0#8 : Byte)).length < 15 ∧ 15 ≤ (List.replicate 15 (0#8 : Byte)).length ∧
    (let s := sending up (.claim 2)
     s.bus.rx = .receiving ∧ s.bus.attempt = some (attempt (.claim 2)) ∧ (attempt (.claim 2)).bytes[s.bus.buffer.length]? = some 0x43#8) ∧
    ((0x43#8).getLsbD 6 = true ∧ (0x03#8).getLsbD 6 = false ∧ (0x43#8).getLsbD 7 = (0x03#8).getLsbD 7) ∧
    ((0x43#8).getLsbD 2 = false ∧ (0x47#8).getLsbD 2 = true) ∧ (attempt (.claim 2)).bytes.length ≤ 2 := by decide

/-- The samples of a byte on the wire, dominant where this says so: a start bit, the bits of `x` most significant first, and a stop bit. -/
def wire (x : Byte) (stop : Bool) (k : Nat) : Bool :=
  k / 16 == 0 || (k / 16 ≤ 8 && !x.getLsbD (8 - k / 16)) || (k / 16 == 9 && !stop)

/-- 43H with a stop bit and with a dominant one; an edge gone at sample 8; a receiver IDLE, receiving, and in its own attempt. -/
theorem witness_StartEdgesTakeBytes_samples :
    (∀ stop : Bool, wire 0x43#8 stop 0 = true ∧ wire 0x43#8 stop 8 = true ∧ SpellsByte (wire 0x43#8 stop) 0x43#8 ∧
      (StopBitRecessive (wire 0x43#8 stop) ↔ stop = true)) ∧
    (let w (k : Nat) : Bool := k < 8
     w 0 = true ∧ w 8 = false) ∧
    ((hearing up).phase = .running ∧ (hearing up).bus.rx = .receiving ∧ (hearing up).bus.attempt = none ∧ (hearing up).bus.busHeld = false ∧
      (hearing up).bus.byte = none) ∧
    ((sending up (.claim 2)).bus.byte = none ∧ (attempt (.claim 2)).bytes[(sending up (.claim 2)).bus.buffer.length]? = some 0x43#8) := by
  unfold SpellsByte StopBitRecessive BitRecessive; decide +kernel

/-- R129: sample by sample, 43H on the wire begins a notice with the byte 43H. -/
theorem test_samples_spell_the_byte :
    (let t := sampled (wire 0x43#8 true) up 160
     (t.bus.rx, t.bus.buffer, t.bus.byte)) = (.receiving, [0x43#8], none) := by decide +kernel

/-- An idle counter of 12 and of 24, own-last clear and set; the twelfth idle bit time, and one of eleven, in each receive condition, with the bus held, and
within an own attempt; a dominant sample after the last byte of an attempt. -/
theorem witness_StartEdgesTakeBytes_idle :
    (MayBegin up ∧ up.bus.ownLast = false ∧ 12 ≤ up.bus.idle ∧ ¬ 24 ≤ up.bus.idle) ∧
    (∀ rx : Fin 4, ∀ held : Bool, ∀ k : Fin 2, let s : State := { up with bus := { up.bus with
        rx := #v[.idle, .receiving, .waiting, .discarding][rx.val], busHeld := held, idle := 10 + k.val, idleSamples := 15 } }
      s.phase = .running ∧ s.bus.byte = none ∧ s.bus.attempt = none ∧ s.bus.busHeld = held ∧ s.bus.idleSamples + 1 = 16 ∧ s.bus.idle + 1 = 11 + k.val) ∧
    ((sending up .report).bus.attempt = some (attempt .report) ∧ (sending up .report).bus.rx = .receiving ∧
      (attempt .report).bytes.length ≤ (List.replicate 2 (0#8 : Byte)).length) := by unfold MayBegin; decide

/-- R132: with a release owed, an attempt begins at 12 idle bit times, and after an own notice at 24 and not before. -/
theorem test_own_last_waits_for_24_idle_bit_times :
    ([(12, false), (11, false), (12, true), (23, true), (24, true)].map fun (idle, own) =>
      ({ up with bus := { up.bus with idle := idle, ownLast := own }, asm := { up.asm with releaseMask := 1#8 } } : State).busSample.bus.attempt.isSome) =
    [true, false, false, false, true] := by decide +kernel

/-- R143, R131: the last recessive sample of the twelfth idle bit time ends a notice, here one that fails its checks. -/
theorem test_the_twelfth_idle_bit_time_ends_a_notice :
    (let s : State := { hearing up with bus := { (hearing up).bus with buffer := [1#8], idle := 11, idleSamples := 14 } }
     ((s.receiveSample false).bus.rx, ((s.receiveSample false).receiveSample false).bus.rx, ((s.receiveSample false).receiveSample false).bus.errors)) =
    (.receiving, .idle, 1) := by decide +kernel

/-- R130: after the first byte of the own attempt the second byte's start bit is on the wire. -/
theorem test_attempt_goes_on_after_its_byte :
    ((after (.startEdge true 0x43#8) (sending up (.claim 2))).bus.attempt.map Attempt.sample,
      (after (.startEdge true 0x43#8) (sending up (.claim 2))).drivesLow) = (some 160, true) := by decide

/-- `up` and `State.reset` meet every condition of the clauses, but for an attempt on the wire, which `sending` has. -/
theorem witness_CommandsWithoutTheirEventChangeNothing : up.phase = .running ∧ up.cadence.slot ≠ 7 ∧ (inSlot 7 0).cadence.slot ≠ 0 ∧
    ((withRelay up 0 .feed .feed .none 12).line 0).relay.position ≠ .toFeed ∧ (up.line 0).relay.position ≠ .toRing ∧ (up.line 0).relay.wait = .none ∧
    up.ring 0 = .idle ∧ up.table.peers[6] = none ∧ up.bus.link ≠ .listening ∧ up.bus.link ≠ .islanded ∧ (up.line 0).hook.state ≠ .seizing ∧
    (up.line 0).hook.state ≠ .brk ∧ (up.line 0).hook.pulses = 0 ∧ (up.line 0).hook.dialTimer = none ∧ ¬ MayBegin (hearing up) ∧
    up.bus.attempt = none ∧ ¬ Receiving up ∧ ¬ Hearing up ∧ (sending up .report).bus.attempt ≠ none ∧ State.reset.bus.rx = .waiting ∧ up.bus.rx = .idle ∧
    up.bus.busHeld = false ∧
    ((after .markerWindowCloses (inSlot 0 40)).cadence.past = true ∧ 40 < (after .markerWindowCloses (inSlot 0 40)).cadence.slotTimer ∧
      (pending { order with deferred := true }).ring 2 = .pending { order with deferred := true } ∧
      (pending { order with limit := 8 }).ring 2 = .pending { order with limit := 8 } ∧ (8 : Nat) ≤ 8) ∧
    (((withHook up 1 fun h => { h with state := .offHook, mode := .inCall }).line 1).hook.state ≠ .onHook ∧ ringing.ring 2 ≠ .idle ∧
      ((withHook up 1 fun h => { h with mode := .parked }).line 1).hook.mode = .parked ∧ (up.line 0).sense.leakFlag = false) ∧
    (((withHook up 1 fun h => { h with state := .brk, glitchTold := true }).line 1).hook.glitchTold = true ∧ (up.line 0).tone.tone = none ∧
      (linked .islanded 0).bus.link = .islanded ∧ (linked .silent 0).bus.link = .silent) ∧
    (({ up with straps := { up.straps with l8 := false } } : State).inUse 4 = false ∧ State.reset.phase ≠ .running ∧
      ({ up with phase := .held } : State).phase = .held) := by unfold MayBegin Receiving Hearing; decide

/-- R65, R119: the outputs of a line in each position and each tone. -/
theorem test_line_outputs :
    ([Position.feed, .toRing, .ringWait, .ring, .toFeed].map fun p =>
      ((withRelay up 6 p .ring .none 0).feedClosed 6, (withRelay up 6 p .ring .none 0).ringClosed 6)) =
      [(true, false), (false, false), (false, false), (false, true), (false, false)] ∧
    ([none, some Tone.withheld, some .dial, some (.recall (.burst 0) 0), some (.recall (.burst 1) 0), some (.recall (.burst 2) 0),
      some (.recall (.burst 3) 0), some (.recall (.burst 4) 0), some (.recall (.burst 5) 0), some (.recall .continuous 0)].map fun x =>
      (up.setLine 6 { up.line 6 with tone := { (up.line 6).tone with tone := x } }).gateOpen 6) =
      [false, false, true, true, false, true, false, true, false, true] := by decide

/-- The fifth sample of the first data bit of an attempt, and the end of one of two bytes; clock 451 of a transfer at period 24. -/
theorem witness_AlarmAndToneFollowTheirRules : ({ up with phase := .held } : State).phase = .held ∧ up.phase ≠ .held ∧ (0 : Nat) < 300 ∧
    (up.bus.attempt = none ∧ (sending up .report).bus.attempt = some (attempt .report) ∧ (attempt .report).bytes[0]? = some 0x43#8 ∧
      (attempt .report).sample = 160 * 0 + 16 * 1 + 4 ∧ (attempt .report).bytes.length * 160 ≤ ({ attempt .report with sample := 320 } : Attempt).sample) ∧
    (let s : State := { fitted with loader := { fitted.loader with position := 32 * 451 + 24 } }
     s.phase = .loading ∧ s.straps.cfgp = true ∧ s.loader.finished = false ∧ s.loader.position = 32 * 451 + 24) ∧
    State.reset.straps.cfgp = false := by decide

theorem witness_DecodingAnEncodedNoticeGivesItBack : (Instr.query (control [7#8])).wellFormed = true ∧
    (∀ k w, Instr.query (control [7#8]) = .reportNoticeHeard k w → 8 ≤ k.toNat) ∧
    encodeNotice (.query (control [7#8])) = some (noticeBytes 7 (control [7#8])) ∧
    (Instr.reportNoticeHeard 8 (control [7#8])).wellFormed = true := by
  refine ⟨by decide, fun k w h => ?_, rfl, by decide⟩
  cases h

theorem witness_EveryStepKeepsRingWorkSound : ringing.SchedulerOk ∧ ringing.ViewOk ∧ ringing.WithinAllowance ∧
    step { ringing with pending := [.ringTrip 2] } = .next (after (.ringTrip 2) ringing) :=
  ⟨ringing_is_sound.1, ringing_is_sound.2.1, ringing_is_sound.2.2, rfl⟩

theorem witness_EveryStepKeepsLinesSound : ringing.LinesOk ∧ step { ringing with pending := [.ringTrip 2] } = .next (after (.ringTrip 2) ringing) := by
  refine ⟨fun n => ?_, rfl⟩
  revert n
  refine Fin.forall_iff_castSucc.2 ⟨?_, fun n => ?_⟩
  · constructor <;> decide
  · revert n; intro n
    have h : ∀ m : Fin 7, (m ≠ 2 → ringing.line m.castSucc = LineState.reset) ∧ (m = 2 → ringing.line m.castSucc = ringing.line 2) := by decide
    by_cases e : n = 2
    · rw [(h n).2 e]; constructor <;> decide
    · rw [(h n).1 e]; constructor <;> decide

/-- The counts of a line at reset are in range, whatever its ring record, if its order has time left. -/
theorem reset_line_in_range (r : RingRecord) (h : ∀ o : Order, r.order? = some o → o.elapsed ≤ o.limit) :
    ({ LineState.reset with ring := r } : LineState).CountsOk := by
  have k : LineState.reset.CountsOk := by
    constructor
    case stutter => rintro p d (h | h) <;> cases h
    case dialTimer => intro d h; cases h
    case elapsed => intro o h; cases h
    all_goals decide
  exact { k with elapsed := h }

theorem witness_EveryStepKeepsCountsInRange : ringing.CountsOk ∧
    step { ringing with pending := [.sensePulseEdge 2] } = .next (after (.sensePulseEdge 2) ringing) := by
  refine ⟨?_, rfl⟩
  constructor
  case ages => intro a e h; have : ∀ b : PeerAddr, ringing.table.peers[b.val] = none := by decide
               rw [this a] at h; cases h
  case bus => constructor
              case before => intro y h; cases h
              all_goals decide
  case lines =>
    intro n
    have h : ∀ m : Line, ringing.line m = { LineState.reset with ring := ringing.ring m } ∧
        (m = 2 → ringing.ring m = .ringing { order with rung := true } place false) ∧ (m ≠ 2 → ringing.ring m = .idle) := by decide
    rw [(h n).1]
    refine reset_line_in_range _ fun o ho => ?_
    by_cases e : n = 2
    · rw [(h n).2.1 e] at ho; cases ho; decide
    · rw [(h n).2.2 e] at ho; cases ho
  all_goals decide

end Sys2Proof.Tests
end

section
/-! SUPPORT. Proofs about the placement computation (R46, R47): the walk along the search order keeps the earliest tried of the lowest-scored offsets that fit. -/

namespace Sys2Proof.Machine

open Sys2Proof.Claims

/-! ### The search order -/

/-- Trial `k` of the search order is the offset at search place `k`. -/
theorem searchPlace_trial (A : Nat) (k : Slot) : searchPlace A (Fin.ofNat 8 (A + k.val)) = k.val := by
  have hk := k.isLt
  simp only [searchPlace, Fin.val_ofNat]
  omega

/-- Every offset is tried: the one at search place `k` in trial `k`. -/
theorem mem_searchOrder (A : Nat) (o : Slot) : o ∈ searchOrder A := by
  have ho := o.isLt
  have hk : searchPlace A o < 8 := Nat.mod_lt _ (by decide)
  refine List.mem_map.2 ⟨⟨searchPlace A o, hk⟩, mem_allSlots _, Fin.ext ?_⟩
  simp only [searchPlace, Fin.val_ofNat]
  omega

/-- Offsets are tried in the order of their search places. -/
theorem searchOrder_sorted (A : Nat) : (searchOrder A).Pairwise fun o o' => searchPlace A o < searchPlace A o' := by
  refine List.pairwise_map.2 ((List.pairwise_lt_finRange 8).imp fun {j k} hjk => ?_)
  rw [searchPlace_trial, searchPlace_trial]
  exact hjk

/-! ### One trial -/

section Trial
variable {T : Totals} {B w : Nat} {P : SlotSet} {o : Slot}

/-- An offset that does not fit changes nothing (R46). -/
theorem betterOffset_of_not_fits (best : Option Placement) (h : ¬ Fits T B w (rotatedMask P o)) : betterOffset T B w P best o = best := by
  simp [betterOffset, fits_iff, h]

/-- The first offset that fits is taken, whatever its score. -/
theorem betterOffset_none_of_fits (h : Fits T B w (rotatedMask P o)) :
    betterOffset T B w P none o = some { offset := o, mask := rotatedMask P o } := by
  simp [betterOffset, fits_iff, h]

/-- A strictly lower score takes the place of the best so far (R47). -/
theorem betterOffset_some_of_lt {p : Placement} (h : Fits T B w (rotatedMask P o)) (hlt : score T w (rotatedMask P o) < score T w p.mask) :
    betterOffset T B w P (some p) o = some { offset := o, mask := rotatedMask P o } := by
  simp [betterOffset, fits_iff, h, hlt]

/-- An equal score does not: the earlier trial stays (R47). -/
theorem betterOffset_some_of_le {p : Placement} (h : Fits T B w (rotatedMask P o)) (hle : score T w p.mask ≤ score T w (rotatedMask P o)) :
    betterOffset T B w P (some p) o = some p := by
  simp [betterOffset, fits_iff, h, Nat.not_lt.2 hle]

end Trial

/-! ### The walk -/

/-- `p` is the best of the offsets tried so far: it fits, those tried before it that fit score more, and those tried after it that fit do not score
less (R47). -/
def BestTried (T : Totals) (B w : Nat) (P : SlotSet) (tried : List Slot) (p : Placement) : Prop :=
  p.mask = rotatedMask P p.offset ∧ Fits T B w p.mask ∧
  ∃ before after : List Slot, tried = before ++ p.offset :: after ∧
    (∀ o ∈ before, Fits T B w (rotatedMask P o) → score T w p.mask < score T w (rotatedMask P o)) ∧
    ∀ o ∈ after, Fits T B w (rotatedMask P o) → score T w p.mask ≤ score T w (rotatedMask P o)

/-- `best` is what the offsets tried so far give: none when none of them fits, else the best of them. -/
def WalkResult (T : Totals) (B w : Nat) (P : SlotSet) (tried : List Slot) : Option Placement → Prop
  | none => ∀ o ∈ tried, ¬ Fits T B w (rotatedMask P o)
  | some p => BestTried T B w P tried p

section Walk
variable {T : Totals} {B w : Nat} {P : SlotSet} {tried : List Slot} {p : Placement}

/-- The best so far has the lowest score of all that were tried and fit. -/
theorem BestTried.score_le (h : BestTried T B w P tried p) {o : Slot} (ho : o ∈ tried) (hf : Fits T B w (rotatedMask P o)) :
    score T w p.mask ≤ score T w (rotatedMask P o) := by
  obtain ⟨hmask, -, before, after, rfl, hbefore, hafter⟩ := h
  rcases List.mem_append.1 ho with ho | ho
  · exact (hbefore o ho hf).le
  · rcases List.mem_cons.1 ho with rfl | ho
    · rw [hmask]
    · exact hafter o ho hf

/-- Where the trials are in the order of a rank, an offset of the same score as the best so far has no lower rank. -/
theorem BestTried.rank_le_of_score_eq (h : BestTried T B w P tried p) {rank : Slot → Nat} (hs : tried.Pairwise fun o o' => rank o < rank o')
    {o : Slot} (ho : o ∈ tried) (hf : Fits T B w (rotatedMask P o)) (he : score T w p.mask = score T w (rotatedMask P o)) :
    rank p.offset ≤ rank o := by
  obtain ⟨-, -, before, after, rfl, hbefore, -⟩ := h
  rcases List.mem_append.1 ho with ho | ho
  · exact absurd he (hbefore o ho hf).ne
  · rcases List.mem_cons.1 ho with rfl | ho
    · exact le_rfl
    · exact ((List.pairwise_cons.1 (List.pairwise_append.1 hs).2.1).1 o ho).le

/-- The best so far stays the best when one more offset is tried that does not fit or does not score less. -/
theorem BestTried.keep (h : BestTried T B w P tried p) {o : Slot}
    (ho : Fits T B w (rotatedMask P o) → score T w p.mask ≤ score T w (rotatedMask P o)) : BestTried T B w P (tried ++ [o]) p := by
  obtain ⟨hmask, hfits, before, after, rfl, hbefore, hafter⟩ := h
  refine ⟨hmask, hfits, before, after ++ [o], by simp, hbefore, fun o' ho' => ?_⟩
  rcases List.mem_append.1 ho' with ho' | ho'
  · exact hafter o' ho'
  · rw [List.mem_singleton.1 ho']; exact ho

/-- A new offset that fits and scores less than all before it that fit is the best. -/
theorem bestTried_append_self {o : Slot} (hf : Fits T B w (rotatedMask P o))
    (h : ∀ o' ∈ tried, Fits T B w (rotatedMask P o') → score T w (rotatedMask P o) < score T w (rotatedMask P o')) :
    BestTried T B w P (tried ++ [o]) { offset := o, mask := rotatedMask P o } :=
  ⟨rfl, hf, tried, [], rfl, h, by simp⟩

/-- One more trial keeps the walk's result right. -/
theorem WalkResult.trial {best : Option Placement} (h : WalkResult T B w P tried best) (o : Slot) :
    WalkResult T B w P (tried ++ [o]) (betterOffset T B w P best o) := by
  by_cases hf : Fits T B w (rotatedMask P o)
  · cases best with
    | none =>
      rw [betterOffset_none_of_fits hf]
      exact bestTried_append_self hf fun o' ho' hf' => absurd hf' (h o' ho')
    | some p =>
      rcases Nat.lt_or_ge (score T w (rotatedMask P o)) (score T w p.mask) with hlt | hle
      · rw [betterOffset_some_of_lt hf hlt]
        exact bestTried_append_self hf fun o' ho' hf' => hlt.trans_le (BestTried.score_le h ho' hf')
      · rw [betterOffset_some_of_le hf hle]
        exact BestTried.keep h fun _ => hle
  · rw [betterOffset_of_not_fits best hf]
    cases best with
    | none =>
      intro o' ho'
      rcases List.mem_append.1 ho' with ho' | ho'
      · exact h o' ho'
      · rw [List.mem_singleton.1 ho']; exact hf
    | some p => exact BestTried.keep h fun hf' => absurd hf' hf

end Walk

/-- The walk along any list of offsets gives the best of them. -/
theorem walkResult_foldl (T : Totals) (B w : Nat) (P : SlotSet) (tried : List Slot) :
    WalkResult T B w P tried (tried.foldl (betterOffset T B w P) none) := by
  induction tried using List.reverseRecOn with
  | nil => exact fun o ho => absurd ho List.not_mem_nil
  | append_singleton tried o ih =>
    rw [List.foldl_append]
    exact ih.trial o

/-- The placement computation gives the best of the whole search order. -/
theorem placement_walkResult (A : Nat) (T : Totals) (B w : Nat) (P : SlotSet) : WalkResult T B w P (searchOrder A) (placement A T B w P) :=
  walkResult_foldl T B w P (searchOrder A)

/-- A placement is the best of the whole search order (R47). -/
theorem bestTried_of_placement {A : Nat} {T : Totals} {B w : Nat} {P : SlotSet} {p : Placement} (h : placement A T B w P = some p) :
    BestTried T B w P (searchOrder A) p := by
  have hw := placement_walkResult A T B w P
  rw [h] at hw
  exact hw

/-- There is no placement exactly when no offset fits (R46). -/
theorem placement_eq_none_iff (A : Nat) (T : Totals) (B w : Nat) (P : SlotSet) :
    placement A T B w P = none ↔ ∀ o : Slot, ¬ Fits T B w (rotatedMask P o) := by
  constructor
  · intro h o
    have hw := placement_walkResult A T B w P
    rw [h] at hw
    exact hw o (mem_searchOrder A o)
  · intro h
    cases hp : placement A T B w P with
    | none => rfl
    | some p =>
      obtain ⟨hmask, hfits, -⟩ := bestTried_of_placement hp
      exact absurd (hmask ▸ hfits) (h p.offset)

/-- Settles O20: the walk's invariant at the end of the search order, read off with scores for `score` and search places for the order of trial. -/
theorem placementTakesLowestScore : Obligations.PlacementTakesLowestScore := by
  unfold Obligations.PlacementTakesLowestScore
  refine fun A T B w P => ⟨placement_eq_none_iff A T B w P, fun p hp => ?_⟩
  have hbest := bestTried_of_placement hp
  have ⟨hmask, hfits, _⟩ := hbest
  refine ⟨hmask, hfits, fun o chosen other hf hchosen hother => ?_⟩
  rw [← score_eq T w _ chosen hchosen, ← score_eq T w _ other hother]
  have ho := mem_searchOrder A o
  exact ⟨hbest.score_le ho hf, hbest.rank_le_of_score_eq (searchOrder_sorted A) ho hf⟩

end Sys2Proof.Machine
end

section
/-! SUPPORT. Proofs about the handing of an event to the report queue (R154): an equation for each branch, and the three together as `Handed`. -/

namespace Sys2Proof.Machine

open Sys2Proof.Claims

/-! ### The branches of `handEvent` (R154) -/

/-- While the line's events-lost flag stands, a later event is dropped, with or without room in the queue. -/
theorem State.handEvent_of_eventsLost (s : State) (n : Line) (e : Event) (hlost : (s.line n).eventsLost = true) :
    s.handEvent n e = s :=
  if_pos hlost

/-- With the flag clear and no entry free, the event is lost and the flag is set. -/
theorem State.handEvent_of_full (s : State) (n : Line) (e : Event) (hclear : (s.line n).eventsLost = false)
    (hfull : 12 ≤ s.asm.queue.length) : s.handEvent n e = s.setLine n { s.line n with eventsLost := true } := by
  have hfree : s.freeCount = 0 := s.freeCount_eq_zero.2 hfull
  simp [State.handEvent, hclear, hfree, State.onLine]

/-- With the flag clear and an entry free, the event is pushed as an EVENT entry. -/
theorem State.handEvent_of_room (s : State) (n : Line) (e : Event) (hclear : (s.line n).eventsLost = false)
    (hroom : s.asm.queue.length < 12) : s.handEvent n e = s.pushReport (.event n e) := by
  have hfree : s.freeCount ≠ 0 := fun h => absurd (s.freeCount_eq_zero.1 h) (Nat.not_le.2 hroom)
  simp [State.handEvent, hclear, hfree]

/-- Everything the handing of an event can do: dropped, lost or queued. -/
theorem State.handEvent_handed (s : State) (n : Line) (e : Event) : Handed s n e (s.handEvent n e) := by
  refine ⟨s.handEvent_of_eventsLost n e, s.handEvent_of_full n e, fun hclear hroom => ?_⟩
  rw [s.handEvent_of_room n e hclear hroom]
  exact s.pushReport_queued (.event n e) hroom

/-- Settles O37: the three branches of `handEvent`, where the queued one is `pushReport` with room. -/
theorem eventsEnterTheQueueOrAreLost : Obligations.EventsEnterTheQueueOrAreLost :=
  State.handEvent_handed

end Sys2Proof.Machine
end

section
/-! SUPPORT. Proofs about the end of loading (R169, R170, R172): when an image and each of its groups pass, what `configure` takes from an image that
passes, and how every block begins its work. -/

namespace Sys2Proof.Machine

open Sys2Proof.Claims

/-! ### The image as a whole (R169) -/

theorem imageOk_iff (i : List Byte) : imageOk i = true ↔ ImagePasses i := by
  simp [imageOk, ImagePasses, byteAt, ← BitVec.toNat_inj, and_assoc]

/-- A passing image gives the group marks and the validated parameters, and leaves the image rejected mark as it was. -/
theorem State.configure_of_imagePasses (s : State) {i : List Byte} (hfitted : s.straps.cfgp = true) (hpasses : ImagePasses i) :
    s.configure (.image i) = s.setConfig { s.loader with image := i, defaulted := groupMarks i } (validatedParams i) := by
  simp [State.configure, hfitted, (imageOk_iff i).2 hpasses]

/-! ### When a group passes (R170) -/

theorem ringOk_iff (p : RingParams) : ringOk p = true ↔ 1 ≤ p.budget ∧ p.budget ≤ 48 ∧ 1 ≤ p.limit ∧ p.limit ≤ 63 := by
  simp [ringOk, and_assoc]

theorem lineOk_iff (p : LineParams) : lineOk p = true ↔ ∀ n : Line, 1 ≤ p.weights[n] ∧ p.weights[n] ≤ 4 := by
  simp [lineOk, allLines]

theorem timingOk_iff (p : TimingParams) :
    timingOk p = true ↔ p.glitch < p.pulseMax ∧ p.pulseMax < p.flashMin ∧ p.flashMin ≤ p.flashMax ∧ p.pulseMax < p.interdigit ∧
      16 ≤ p.seizeConfirm ∧ 5 ≤ p.dialTimeout ∧ p.dialTimeout ≤ 60 := by
  simp [timingOk, and_assoc]

theorem thresholdOk_iff (p : ThresholdParams) :
    thresholdOk p = true ↔ p.leak < p.onHook ∧ p.onHook < p.offHook ∧ p.offHook ≤ p.trip ∧ p.trip ≤ 4095 := by
  simp [thresholdOk, and_assoc]

theorem relayOk_iff (p : RelayParams) :
    relayOk p = true ↔ 4 ≤ p.deadTime ∧ p.deadTime ≤ 60 ∧ 1 ≤ p.settle ∧ p.settle ≤ 4 ∧ 2 ≤ p.tripConfirm ∧ p.tripConfirm ≤ 8 := by
  simp [relayOk, and_assoc]

theorem toneOk_iff (p : ToneParams) :
    toneOk p = true ↔ 300 ≤ p.frequency ∧ p.frequency ≤ 500 ∧ 1 ≤ p.level ∧ p.level ≤ 7 := by
  simp [toneOk, and_assoc]

/-! ### What the image stores for a group (10-3) -/

theorem storedRing_patterns (i : List Byte) (k : Fin 8) : (storedRing i).patterns[k] = i.getD (4 + k.val) 0#8 := by
  simp [storedRing]

theorem storedLine_weights (i : List Byte) (n : Line) : (storedLine i).weights[n] = byteAt i (12 + n.val) % 8 := by
  simp [storedLine, imageByte, byteAt]

theorem storedLine_flash (i : List Byte) (n : Line) :
    (storedLine i).flash[n] = if 128 ≤ byteAt i (12 + n.val) then FlashMode.recall else .report := by
  simp [storedLine, imageByte, byteAt]

theorem lineOk_storedLine (i : List Byte) :
    lineOk (storedLine i) = true ↔ ∀ n : Line, 1 ≤ byteAt i (12 + n.val) % 8 ∧ byteAt i (12 + n.val) % 8 ≤ 4 := by
  simp only [lineOk_iff, storedLine_weights]

/-- The limits compare as their stored values do, and 16 ms are 4 units. -/
theorem timingOk_storedTiming (i : List Byte) :
    timingOk (storedTiming i) = true ↔ byteAt i 21 < byteAt i 22 ∧ byteAt i 22 < byteAt i 23 ∧ byteAt i 23 ≤ byteAt i 24 ∧
      byteAt i 22 < byteAt i 25 ∧ 4 ≤ byteAt i 20 ∧ 5 ≤ byteAt i 26 ∧ byteAt i 26 ≤ 60 := by
  simp only [timingOk_iff, storedTiming, imageByte, byteAt]
  omega

/-! ### What validation gives (R170) -/

/-- A group that passes exactly on `c` gives what it stores, its mark clear; failing, its fallback, its mark set. -/
theorem group_validated {α : Type} {ok : Bool} {c : Prop} [Decidable c] {stored fallback : α} (hok : ok = true ↔ c) {Holds : α → Prop}
    (hstored : Holds stored) :
    if c then (!ok) = false ∧ Holds (if ok then stored else fallback)
    else (!ok) = true ∧ (if ok then stored else fallback) = fallback := by
  by_cases hc : c
  · simp [hc, hok.2 hc, hstored]
  · simp [hc, Bool.eq_false_iff.2 fun h => hc (hok.1 h)]

/-! ### One change made to several lines -/

/-- A fold of one change over lines touches the lines alone. -/
theorem State.foldl_onLine_frame (f : LineState → LineState) (ls : List Line) (s : State) :
    ls.foldl (fun t n => t.onLine n f) s = { s with lines := (ls.foldl (fun t n => t.onLine n f) s).lines } := by
  induction ls generalizing s with
  | nil => rfl
  | cons n ls ih => exact ih (s.onLine n f)

/-- A fold of one change over different lines makes it once on each of them. -/
theorem State.line_foldl_onLine (f : LineState → LineState) {ls : List Line} (hls : ls.Nodup) (s : State) (m : Line) :
    (ls.foldl (fun t n => t.onLine n f) s).line m = if m ∈ ls then f (s.line m) else s.line m := by
  induction ls generalizing s with
  | nil => rfl
  | cons n ls ih =>
    obtain ⟨hn, hls⟩ := List.nodup_cons.1 hls
    rw [List.foldl_cons, ih hls, State.line_onLine]
    by_cases hm : m = n
    · simp [hm, hn]
    · simp [hm]

/-! ### Every block begins its work (R172) -/

theorem State.inUse_iff (s : State) (n : Line) : s.inUse n = true ↔ n.val < 4 ∨ s.straps.l8 = true := by
  cases hl : s.straps.l8 <;> simp [State.inUse, State.lineCount, hl]

/-- The beginning of work leaves the configuration as it stands; the load table is the reset one with the configured budget. -/
theorem State.beginWork_frame (s : State) :
    s.beginWork = { s with phase := .running, table := { LoadTable.reset with budget := s.params.ring.budget }, sense := .reset, tonePhase := 0,
                           lines := s.beginWork.lines } :=
  State.foldl_onLine_frame LineState.startDeadTime _ _

@[simp] theorem State.beginWork_loader (s : State) : s.beginWork.loader = s.loader := by rw [s.beginWork_frame]

@[simp] theorem State.beginWork_params (s : State) : s.beginWork.params = s.params := by rw [s.beginWork_frame]

@[simp] theorem State.beginWork_table (s : State) : s.beginWork.table = { LoadTable.reset with budget := s.params.ring.budget } := by
  rw [s.beginWork_frame]

/-- The dead-time timer starts on the lines in use, and on no other (R73). -/
theorem State.beginWork_line (s : State) (n : Line) :
    s.beginWork.line n = if s.inUse n = true then (s.line n).startDeadTime else s.line n := by
  refine (State.line_foldl_onLine _ ((List.nodup_finRange 8).filter _) _ n).trans ?_
  simp only [List.mem_filter, List.mem_finRange, true_and]
  rfl

theorem State.begunWork_beginWork (s : State) : BegunWork s s.beginWork := by
  refine ⟨?_, fun p => ?_, fun k => ?_, ?_, ?_, fun n => ?_⟩
  · rw [s.beginWork_frame]; rfl
  · simp [LoadTable.reset]
  · simp [LoadTable.reset, Totals.zero]
  · simp
  · simp [LoadTable.reset]
  · simp only [State.beginWork_line, State.inUse_iff, LineState.startDeadTime]

/-- The beginning of work is told of the state before its configuration as of the state with it. -/
theorem begunWork_setConfig {s t : State} {l : Loader} {p : Params} : BegunWork (s.setConfig l p) t ↔ BegunWork s t := Iff.rfl

/-- END_OF_LOADING while loading: the configuration, then the beginning of work. -/
theorem exec_endOfLoading_of_loading {s : State} (a : MemoryAnswer) (hloading : s.phase = .loading) :
    exec (.endOfLoading a) s = .next (s.configure a).beginWork :=
  congrArg Host.Outcome.next (if_pos hloading)

/-- Settles O9: `configure` on a passing image is validation group by group, and the beginning of work keeps what it gives. -/
theorem loadingValidatesEachGroup : Obligations.LoadingValidatesEachGroup := by
  unfold Obligations.LoadingValidatesEachGroup
  intro s i hloading hfitted hpasses
  refine ⟨_, exec_endOfLoading_of_loading (.image i) hloading, ?_⟩
  rw [s.configure_of_imagePasses hfitted hpasses]
  refine ⟨begunWork_setConfig.1 (State.begunWork_beginWork _), by simp, ?_⟩
  simp only [Params.pattern, Params.weight, Params.flashMode, State.beginWork_loader, State.beginWork_params, State.setConfig_loader,
    State.setConfig_params, groupMarks, validatedParams]
  exact ⟨
    group_validated (ringOk_iff (storedRing i))
      (Holds := fun p : RingParams => p.budget = byteAt i 2 ∧ p.limit = byteAt i 3 ∧ ∀ k : Fin 8, p.patterns[k] = i.getD (4 + k.val) 0#8)
      ⟨rfl, rfl, storedRing_patterns i⟩,
    group_validated (lineOk_storedLine i)
      (Holds := fun p : LineParams => ∀ n : Line, p.weights[n] = byteAt i (12 + n.val) % 8 ∧
        p.flash[n] = if 128 ≤ byteAt i (12 + n.val) then FlashMode.recall else .report)
      fun n => ⟨storedLine_weights i n, storedLine_flash i n⟩,
    group_validated (timingOk_storedTiming i) (Holds := (· = storedTiming i)) rfl,
    group_validated (thresholdOk_iff (storedThreshold i)) (Holds := (· = storedThreshold i)) rfl,
    group_validated (relayOk_iff (storedRelay i)) (Holds := (· = storedRelay i)) rfl,
    group_validated (toneOk_iff (storedTone i)) (Holds := (· = storedTone i)) rfl⟩

end Sys2Proof.Machine
end

section
/-! SUPPORT. What no command touches, and what only a reset or the end of loading touches. -/

namespace Sys2Proof.Machine

/-- A step takes the front command on the queue's rest or, on an empty queue, is one crystal period. -/
theorem step_cases {s t : State} (h : step s = .next t) :
    (s.pending = [] ∧ t = s.tick) ∨ ∃ (c : Instr) (rest : List Instr), s.pending = c :: rest ∧ t = ({ s with pending := rest }).run c := by
  unfold step at h
  split at h
  · rename_i hp; cases h; exact .inl ⟨hp, rfl⟩
  · rename_i c rest hp
    rw [State.exec_run] at h
    cases h; exact .inr ⟨c, rest, hp, rfl⟩

/-- A property of an `if` from both its branches. -/
theorem ite_keeps {P : State → Prop} {c : Prop} [Decidable c] {a b : State} (ha : c → P a) (hb : ¬ c → P b) : P (if c then a else b) := by
  split
  · exact ha ‹_›
  · exact hb ‹_›

/-- What a command leaves of the outside's fields: the queue, the chosen orders, and the pins that no strap is on. -/
structure State.OutsideKept (s t : State) : Prop where
  pending : t.pending = s.pending
  order : t.order = s.order
  sns : t.pins.sns = s.pins.sns
  cym : t.pins.cym = s.pins.cym
  zcm : t.pins.zcm = s.pins.zcm
  nbLow : t.pins.nbLow = s.pins.nbLow
  cfgda : t.pins.cfgda = s.pins.cfgda

/-- What stands from the end of loading to the next reset, and with it the outside's fields and the pins read last. -/
structure State.Standing (s t : State) : Prop where
  phase : t.phase = s.phase
  straps : t.straps = s.straps
  loader : t.loader = s.loader
  params : t.params = s.params
  pins : t.pins = s.pins
  last : t.last = s.last
  crystal : t.crystal = s.crystal
  tonePhase : t.tonePhase = s.tonePhase
  order : t.order = s.order
  pending : t.pending = s.pending

theorem State.Standing.refl (s : State) : s.Standing s := ⟨rfl, rfl, rfl, rfl, rfl, rfl, rfl, rfl, rfl, rfl⟩

theorem State.Standing.trans {s t u : State} (h : s.Standing t) (g : t.Standing u) : s.Standing u :=
  ⟨g.1.trans h.1, g.2.trans h.2, g.3.trans h.3, g.4.trans h.4, g.5.trans h.5, g.6.trans h.6, g.7.trans h.7, g.8.trans h.8, g.9.trans h.9, g.10.trans h.10⟩

theorem State.Standing.outside {s t : State} (h : s.Standing t) : s.OutsideKept t :=
  ⟨h.pending, h.order, by rw [h.pins], by rw [h.pins], by rw [h.pins], by rw [h.pins], by rw [h.pins]⟩

/-- A line in use stays in use, and served. -/
theorem State.Standing.serves {s t : State} (h : s.Standing t) (n : Line) : t.serves n = s.serves n := by
  unfold State.serves State.running State.inUse State.lineCount
  rw [h.phase, h.straps]

theorem State.Standing.foldl {α : Type} {f : State → α → State} (hf : ∀ (t : State) (a : α), t.Standing (f t a)) (ls : List α) (s : State) :
    s.Standing (ls.foldl f s) := by
  induction ls generalizing s with
  | nil => exact .refl s
  | cons a ls ih => exact (hf s a).trans (ih _)

section Commands
variable (s : State)

theorem State.standing_ite {c : Prop} [Decidable c] {t u : State} (ht : s.Standing t) (hu : s.Standing u) : s.Standing (if c then t else u) :=
  ite_keeps (fun _ => ht) fun _ => hu

theorem State.standing_received {act : State → State} (h : ∀ t : State, t.Standing (act t)) : s.Standing (s.received act) :=
  s.standing_ite (State.Standing.trans (by constructor <;> simp) (h _)) (.refl s)

theorem State.standing_takeOrder (k : OrderKind) (w : Notice) {take : State → Line → State} (h : ∀ (t : State) (n : Line), t.Standing (take t n)) :
    s.Standing (State.takeOrder k w take s) := by
  unfold State.takeOrder
  refine s.standing_ite ?_ (.refl s)
  split
  · exact h s _
  · constructor <;> simp

theorem State.standing_ordered (k : OrderKind) (w : Notice) {take : State → Line → State} (h : ∀ (t : State) (n : Line), t.Standing (take t n)) :
    s.Standing (s.ordered (State.takeOrder k w take)) :=
  s.standing_ite (State.Standing.trans (by constructor <;> simp) (State.standing_takeOrder _ k w h)) (.refl s)

theorem State.standing_boundary (k : Slot) : s.Standing (s.boundary k) := by constructor <;> simp

theorem State.standing_peerNotice (w : Notice) (i j : Nat) (b : Option Nat) : s.Standing (s.peerNotice w i j b) := by constructor <;> simp

/-- Only the two resets and the end of loading touch phase, straps, loader or parameters. -/
theorem State.standing_run (c : Instr) (hreset : ∀ a l8 cfgp, c ≠ .reset a l8 cfgp) (hasserted : c ≠ .resetAsserted) (hend : ∀ a, c ≠ .endOfLoading a) :
    s.Standing (s.run c) := by
  have act {c : Prop} [Decidable c] {t : State} (ht : s.Standing t) : s.Standing (if c then t else s) := s.standing_ite ht (.refl s)
  cases c with
  | reset a l8 cfgp => exact absurd rfl (hreset a l8 cfgp)
  | resetAsserted => exact absurd rfl hasserted
  | endOfLoading a => exact absurd rfl (hend a)
  | slotEnd => exact act (s.standing_boundary _)
  | cycleMarker =>
    refine act ?_
    have htaken : s.Standing (s.setCadence s.cadence.markerTaken) := by constructor <;> rfl
    split
    · exact htaken.trans (State.standing_boundary _ 0)
    · constructor <;> rfl
    · exact htaken.trans (State.standing_boundary _ 0)
  | markerWindowOpens => exact act (by constructor <;> rfl)
  | markerWindowCloses => exact act (s.standing_ite (by constructor <;> rfl) (by constructor <;> simp))
  | markerLost => exact act (by constructor <;> rfl)
  | zeroCrossMark => exact act (by constructor <;> rfl)
  | zcLost => exact act (by constructor <;> rfl)
  | deadTimeToRing n => exact act (by constructor <;> rfl)
  | deadTimeToFeed n => exact act (by constructor <;> rfl)
  | zcWaitTimeout n => exact act (by constructor <;> rfl)
  | ringExpiry n => exact act (by constructor <;> simp)
  | ringDeferral n =>
    show s.Standing (match s.ring n with | .pending o => _ | .idle | .claiming _ _ | .ringing _ _ _ => s)
    split
    · exact act (by constructor <;> simp)
    all_goals exact .refl s
  | entryAgedOut a => exact act (by constructor <;> simp)
  | listenPeriodEnd => exact act (by constructor <;> simp)
  | islandedPeriodEnd => exact act (by constructor <;> simp)
  | windowEnd =>
    refine act (State.Standing.trans (t := s.setSense { dither := s.sense.dither + 1, windowTimer := 0 }) (by constructor <;> rfl) ?_)
    exact .foldl (fun t n => by constructor <;> simp) _ _
  | ringTrip n => exact act (by constructor <;> simp)
  | leakOn n => exact act (by constructor <;> simp)
  | leakOff n => exact act (by constructor <;> simp)
  | seizeConfirm n => exact act (by constructor <;> simp)
  | glitchLimitReached n => exact act (by constructor <;> simp)
  | clear n => exact act (by constructor <;> simp)
  | interdigitMake n => exact act (by constructor <;> simp)
  | permanentLoop n => exact act (by constructor <;> simp)
  | stutterAdvance n => exact act (by constructor <;> rfl)
  | attemptStart =>
    refine act ?_
    split
    · constructor <;> simp
    · constructor <;> simp
  | arbitrationLoss b => exact act (by constructor <;> simp)
  | clash => exact act (by constructor <;> simp)
  | islanding =>
    refine act ?_
    split
    · constructor <;> simp
    · constructor <;> simp
  | ownNoticeCompletion =>
    show s.Standing (match s.bus.attempt with | some a => _ | none => s)
    split
    · exact act (by constructor <;> simp)
    · exact .refl s
  | claimReceived w => exact s.standing_received fun t => t.standing_peerNotice w 11 3 none
  | releaseReceived w => exact s.standing_received fun t => t.standing_peerNotice w 9 1 none
  | refreshReceived w => exact s.standing_received fun t => t.standing_peerNotice w 11 0 (some 8)
  | ringOrder w => exact s.standing_ordered _ _ fun t n => by constructor <;> simp
  | cancel w => exact s.standing_ordered _ _ fun t n => by constructor <;> simp
  | toneOrder w => exact s.standing_ordered _ _ fun t n => by constructor <;> simp
  | modeOrder w => exact s.standing_ordered _ _ fun t n => by constructor <;> simp
  | query w => exact s.standing_ordered _ _ fun t n => by constructor <;> simp
  | reportNoticeHeard k w => exact s.standing_received .refl
  | noticeInvalid => exact s.standing_received fun t => by constructor <;> simp
  | receiveFramingError => exact act (by constructor <;> simp)
  | receiverIdle => exact act (by constructor <;> simp)
  | busHeld => exact act (by constructor <;> rfl)
  | busHeldClear => exact act (by constructor <;> simp)
  | startEdge d b =>
    refine act ?_
    split
    · exact s.standing_ite (by constructor <;> simp) (by constructor <;> simp)
    · constructor <;> simp
    · exact .refl s
    · exact .refl s
  | sensePulseEdge n => exact act (by constructor <;> rfl)

end Commands

/-- The work begun touches none of the outside's fields. -/
theorem State.outsideKept_beginWork (s : State) : s.OutsideKept s.beginWork := by
  have started : ∀ (ls : List Line) (t : State), t.OutsideKept (ls.foldl (fun t n => t.onLine n LineState.startDeadTime) t) := fun ls t =>
    (State.Standing.foldl (fun _ _ => by constructor <;> rfl) ls t).outside
  obtain ⟨h1, h2, h3, h4, h5, h6, h7⟩ := started (allLines.filter s.inUse) { s with phase := .running, table := { LoadTable.reset with budget := s.params.ring.budget }, sense := .reset, tonePhase := 0 }
  exact ⟨h1, h2, h3, h4, h5, h6, h7⟩

/-- Every command leaves the outside's fields alone. -/
theorem State.outsideKept_run (s : State) (c : Instr) : s.OutsideKept (s.run c) := by
  by_cases hc : (∀ a l8 cfgp, c ≠ .reset a l8 cfgp) ∧ c ≠ .resetAsserted ∧ ∀ a, c ≠ .endOfLoading a
  · exact (s.standing_run c hc.1 hc.2.1 hc.2.2).outside
  · cases c with
    | reset a l8 cfgp => exact ⟨rfl, rfl, rfl, rfl, rfl, rfl, rfl⟩
    | resetAsserted => exact ⟨rfl, rfl, rfl, rfl, rfl, rfl, rfl⟩
    | endOfLoading a =>
      refine ite_keeps (c := s.phase = .loading) (fun _ => ?_) fun _ => ⟨rfl, rfl, rfl, rfl, rfl, rfl, rfl⟩
      obtain ⟨h1, h2, h3, h4, h5, h6, h7⟩ := (s.configure a).outsideKept_beginWork
      constructor <;> simp_all
    | _ => exact absurd ⟨by simp, by simp, by simp⟩ hc

/-- Settles O1: the step takes the front of the queue by definition. -/
theorem stepRunsFrontCommand : Obligations.StepRunsFrontCommand := fun _ _ _ => rfl

/-- Settles O3: every command has a next state, and its frame holds the outside's fields. -/
theorem everyCommandCompletes : Obligations.EveryCommandCompletes := fun c s =>
  have h := s.outsideKept_run c
  ⟨s.run c, s.exec_run c, h.pending, h.order, h.sns, h.cym, h.zcm, h.nbLow, h.cfgda⟩

/-- Settles O4: outside a reset only the end of loading touches the configuration, and in a running part there is none to end. -/
theorem configurationStands : Obligations.ConfigurationStands := by
  intro c s t hrunning hexec hreset hasserted
  rw [State.exec_run] at hexec
  cases hexec
  by_cases hend : ∀ a, c ≠ .endOfLoading a
  · have h := s.standing_run c hreset hasserted hend
    exact ⟨h.phase.trans hrunning, h.params, h.straps, h.loader⟩
  · obtain ⟨a, rfl⟩ : ∃ a, c = .endOfLoading a := by simpa using hend
    have hsame : s.run (.endOfLoading a) = s := if_neg (by rw [hrunning]; simp)
    rw [hsame]
    exact ⟨hrunning, rfl, rfl, rfl⟩

end Sys2Proof.Machine
end

section
/-! SUPPORT. The Notice Bus Interface keeps its counts in range. -/

namespace Sys2Proof.Machine

section Counts
variable {b : Bus} (h : b.CountsOk)
include h

/-- A byte being taken that holds what its start edge found. -/
theorem Bus.CountsOk.setByte {y : ByteInProgress} (hy : y.idleBefore ≤ 24 ∧ y.idleSamplesBefore < 16) : { b with byte := some y }.CountsOk :=
  { h with before := fun _ hz => by cases hz; exact hy }

/-- Receiver, buffer, byte and idle counter set: what an edge, a byte or the end of a notice does. -/
theorem Bus.CountsOk.setReceiver (x : RxCondition) {q : List Byte} {i j : Nat} (hq : q.length ≤ 15) (hi : i ≤ 24) (hj : j < 16) :
    { b with rx := x, buffer := q, byte := none, idle := i, idleSamples := j }.CountsOk :=
  { h with idle := hi, idleSamples := hj, buffer := hq, before := fun _ hz => by cases hz }

theorem Bus.CountsOk.setIdle {i j : Nat} (hi : i ≤ 24) (hj : j < 16) : { b with idle := i, idleSamples := j }.CountsOk :=
  { h with idle := hi, idleSamples := hj }

theorem Bus.CountsOk.setErrors {e : Nat} (he : e ≤ 15) : { b with errors := e }.CountsOk := { h with errors := he }

theorem Bus.CountsOk.setRecessive {r : Nat} (hr : r ≤ 12 * 16) : { b with recessive := r }.CountsOk := { h with recessive := hr }

theorem Bus.CountsOk.setDominant {i j : Nat} (hi : i ≤ 20) (hj : j < 16) : { b with dominantRun := i, dominantSamples := j }.CountsOk :=
  { h with dominantRun := hi, dominantSamples := hj }

/-- Attempt, own-last flag and the marks are no counts. -/
theorem Bus.CountsOk.setMarks (a : Option Attempt) (o d x r : Bool) :
    { b with attempt := a, ownLast := o, degraded := d, busHeld := x, recovered := r }.CountsOk :=
  { h with }

theorem Bus.CountsOk.setLink (k : Link) {p c : Nat} (hp : p ≤ 2) (hc : c ≤ 7) : { b with link := k, period := p, clashes := c }.CountsOk :=
  { h with period := hp, clashes := hc }

theorem Bus.CountsOk.countIdle : b.countIdle.CountsOk := by
  unfold Bus.countIdle
  split
  · exact h.setIdle h.idle ‹_›
  · exact h.setIdle (Nat.min_le_left _ _) (by decide)

theorem Bus.CountsOk.stopIdle : b.stopIdle.CountsOk := h.setIdle (Nat.zero_le _) (by decide)

theorem Bus.CountsOk.takeEdge : b.takeEdge.CountsOk :=
  (h.stopIdle.setMarks b.attempt false b.degraded b.busHeld b.recovered).setByte ⟨h.idle, h.idleSamples⟩

theorem Bus.CountsOk.held : b.held.CountsOk := by
  obtain ⟨h1, h2, h3, h4, h5, h6, h7, h8, h9, h10⟩ := h
  unfold Bus.held
  refine ⟨?_, h2, h3, by simp, by simp, by simp [heldRun], by simp, by simp, by simp, by simp⟩
  dsimp only
  split
  · exact Nat.min_le_left _ _
  · exact h1

end Counts

section Received
variable {s : State} (h : s.bus.CountsOk)
include h

theorem State.countsOk_countError : s.countError.bus.CountsOk := h.setErrors (Nat.min_le_left _ _)

theorem State.countsOk_discard : s.discard.bus.CountsOk := by
  have hr := h.recessive
  exact h.setReceiver _ (by simp) (by simp only [samplesPerBit]; omega) (Nat.mod_lt _ (by decide))

theorem State.countsOk_noticeEnds : s.noticeEnds.bus.CountsOk := h.setReceiver _ (by simp) (by decide) (by decide)

theorem State.countsOk_takeByte (x : Byte) : (s.takeByte x).bus.CountsOk := by
  have hbuffer := h.buffer
  refine { h with idle := Nat.zero_le _, idleSamples := by simp [State.takeByte], buffer := ?_ }
  show (if s.bus.buffer.length < bufferSize then s.bus.buffer ++ [x] else s.bus.buffer).length ≤ 15
  split
  · rename_i hroom; simp only [bufferSize] at hroom; simp; omega
  · exact hbuffer

theorem State.countsOk_edgeTaken : s.edgeTaken.bus.CountsOk :=
  (h.setRecessive (Nat.zero_le _)).setMarks s.bus.attempt false s.bus.degraded s.bus.busHeld s.bus.recovered

theorem State.countsOk_beginNotice : s.beginNotice.bus.CountsOk :=
  { h with idle := Nat.zero_le _, idleSamples := by simp [State.beginNotice], buffer := by simp [State.beginNotice] }

end Received

end Sys2Proof.Machine
end

section
/-! SUPPORT. One induction over a step: a property that every command keeps, and every count by which a crystal period moves on by itself, is kept by the
step. -/

namespace Sys2Proof.Machine

/-- What an induction over a step asks of a property: that every command keeps it, and every change that a crystal period makes by itself. A running relay
timer is asked for together with the dead time that it may have reached; the other timers only where their limit is not reached. -/
structure StepKeeps (P : State → Prop) : Prop where
  run : ∀ (c : Instr) {s : State}, P s → P (s.run c)
  queue : ∀ {s : State} (q : List Instr), P s → P { s with pending := q }
  slot : ∀ {s : State}, s.phase ≠ .held → P s → P s.slotMs
  cross : ∀ {s : State}, s.phase ≠ .held → P s → P s.zcMs
  close : ∀ {s : State}, P s → P s.closeMs
  sense : ∀ {s : State}, P s → P s.senseTick
  bus : ∀ {s : State} (b : Bus), b.link = s.bus.link → (s.bus.CountsOk → b.CountsOk) → P s → P (s.setBus b)
  lose : ∀ {s : State}, P s → P s.loseAttempt
  clock : ∀ {s : State} (l : Loader) (tone crystal : Nat) (last : LastRead), P s →
    P { s with loader := l, tonePhase := tone, crystal := crystal, last := last }
  relay : ∀ {s : State} (n : Line), s.serves n = true → P s → P ((s.onLine n LineState.countRelay).deadDue n)
  dial : ∀ {s : State} (n : Line) (d : Nat), (s.line n).hook.dialTimer = some d → d + 1 < 1000 * s.params.timing.dialTimeout → P s →
    P (s.onHook n fun h => { h with dialTimer := some (d + 1) })
  stutter : ∀ {s : State} (n : Line) (k : Fin 6) (d : Nat), (s.line n).tone.tone = some (.recall (.burst k) d) → d + 1 < 100 → P s →
    P (s.onTone n fun t => { t with tone := some (.recall (.burst k) (d + 1)) })

/-! ### Properties that read no timer of their own -/

section Blind
variable {P : State → Prop} (run : ∀ (c : Instr) {s : State}, P s → P (s.run c))
include run

theorem deadDue_keeps (dead : ∀ {s : State} (n : Line), P s → P (s.onLine n (LineState.deadTimeReached s.params.relay))) {s : State} (n : Line) (h : P s) :
    P (s.deadDue n) := by
  unfold State.deadDue
  split
  · split
    · exact run _ h
    · exact run _ h
    all_goals exact dead n h
  · exact h

theorem senseTick_keeps (sense : ∀ {s : State} (u : SenseUnit), P s → P (s.setSense u)) {s : State} (h : P s) : P s.senseTick := by
  have hmoved := sense { s.sense with windowTimer := s.sense.windowTimer + 1 } h
  unfold State.senseTick
  exact ite_keeps (fun _ => ite_keeps (fun _ => run _ hmoved) fun _ => hmoved) fun _ => h

variable (cadence : ∀ {s : State} (c : Cadence), P s → P (s.setCadence c))
include cadence

theorem slotMs_keeps {s : State} (h : P s) : P s.slotMs := by
  have hmoved := cadence { s.cadence with slotTimer := s.cadence.slotTimer + 1 } h
  unfold State.slotMs
  exact ite_keeps (fun _ => run _ hmoved) fun _ => ite_keeps (fun _ => run _ hmoved) fun _ => hmoved

theorem zcMs_keeps {s : State} (h : P s) : P s.zcMs := by
  have hmoved := cadence { s.cadence with zcTimer := s.cadence.zcTimer + 1 } h
  unfold State.zcMs
  exact ite_keeps (fun _ => ite_keeps (fun _ => run _ hmoved) fun _ => hmoved) fun _ => h

omit run in
theorem closeMs_keeps {s : State} (h : P s) : P s.closeMs := by
  have hclosed : P (if s.order.lateClose && s.cymEdge then s else s.closeDue) :=
    ite_keeps (fun _ => h) fun _ => ite_keeps (fun _ => cadence _ h) fun _ => h
  unfold State.closeMs
  exact ite_keeps (fun _ => cadence _ hclosed) fun _ => hclosed

end Blind

/-! ### The timers of a line touch nothing but lines, load view and reports -/

theorem State.standing_lineMs (s : State) (n : Line) : s.Standing (s.lineMs n) := by
  have onLine : ∀ (t : State) (f : LineState → LineState), t.Standing (t.onLine n f) := fun _ _ => by constructor <;> rfl
  have hdead : ∀ t : State, t.Standing (t.deadDue n) := fun t => by
    unfold State.deadDue
    refine t.standing_ite ?_ (.refl t)
    split
    · exact t.standing_run _ (by simp) (by simp) (by simp)
    · exact t.standing_run _ (by simp) (by simp) (by simp)
    all_goals exact onLine t _
  have hwait : ∀ t : State, t.Standing (t.waitDue n) := fun t => t.standing_ite (t.standing_run _ (by simp) (by simp) (by simp)) (.refl t)
  have hdial : ∀ t : State, t.Standing (t.dialMs n) := fun t => by
    unfold State.dialMs
    split
    · exact .refl t
    · exact t.standing_ite (t.standing_run _ (by simp) (by simp) (by simp)) (onLine t _)
  have hstutter : ∀ t : State, t.Standing (t.stutterMs n) := fun t => by
    unfold State.stutterMs
    split
    · exact t.standing_ite (t.standing_run _ (by simp) (by simp) (by simp)) (onLine t _)
    all_goals exact .refl t
  exact ((((onLine s _).trans (hdead _)).trans (hwait _)).trans (hdial _)).trans (hstutter _)

theorem State.standing_slotMs (s : State) : s.Standing s.slotMs := by
  have hmoved : s.Standing (s.setCadence { s.cadence with slotTimer := s.cadence.slotTimer + 1 }) := by constructor <;> rfl
  unfold State.slotMs
  exact s.standing_ite (hmoved.trans (State.standing_run _ _ (by simp) (by simp) (by simp)))
    (s.standing_ite (hmoved.trans (State.standing_run _ _ (by simp) (by simp) (by simp))) hmoved)

theorem State.standing_closeMs (s : State) : s.Standing s.closeMs := by
  have hclosed : s.Standing (if s.order.lateClose && s.cymEdge then s else s.closeDue) := s.standing_ite (.refl s) (by constructor <;> simp)
  unfold State.closeMs
  exact s.standing_ite (hclosed.trans (by constructor <;> rfl)) hclosed

/-- The commands that a bus sample may bring. -/
def BusCommand : Instr → Bool
  | .attemptStart | .clash | .ownNoticeCompletion | .claimReceived _ | .releaseReceived _ | .refreshReceived _ | .ringOrder _ | .cancel _ | .toneOrder _
  | .modeOrder _ | .query _ | .reportNoticeHeard _ _ | .noticeInvalid | .receiveFramingError | .receiverIdle | .busHeld | .busHeldClear => true
  | _ => false

/-- The end of a notice is such a command. -/
theorem busCommand_decodeNotice (bytes : List Byte) : BusCommand (decodeNotice bytes) = true := by
  unfold decodeNotice
  split
  · dsimp only
    split
    · unfold commandOfKind
      split <;> rfl
    · rfl
  · rfl

/-- What a bus sample asks of a property: that the commands it may bring keep it, and every change that it makes to the bus by itself. -/
structure BusKeeps (P : State → Prop) : Prop where
  run : ∀ {c : Instr} {s : State}, BusCommand c = true → P s → P (s.run c)
  bus : ∀ {s : State} (b : Bus), b.link = s.bus.link → (s.bus.CountsOk → b.CountsOk) → P s → P (s.setBus b)
  lose : ∀ {s : State}, P s → P s.loseAttempt

namespace BusKeeps
variable {P : State → Prop} (K : BusKeeps P) {s : State}
include K

/-! ### The bus sample -/

theorem countRecessive (d : Bool) (h : P s) : P (s.countRecessive d) := by
  refine K.bus _ rfl (fun g => g.setRecessive ?_) h
  split
  · exact Nat.zero_le _
  · exact Nat.min_le_left _ _

theorem countDominant (d : Bool) (h : P s) : P (s.countDominant d) := by
  have hcounted : P (s.setBus { s.bus with dominantSamples := 0, dominantRun := min heldRun (s.bus.dominantRun + 1) }) :=
    K.bus _ rfl (fun g => g.setDominant (Nat.min_le_left _ _) (by decide)) h
  unfold State.countDominant
  split
  · split
    · exact K.bus _ rfl (fun g => g.setDominant g.dominantRun ‹_›) h
    · exact ite_keeps (fun _ => K.run rfl hcounted) fun _ => hcounted
  · exact K.bus _ rfl (fun g => g.setDominant (Nat.zero_le _) (by decide)) h

theorem countIdle (h : P s) : P (s.setBus s.bus.countIdle) :=
  K.bus _ (by unfold Bus.countIdle; split <;> rfl) (fun g => g.countIdle) h

theorem awaitIdle (d : Bool) (h : P s) : P (s.awaitIdle d) := by
  have hcount := K.countIdle h
  unfold State.awaitIdle
  split
  · exact K.bus _ rfl (fun g => g.stopIdle) h
  · exact ite_keeps (fun _ => K.run (by split <;> rfl) hcount) fun _ => hcount

section Taken
variable {b : ByteInProgress} (hb : s.bus.CountsOk → b.idleBefore ≤ 24 ∧ b.idleSamplesBefore < 16)
include hb

theorem setByte (h : P s) : P (s.setBus { s.bus with byte := some b }) := K.bus _ rfl (fun g => g.setByte (hb g)) h

theorem testStartBit (d : Bool) (h : P s) : P (s.testStartBit b d) := by
  have htaken := K.setByte hb h
  unfold State.testStartBit
  split
  · exact ite_keeps (fun _ => htaken) fun _ => K.run rfl h
  · split
    · exact ite_keeps (fun _ => ite_keeps (fun _ => K.run rfl h) fun _ => htaken) fun _ => K.run rfl h
    · refine ite_keeps (fun _ => ?_) fun _ => ?_
      · exact K.bus (s := s) { s.beginNotice.bus with byte := some b } rfl (fun g => (State.countsOk_beginNotice (s := s) g).setByte (hb g)) h
      · exact K.bus _ rfl (fun g => { g.setIdle (hb g).1 (hb g).2 with before := fun _ hz => by cases hz }) h
    · exact h
    · exact h

theorem takeDataBit (k : Nat) (r : Bool) (h : P s) : P (s.takeDataBit b k r) := by
  have htaken := K.setByte hb h
  unfold State.takeDataBit
  dsimp only
  split
  · refine ite_keeps (fun _ => htaken) fun _ => ?_
    unfold State.mismatch
    exact ite_keeps (fun _ => K.lose htaken) fun _ => K.run rfl htaken
  · exact htaken

theorem takeStopBit (r : Bool) (h : P s) : P (s.takeStopBit b r) := by
  unfold State.takeStopBit
  refine ite_keeps (fun _ => ?_) fun _ => ite_keeps (fun _ => K.run rfl h) fun _ => K.run rfl h
  exact K.bus (s := s) { (s.takeByte b.shift).bus with byte := some b } rfl (fun g => (State.countsOk_takeByte (s := s) g _).setByte (hb g)) h

end Taken

theorem sampleByte (b : ByteInProgress) (hb : s.bus.byte = some b) (d : Bool) (h : P s) : P (s.sampleByte b d) := by
  have hbefore : ∀ c : ByteInProgress, c.idleBefore = b.idleBefore → c.idleSamplesBefore = b.idleSamplesBefore →
      (s.bus.CountsOk → c.idleBefore ≤ 24 ∧ c.idleSamplesBefore < 16) := fun c h1 h2 g => by rw [h1, h2]; exact g.before b hb
  unfold State.sampleByte
  exact ite_keeps (fun _ => K.testStartBit (hbefore _ (by rfl) (by rfl)) _ h) fun _ =>
    ite_keeps (fun _ => K.bus _ rfl (fun g => { g.setIdle (Nat.zero_le _) (by decide) with before := fun _ hz => by cases hz }) h) fun _ =>
      ite_keeps (fun _ => ite_keeps (fun _ => K.takeDataBit (hbefore _ (by rfl) (by rfl)) _ _ h) fun _ => K.takeStopBit (hbefore _ (by rfl) (by rfl)) _ h) fun _ =>
          K.setByte (hbefore _ (by rfl) (by rfl)) h

theorem watchEdge (d : Bool) (h : P s) : P (s.watchEdge d) := by
  have hcount := K.countIdle h
  have hedge : P (s.setBus s.bus.takeEdge) := K.bus _ rfl (fun g => g.takeEdge) h
  unfold State.watchEdge
  split
  · split
    · exact ite_keeps (fun _ => K.run rfl h) fun _ => hedge
    · exact hedge
  · exact ite_keeps (fun _ => K.run (by split; exacts [rfl, busCommand_decodeNotice _]) hcount) fun _ => hcount

theorem receiveSample (d : Bool) (h : P s) : P (s.receiveSample d) := by
  unfold State.receiveSample
  split
  · exact K.awaitIdle d h
  · split
    · exact K.sampleByte _ ‹_› d h
    · exact K.watchEdge d h

theorem busSample (h : P s) : P s.busSample := by
  unfold State.busSample
  refine ite_keeps (fun _ => ?_) fun _ => h
  have hbegun : P (if s.mayAttempt && s.hasNotice && s.idleEnough then s.run .attemptStart else s) := ite_keeps (fun _ => K.run rfl h) fun _ => h
  have hdriven : ∀ t : State, P t → P t.driveOn := fun t ht => K.bus _ rfl (fun g => g.setMarks _ _ _ _ _) ht
  exact K.receiveSample _ (K.countDominant _ (K.countRecessive _ (hdriven _ hbegun)))

end BusKeeps

/-- A property that every command keeps is kept by a bus sample. -/
theorem StepKeeps.onBus {P : State → Prop} (K : StepKeeps P) : BusKeeps P := ⟨fun {c} _ _ h => K.run c h, K.bus, K.lose⟩

namespace StepKeeps
variable {P : State → Prop} (K : StepKeeps P) {s : State}
include K

/-! ### The millisecond -/

theorem lineMs (n : Line) (hserves : s.serves n = true) (h : P s) : P (s.lineMs n) := by
  have hrelay : P (s.relayMs n) := by
    have hdead := K.relay n hserves h
    unfold State.relayMs State.waitDue
    exact ite_keeps (fun _ => K.run _ hdead) fun _ => hdead
  have hdial : P ((s.relayMs n).dialMs n) := by
    unfold State.dialMs
    split
    · exact hrelay
    · rename_i d hd
      exact ite_keeps (fun _ => K.run _ hrelay) fun hlt => K.dial n d hd (by omega) hrelay
  unfold State.lineMs State.stutterMs
  split
  · rename_i k d hd
    exact ite_keeps (fun _ => K.run _ hdial) fun hlt => K.stutter n k d hd (by simp only [stutterLength] at hlt; omega) hdial
  all_goals exact hdial

/-- The lines in use take their millisecond in turn: each is still served when its turn comes. -/
theorem linesMs (ls : List Line) (hls : ∀ n ∈ ls, s.serves n = true) (h : P s) :
    P (ls.foldl State.lineMs s) ∧ s.Standing (ls.foldl State.lineMs s) := by
  induction ls generalizing s with
  | nil => exact ⟨h, .refl s⟩
  | cons n ls ih =>
    have hstands := s.standing_lineMs n
    obtain ⟨h1, h2⟩ := ih (fun m hm => (hstands.serves m).trans (hls m (by simp [hm]))) (K.lineMs n (hls n (by simp)) h)
    exact ⟨h1, hstands.trans h2⟩

theorem foldl {α : Type} {f : State → α → State} (hf : ∀ (t : State) (a : α), P t → P (f t a)) (ls : List α) (h : P s) : P (ls.foldl f s) := by
  induction ls generalizing s with
  | nil => exact h
  | cons a ls ih => exact ih (hf s a h)

theorem msTick (hphase : s.phase ≠ .held) (h : P s) : P s.msTick := by
  have hlines : P (if s.running then (allLines.filter s.inUse).foldl State.lineMs s else s) ∧
      (if s.running then (allLines.filter s.inUse).foldl State.lineMs s else s).phase = s.phase := by
    split
    · rename_i hrunning
      have := K.linesMs (allLines.filter s.inUse) (fun n hn => by simp [State.serves, hrunning, (List.mem_filter.1 hn).2]) h
      exact ⟨this.1, this.2.phase⟩
    · exact ⟨h, rfl⟩
  unfold State.msTick
  generalize (if s.running then (allLines.filter s.inUse).foldl State.lineMs s else s) = t at hlines ⊢
  exact K.cross (by rw [t.standing_slotMs.phase, hlines.2]; exact hphase) (K.slot (by rw [hlines.2]; exact hphase) hlines.1)

/-! ### The crystal period and the step -/

theorem readPins (h : P s) : P s.readPins := by
  have hsense : P s.readSense := by
    unfold State.readSense
    exact K.foldl (fun _ _ ht => ite_keeps (fun _ => K.run _ ht) fun _ => ht) _ h
  have hcym : P (if s.cymEdge then s.readSense.run .cycleMarker else s.readSense) := ite_keeps (fun _ => K.run _ hsense) fun _ => hsense
  unfold State.readPins
  dsimp only
  exact K.clock _ _ _ _ (ite_keeps (fun _ => K.run _ hcym) fun _ => hcym)

theorem advance (hphase : s.phase ≠ .held) (h : P s) : P s.advance := by
  have hclosed : P (if (s.crystal + 1) % crystalPerMs = lastPeriod then s.closeMs else s) := ite_keeps (fun _ => K.close h) fun _ => h
  have hclosed' : (if (s.crystal + 1) % crystalPerMs = lastPeriod then s.closeMs else s).phase ≠ .held :=
    ite_keeps (P := fun t => t.phase ≠ .held) (fun _ => by rw [s.standing_closeMs.phase]; exact hphase) fun _ => hphase
  unfold State.advance
  dsimp only
  generalize (if (s.crystal + 1) % crystalPerMs = lastPeriod then s.closeMs else s) = t at hclosed hclosed' ⊢
  have hcrystal : P { t with crystal := (s.crystal + 1) % crystalPerMs } := K.clock t.loader t.tonePhase _ t.last hclosed
  have htone : P ({ t with crystal := (s.crystal + 1) % crystalPerMs }).toneTick := by
    unfold State.toneTick
    exact ite_keeps (fun _ => K.clock t.loader _ _ t.last hcrystal) fun _ => hcrystal
  have hloaded : P ({ t with crystal := (s.crystal + 1) % crystalPerMs }).toneTick.loaderTick := by
    unfold State.loaderTick
    exact ite_keeps (fun _ => K.clock _ _ _ _ htone) fun _ => htone
  have hloaded' : ({ t with crystal := (s.crystal + 1) % crystalPerMs }).toneTick.loaderTick.phase ≠ .held := by
    unfold State.loaderTick State.toneTick
    (repeat' split) <;> exact hclosed'
  generalize ({ t with crystal := (s.crystal + 1) % crystalPerMs }).toneTick.loaderTick = u at hloaded hloaded' ⊢
  have hms : P (if (s.crystal + 1) % crystalPerMs = 0 then u.msTick else u) := ite_keeps (fun _ => K.msTick hloaded' hloaded) fun _ => hloaded
  generalize (if (s.crystal + 1) % crystalPerMs = 0 then u.msTick else u) = v at hms ⊢
  have hsense : P (if (s.crystal + 1) % crystalPerMs % crystalPerEighth = 0 then v.senseTick else v) :=
    ite_keeps (fun _ => K.sense hms) fun _ => hms
  generalize (if (s.crystal + 1) % crystalPerMs % crystalPerEighth = 0 then v.senseTick else v) = w at hsense ⊢
  have hbus : P (if (s.crystal + 1) % crystalPerMs % crystalPerSample = 0 then w.busSample else w) :=
    ite_keeps (fun _ => K.onBus.busSample hsense) fun _ => hsense
  generalize (if (s.crystal + 1) % crystalPerMs % crystalPerSample = 0 then w.busSample else w) = y at hbus ⊢
  refine K.readPins (ite_keeps (fun _ => ?_) fun _ => hbus)
  unfold State.loadingMs
  exact ite_keeps (fun _ => K.run _ hbus) fun _ => hbus

theorem tick (h : P s) : P s.tick := by
  unfold State.tick
  exact ite_keeps (fun _ => ite_keeps (fun _ => h) fun _ => K.run _ h) fun _ =>
    ite_keeps (fun _ => K.run _ h) fun hphase => K.advance hphase h

/-- The induction over a step. -/
theorem step {t : State} (h : P s) (hstep : Machine.step s = .next t) : P t := by
  rcases step_cases hstep with ⟨-, rfl⟩ | ⟨c, rest, -, rfl⟩
  · exact K.tick h
  · exact K.run c (K.queue rest h)

end StepKeeps

end Sys2Proof.Machine
end

section
/-! SUPPORT. What one step can do to one line. Ring work, reports and the link change a line by few kinds of move; each shared operation is a sequence of
them on every line, so that a property of one line needs one look at each kind of move and not one at each operation. -/

namespace Sys2Proof.Machine

/-! ### The moves -/

/-- One change that ring work, the report queue or the link makes to a line, `p` being the relay parameters. -/
inductive LineMove (p : RelayParams) : LineState → LineState → Prop
  /-- A PENDING line takes the token (R48). -/
  | claim {l : LineState} {o : Order} (q : Placement) (h : l.ring = .pending o) :
      LineMove p l { l with ring := .claiming { o with deferred := true } q }
  /-- A claim is placed afresh (R50). -/
  | replace {l : LineState} {o : Order} {q : Placement} (q' : Placement) (h : l.ring = .claiming o q) :
      LineMove p l { l with ring := .claiming o q' }
  /-- A claim is given up, its order kept (R50, R63). -/
  | unclaim {l : LineState} {o : Order} {q : Placement} (h : l.ring = .claiming o q) : LineMove p l { l with ring := .pending o }
  /-- A claim is committed (R52). -/
  | commit {l : LineState} {o : Order} {q : Placement} (h : l.ring = .claiming o q) :
      LineMove p l { l with ring := .ringing { o with rung := true } q true }
  /-- A RINGING line is shed (R56). -/
  | shed {l : LineState} {o : Order} {q : Placement} {b : Bool} (h : l.ring = .ringing o q b) :
      LineMove p l { l.immediateFeed p with ring := .pending o }
  /-- A RINGING line is released (R55). -/
  | release {l : LineState} {o : Order} {q : Placement} {b : Bool} (h : l.ring = .ringing o q b) :
      LineMove p l { l.immediateFeed p with ring := .idle }
  /-- Ring work ends before ringing (R53, R57). -/
  | withdraw {l : LineState} (h : l.ring.isRinging = false) : LineMove p l { l with ring := .idle }
  /-- A deferral is reported (R62). -/
  | defer {l : LineState} {o : Order} (h : l.ring = .pending o) : LineMove p l { l with ring := .pending { o with deferred := true } }
  /-- The relays are directed at a slot boundary (R16). -/
  | direct {l : LineState} (z : Bool) (j k : Slot) : LineMove p l (l.classBoundary p z j k)
  /-- The events-lost flag is set or cleared (R154, R156). -/
  | lose {l : LineState} (b : Bool) : LineMove p l { l with eventsLost := b }
  /-- A WITHHELD line becomes DIAL (R121). -/
  | dial {l : LineState} : LineMove p l l.releaseTone
  /-- A digit leaves the store (R155). -/
  | digit {l : LineState} : LineMove p l l.digitTaken

/-- Every peer entry is at most three cycle starts old (R23). -/
def State.AgesOk (s : State) : Prop := ∀ (a : PeerAddr) (e : Entry), s.table.peers[a.val] = some e → e.age ≤ 3

/-- An entry set or removed, at an age in range, leaves every age in range. -/
theorem State.AgesOk.setPeer {s : State} (h : s.AgesOk) {a : PeerAddr} {x : Option Entry} (hx : ∀ e, x = some e → e.age ≤ 3) :
    (s.setTable { s.table with peers := s.table.peers.set a.val x }).AgesOk := by
  intro b e he
  simp only [State.setTable_table, Vector.getElem_set] at he
  split at he
  · exact hx e he
  · exact h b e he

/-- An entry whose age would reach 4 is removed, so that ageing keeps every age in range (R23). -/
theorem State.AgesOk.aged {s : State} (h : s.AgesOk) : (s.setTable s.table.aged).AgesOk := by
  intro b e he
  simp only [State.setTable_table, LoadTable.aged, Vector.getElem_map, Option.bind_eq_some_iff] at he
  obtain ⟨x, -, hx⟩ := he
  unfold Entry.older at hx
  split at hx
  · cases hx
  · cases hx; dsimp only; omega

/-- What an operation leaves of parameters, peer entries and report queue: the parameters stand, no entry grows too old, and the queue takes no entry that
it has no room for (R23, R153). -/
structure State.Filed (s t : State) : Prop where
  params : t.params = s.params
  ages : s.AgesOk → t.AgesOk
  queue : t.asm.queue.length ≤ max 12 s.asm.queue.length

/-- Every line of `t` has come about from that of `s` by moves. -/
def State.LinesMoved (s t : State) : Prop := ∀ m : Line, Relation.ReflTransGen (LineMove s.params.relay) (s.line m) (t.line m)

/-- An operation made of moves, with what it leaves of parameters, peer entries and report queue. -/
structure State.Moved (s t : State) : Prop extends s.Filed t where
  line : s.LinesMoved t

theorem State.Filed.trans {s t u : State} (h : s.Filed t) (g : t.Filed u) : s.Filed u :=
  ⟨g.params.trans h.params, fun ha => g.ages (h.ages ha), by have h1 := h.queue; have h2 := g.queue; omega⟩

/-- An operation that touches neither parameters nor peer entries nor report queue. -/
theorem State.Filed.still (s : State) {t : State} (hp : t.params = s.params := by rfl) (ha : t.table.peers = s.table.peers := by rfl)
    (hq : t.asm.queue = s.asm.queue := by rfl) : s.Filed t :=
  ⟨hp, fun h a e he => h a e (by rwa [ha] at he), by rw [hq]; omega⟩

namespace State.Moved

theorem refl (s : State) : s.Moved s := ⟨.still s, fun _ => .refl⟩

theorem trans {s t u : State} (h : s.Moved t) (g : t.Moved u) : s.Moved u :=
  ⟨h.toFiled.trans g.toFiled, fun m => (h.line m).trans (by rw [← h.params]; exact g.line m)⟩

/-- An operation that touches no line. -/
theorem still (s : State) {t : State} (hp : t.params = s.params) (h : ∀ m, t.line m = s.line m) (ha : t.table.peers = s.table.peers := by rfl)
    (hq : t.asm.queue = s.asm.queue := by rfl) : s.Moved t :=
  ⟨.still s hp ha hq, fun m => by rw [h m]⟩

theorem byMove {s : State} {n : Line} {f : LineState → LineState} (h : LineMove s.params.relay (s.line n) (f (s.line n))) :
    s.Moved (s.onLine n f) := by
  refine ⟨.still s, fun m => ?_⟩
  rw [State.line_onLine]
  split
  · subst m; exact .single h
  · exact .refl

/-- A change of ring state alone. -/
theorem byRing {s : State} {n : Line} {r : RingRecord} (h : LineMove s.params.relay (s.line n) { s.line n with ring := r }) :
    s.Moved (s.setRing n r) :=
  byMove h

theorem byMoves {s : State} {f : LineState → LineState} (h : ∀ l, LineMove s.params.relay l (f l)) : s.Moved (s.mapLines f) :=
  ⟨.still s, fun m => by rw [State.line_mapLines]; exact .single (h _)⟩

theorem setTable (s : State) (b : LoadTable) (hb : b.peers = s.table.peers := by rfl) : s.Moved (s.setTable b) :=
  still s rfl (fun _ => rfl) hb
/-- A peer entry set or removed, at an age in range. -/
theorem setPeer {s : State} {a : PeerAddr} {x : Option Entry} (hx : ∀ e, x = some e → e.age ≤ 3) :
    s.Moved (s.setTable { s.table with peers := s.table.peers.set a.val x }) :=
  ⟨⟨rfl, fun h => h.setPeer hx, Nat.le_max_right _ _⟩, fun _ => .refl⟩
theorem setSched (s : State) (d : Scheduler) : s.Moved (s.setSched d) := still s rfl fun _ => rfl
theorem setBus (s : State) (b : Bus) : s.Moved (s.setBus b) := still s rfl fun _ => rfl
theorem setAsm (s : State) (a : Assembler) (ha : a.queue = s.asm.queue := by rfl) : s.Moved (s.setAsm a) :=
  still s rfl (fun _ => rfl) rfl ha
theorem setQueue (s : State) (q : List Report) (hq : q.length ≤ max 12 s.asm.queue.length) : s.Moved (s.setQueue q) :=
  ⟨⟨rfl, id, hq⟩, fun _ => .refl⟩
theorem setToken (s : State) (k : Token) : s.Moved (s.setToken k) := still s rfl fun _ => rfl
theorem leaveAccepted (s : State) (n : Line) : s.Moved (s.leaveAccepted n) := still s rfl fun _ => rfl
theorem leaveCommits (s : State) (n : Line) : s.Moved (s.leaveCommits n) := still s rfl fun _ => rfl
theorem oweRelease (s : State) (n : Line) : s.Moved (s.oweRelease n) := still s rfl fun _ => rfl

theorem byFold {α : Type} {f : State → α → State} (h : ∀ (s : State) (a : α), s.Moved (f s a)) (ls : List α) (s : State) : s.Moved (ls.foldl f s) := by
  induction ls generalizing s with
  | nil => exact refl s
  | cons a ls ih => exact (h s a).trans (ih _)

/-- A property of single lines that every move keeps is kept by every operation made of moves. -/
theorem keeps {s t : State} (h : s.Moved t) {P : LineState → Prop} (hP : ∀ l l', LineMove s.params.relay l l' → P l → P l') {m : Line}
    (hm : P (s.line m)) : P (t.line m) := by
  have hl := h.line m
  generalize t.line m = l at hl ⊢
  induction hl with
  | refl => exact hm
  | tail _ hstep ih => exact hP _ _ hstep ih

end State.Moved

open State.Moved

variable (s : State)

/-! ### The report queue -/

theorem State.moved_reconsiderWithheld : s.Moved s.reconsiderWithheld := by
  unfold State.reconsiderWithheld
  split
  · exact byMoves fun _ => .dial
  · exact refl s

/-- An entry pushed where the queue had room for it before what came first. -/
theorem State.Moved.pushReport {s t : State} (h : s.Moved t) (r : Report) (hroom : t.asm.queue.length + 1 ≤ max 12 s.asm.queue.length) :
    s.Moved (t.pushReport r) :=
  State.Moved.trans (t := t.setQueue (t.asm.queue ++ [r])) ⟨⟨h.params, h.ages, by simpa using hroom⟩, h.line⟩ (State.moved_reconsiderWithheld _)

theorem State.moved_pushReport (r : Report) (hroom : s.asm.queue.length < 12) : s.Moved (s.pushReport r) :=
  (refl s).pushReport r (by omega)

theorem State.room_of_freeCount {s : State} (h : s.freeCount ≠ 0) : s.asm.queue.length < 12 :=
  Nat.lt_of_not_le fun hfull => h (s.freeCount_eq_zero.2 hfull)

theorem State.moved_handEvent (n : Line) (e : Event) : s.Moved (s.handEvent n e) := by
  unfold State.handEvent
  split
  · exact refl s
  · split
    · exact byMove (.lose true)
    · exact s.moved_pushReport _ (State.room_of_freeCount ‹_›)

theorem State.moved_offerReport (r : Report) : s.Moved (s.offerReport r) := by
  unfold State.offerReport
  split
  · exact refl s
  · exact s.moved_pushReport r (State.room_of_freeCount ‹_›)

/-- A digit taken into the queue has left the store, and a new entry may have made a WITHHELD line DIAL. -/
theorem State.moved_takeDigit {s t : State} {b : Bool} {n : Line} {d : Digit} (h : s.takeDigit b n d = some t) : s.Moved t := by
  unfold State.takeDigit at h
  dsimp only at h
  split at h
  · rename_i q hq
    obtain ⟨before, after, ds, c, hold, -, -, -, hnew⟩ := eq_of_appendDigit _ _ _ _ _ _ hq
    cases h
    exact (Moved.setQueue s q (by rw [hold, hnew]; simp)).trans (byMove .digit)
  · split at h
    · rename_i hmake
      cases h
      have hfree : (s.onLine n LineState.digitTaken).freeCount ≠ 0 := by
        simp only [Bool.and_eq_true, bne_iff_ne, ne_eq] at hmake; exact hmake.2
      exact (byMove (f := LineState.digitTaken) .digit).trans (State.moved_pushReport _ _ (State.room_of_freeCount hfree))
    · cases h

theorem State.moved_takeDigitList (b : Bool) (n : Line) (ds : List Digit) : s.Moved (State.takeDigitList b n ds s) := by
  induction ds generalizing s with
  | nil => exact refl s
  | cons d ds ih =>
    unfold State.takeDigitList
    split
    · exact (State.moved_takeDigit ‹_›).trans (ih _)
    · exact refl s

theorem State.moved_takeDigits (b : Bool) (n : Line) : s.Moved (s.takeDigits b n) := s.moved_takeDigitList b n _

theorem State.moved_takeAllDigits (b : Bool) : s.Moved (s.takeAllDigits b) := byFold (fun t n => t.moved_takeDigits b n) _ _

/-- The head entry leaves, and at most one entry takes its place or digits fill the room there is. -/
theorem State.moved_popReport : s.Moved s.popReport := by
  have hpopped := (Moved.setQueue s s.asm.queue.tail (by simp)).trans (State.moved_reconsiderWithheld _)
  have hlength : (s.setQueue s.asm.queue.tail).reconsiderWithheld.asm.queue.length = s.asm.queue.length - 1 := by simp
  unfold State.popReport State.fillRoom
  generalize (s.setQueue s.asm.queue.tail).reconsiderWithheld = t at hpopped hlength ⊢
  split
  · rename_i n _
    have hflag := hpopped.trans (byMove (n := n) (f := fun l => { l with eventsLost := false }) (.lose false))
    exact hflag.pushReport _ (by show t.asm.queue.length + 1 ≤ _; omega)
  · exact hpopped.trans (t.moved_takeAllDigits true)

/-! ### Placement and the load view -/

theorem State.moved_issueClaim (n : Line) (q : Placement) : s.Moved (s.issueClaim n q) := by
  unfold State.issueClaim
  split
  · rename_i o ho
    exact (byRing (.claim q ho)).trans (Moved.setToken _ _)
  all_goals exact refl s

theorem State.moved_placementAttempt : s.Moved s.placementAttempt := by
  unfold State.placementAttempt
  split
  · split
    · exact s.moved_issueClaim _ _
    · exact refl s
  · exact refl s

theorem State.moved_freeToken : s.Moved s.freeToken :=
  (Moved.setToken s _).trans (State.moved_placementAttempt _)

theorem State.moved_replaceClaim {n : Line} {o : Order} {q : Placement} (h : s.ring n = .claiming o q) : s.Moved (s.replaceClaim n o) := by
  unfold State.replaceClaim
  split
  · exact byRing (.replace _ h)
  · exact (byRing (.unclaim h)).trans (State.moved_freeToken _)

theorem State.moved_revalidate : s.Moved s.revalidate := by
  unfold State.revalidate
  split
  · split
    · exact refl s
    · split
      · split
        · exact refl s
        · exact s.moved_replaceClaim ‹_›
      all_goals exact refl s
  all_goals exact refl s

/-- Two changes of one line in turn are one. -/
theorem State.onLine_onLine (n : Line) (f g : LineState → LineState) : (s.onLine n f).onLine n g = s.onLine n fun l => g (f l) := by
  simp [State.onLine, State.setLine, State.line, Vector.set_set]

/-- A relay request with a change of ring state after it is one change of the line. -/
theorem State.setRing_onLine (n : Line) (f : LineState → LineState) (r : RingRecord) :
    (s.onLine n f).setRing n r = s.onLine n fun l => { f l with ring := r } :=
  s.onLine_onLine n f _

theorem State.moved_shedLine (n : Line) : s.Moved (s.shedLine n) := by
  unfold State.shedLine
  split
  · rename_i o q b h
    rw [State.setRing_onLine]
    exact (byMove (f := fun l => { l.immediateFeed s.params.relay with ring := .pending o }) (.shed h)).trans
      (((Moved.leaveCommits _ n).trans (Moved.oweRelease _ n)).trans (State.moved_handEvent _ _ _))
  all_goals exact refl s

theorem State.moved_recomputeOwn : s.Moved s.recomputeOwn := still s rfl fun _ => rfl

theorem State.moved_overloadCheck : s.Moved s.overloadCheck := by
  unfold State.overloadCheck
  split
  · split
    · exact refl s
    · exact ((byFold State.moved_shedLine _ s).trans (State.moved_recomputeOwn _)).trans (State.moved_placementAttempt _)
  · exact refl s

theorem State.moved_viewChange (b : Bool) : s.Moved (s.viewChange b) := by
  have hplaced : s.Moved (s.setTable (s.table.recompute s.params.ring.budget)).placementAttempt :=
    (Moved.setTable s _).trans (State.moved_placementAttempt _)
  unfold State.viewChange
  dsimp only
  split
  · exact (hplaced.trans (State.moved_revalidate _)).trans (State.moved_overloadCheck _)
  · exact hplaced.trans (State.moved_overloadCheck _)

theorem State.moved_ownLinesChanged : s.Moved s.ownLinesChanged := by
  unfold State.ownLinesChanged
  split
  · exact refl s
  · exact (Moved.setTable s _).trans (State.moved_viewChange _ _)

/-! ### The end of ring work -/

theorem State.moved_releaseLine {n : Line} {o : Order} {q : Placement} {b : Bool} (h : s.ring n = .ringing o q b) :
    s.Moved (s.releaseLine n) := by
  unfold State.releaseLine
  rw [State.setRing_onLine]
  exact (byMove (f := fun l => { l.immediateFeed s.params.relay with ring := .idle }) (.release h)).trans
    ((((Moved.leaveCommits _ n).trans (Moved.leaveAccepted _ n)).trans (Moved.oweRelease _ n)).trans (State.moved_ownLinesChanged _))

theorem State.moved_endClaim {n : Line} (h : (s.ring n).isRinging = false) : s.Moved (s.endClaim n) := by
  have hended : s.Moved ((s.setRing n .idle).leaveAccepted n) :=
    (byRing (.withdraw h)).trans (Moved.leaveAccepted _ n)
  unfold State.endClaim
  dsimp only
  split
  · exact hended.trans (Moved.setToken _ _)
  · exact hended.trans (State.moved_freeToken _)

theorem State.moved_endRingWork (n : Line) : s.Moved (s.endRingWork n) := by
  unfold State.endRingWork
  split
  · exact refl s
  · rename_i o h
    have hr : (s.line n).ring.isRinging = false := by rw [show (s.line n).ring = _ from h]; rfl
    exact (byRing (.withdraw hr)).trans (Moved.leaveAccepted _ n)
  · rename_i o q h
    exact s.moved_endClaim (by rw [h]; rfl)
  · exact s.moved_releaseLine ‹_›

theorem State.moved_expire (n : Line) : s.Moved (s.expire n) := by
  unfold State.expire
  split
  · exact refl s
  · exact (s.moved_endRingWork n).trans (State.moved_handEvent _ _ _)

theorem State.moved_defer (n : Line) : s.Moved (s.defer n) := by
  unfold State.defer
  split
  · rename_i o h
    split
    · exact refl s
    · exact (byRing (.defer h)).trans (State.moved_handEvent _ _ _)
  all_goals exact refl s

theorem State.moved_examineOrder (n : Line) : s.Moved (s.examineOrder n) := by
  unfold State.examineOrder
  split
  · exact refl s
  · split
    · exact s.moved_expire n
    · split
      · exact s.moved_defer n
      · exact refl s

/-! ### Claims, the link and the slot start -/

theorem State.moved_commit (n : Line) : s.Moved (s.commit n) := by
  unfold State.commit
  split
  · rename_i o q h
    exact ((((byRing (.commit h)).trans (Moved.setToken _ _)).trans (Moved.setSched _ _)).trans (State.moved_ownLinesChanged _)).trans
      ((State.moved_placementAttempt _).trans (State.moved_handEvent _ _ _))
  all_goals exact refl s

theorem State.moved_claimCompleted : s.Moved s.claimCompleted := by
  unfold State.claimCompleted
  split
  · exact s.moved_commit _
  · exact (Moved.oweRelease s _).trans (State.moved_freeToken _)
  · exact refl s

theorem State.moved_claimNotCarried : s.Moved s.claimNotCarried := by
  unfold State.claimNotCarried
  split
  · exact s.moved_freeToken
  all_goals exact refl s

theorem State.moved_join : s.Moved s.join :=
  ((still s (t := s.setLink .joined 2) rfl fun _ => rfl).trans (State.moved_placementAttempt _)).trans (State.moved_overloadCheck _)

theorem State.moved_rejoin : s.Moved s.rejoin := (Moved.setBus s _).trans (State.moved_join _)

theorem State.moved_dropClaim : s.Moved s.dropClaim := by
  unfold State.dropClaim
  split
  · split
    · exact (byRing (.unclaim ‹_›)).trans (Moved.setToken _ _)
    all_goals exact still s rfl fun _ => rfl
  all_goals exact refl s

theorem State.moved_island : s.Moved s.island := by
  unfold State.island
  split
  case h_3 => exact refl s
  case h_4 => exact refl s
  all_goals exact (Moved.setBus s _).trans (State.moved_dropClaim _)

theorem State.moved_ageView : s.Moved s.ageView := by
  have haged : s.Moved (s.setTable s.table.aged) := ⟨⟨rfl, State.AgesOk.aged, by simp⟩, fun _ => .refl⟩
  unfold State.ageView
  dsimp only
  split
  · exact haged.trans (State.moved_viewChange _ _)
  · exact haged.trans (State.moved_overloadCheck _)

theorem State.moved_refreshFallsDue (k : Slot) : s.Moved (s.refreshFallsDue k) := by
  unfold State.refreshFallsDue
  split
  · exact Moved.setAsm s _
  · exact refl s

theorem State.moved_countPeriod : s.Moved s.countPeriod := by
  unfold State.countPeriod
  split
  · split
    · exact s.moved_join
    · exact still s rfl fun _ => rfl
  · split
    · exact s.moved_rejoin
    · exact still s rfl fun _ => rfl
  all_goals exact refl s

theorem State.moved_directRelays (j k : Slot) : s.Moved (s.directRelays j k) := byMoves fun _ => .direct _ _ _

/-- A slot task but the counting of cycles, which raises every live order first, is made of moves. -/
theorem State.moved_slotTask (j k : Slot) {x : SlotTask} (h : x ≠ .count) : s.Moved (s.slotTask j k x) := by
  cases x with
  | direct => exact s.moved_directRelays j k
  | count => exact absurd rfl h
  | age => exact s.moved_ageView
  | refresh => exact s.moved_refreshFallsDue k
  | link => exact s.moved_countPeriod

/-! ### Attempts and received notices -/

theorem State.moved_decideDegraded : s.Moved s.decideDegraded := still s rfl fun _ => rfl

theorem State.moved_prepareNotice : s.Moved s.prepareNotice := by
  have htested : s.Moved (if s.asm.releaseMask ≠ 0#8 then s else s.revalidate) := by
    split
    · exact refl s
    · exact s.moved_revalidate
  unfold State.prepareNotice
  dsimp only
  split
  · split
    · exact htested.trans (State.moved_decideDegraded _)
    · exact htested
  · exact htested

theorem State.moved_attemptFailed (x : Sent) : s.Moved (s.attemptFailed x) := by
  have hended : s.Moved (s.setBus { s.bus with attempt := none }) := still s rfl fun _ => rfl
  unfold State.attemptFailed
  refine .trans ?_ (State.moved_takeAllDigits _ _)
  cases x with
  | refresh => exact hended.trans (Moved.setAsm _ _)
  | claim => exact hended.trans (State.moved_claimNotCarried _)
  | release => exact hended
  | report => exact hended

theorem State.moved_loseAttempt : s.Moved s.loseAttempt := by
  unfold State.loseAttempt
  split
  · exact s.moved_attemptFailed _
  · exact refl s

theorem State.moved_countClash : s.Moved s.countClash := by
  unfold State.countClash
  split
  · exact s.moved_island
  · exact still s rfl fun _ => rfl

theorem State.moved_discard : s.Moved s.discard := still s rfl fun _ => rfl

theorem State.moved_clashAttempt : s.Moved s.clashAttempt := by
  unfold State.clashAttempt
  split
  · exact ((s.moved_attemptFailed _).trans (State.moved_discard _)).trans (State.moved_countClash _)
  · exact refl s

theorem State.moved_discharge (x : Sent) : s.Moved (s.discharge x) := by
  cases x with
  | release c => exact (Moved.setAsm s _).trans (State.moved_placementAttempt _)
  | claim n => exact s.moved_claimCompleted
  | refresh => exact still s rfl fun _ => rfl
  | report => exact s.moved_popReport

theorem State.moved_completeAttempt (a : Attempt) : s.Moved (s.completeAttempt a) :=
  (((still s (t := s.noticeEnds) rfl fun _ => rfl).trans (Moved.setBus _ _)).trans (State.moved_discharge _ a.sent)).trans
    (State.moved_takeAllDigits _ _)

theorem State.moved_applyEntry (a : PeerAddr) (x : Totals) (b : Option Nat) : s.Moved (s.applyEntry a x b) :=
  (Moved.setPeer fun e he => by cases he; exact Nat.zero_le 3).trans (State.moved_viewChange _ _)

theorem State.moved_peerNotice (w : Notice) (i j : Nat) (b : Option Nat) : s.Moved (s.peerNotice w i j b) := by
  unfold State.peerNotice
  dsimp only
  split
  · exact refl s
  · split
    · exact s.moved_applyEntry _ _ _
    · exact still s rfl fun _ => rfl

theorem State.moved_readBack (a : Attempt) (b : Byte) : s.Moved (s.readBack a b) := by
  unfold State.readBack
  split
  · exact s.moved_clashAttempt
  · split
    · exact still s rfl fun _ => rfl
    · split
      · exact s.moved_loseAttempt.trans (Moved.setBus _ _)
      · exact s.moved_clashAttempt

theorem State.moved_edgeInNotice (d : Bool) (b : Byte) : s.Moved (s.edgeInNotice d b) := by
  unfold State.edgeInNotice
  split
  · split
    · exact s.moved_readBack _ _
    · exact s.moved_clashAttempt
  · split
    · exact still s rfl fun _ => rfl
    · split
      · exact still s rfl fun _ => rfl
      · exact still s rfl fun _ => rfl

end Sys2Proof.Machine
end

section
/-! SUPPORT. Proofs that every step keeps the records of every line in agreement: a line's records agree in four parts, each kind of change keeps the part it
touches, and so does every command and every count of a crystal period. -/

namespace Sys2Proof.Machine

theorem RingRecord.isIdle_iff {r : RingRecord} : r.isIdle = true ↔ r = .idle := by cases r <;> simp [RingRecord.isIdle]

/-! ### The four parts of the agreement -/

/-- The relay record agrees with itself and with whether the line is RINGING. -/
structure RelayRecord.Agrees (r : RelayRecord) (ringing : Bool) : Prop where
  ringRelay : r.position = .ring ∨ r.position = .ringWait ∨ r.position = .toRing → ringing = true
  waitToClose : r.wait = .toClose ↔ r.position = .ringWait
  waitToOpen : r.wait = .toOpen → r.position = .ring
  toRingOpened : r.position = .toRing → r.lastOpened = .feed
  toFeedOpened : r.position = .toFeed → r.lastOpened = .ring

/-- The hook record agrees with itself. -/
structure HookRecord.Agrees (h : HookRecord) : Prop where
  inCallOffHook : h.mode = .inCall → h.state = .offHook ∨ h.state = .brk
  parkedOnHook : h.mode = .parked → h.state = .onHook
  seizeTimer : h.seizeTimer.isSome = true ↔ h.state = .seizing
  breakTimer : h.breakTimer.isSome = true ↔ h.state = .brk
  dialTimer : h.dialTimer.isSome = true → h.state = .offHook ∨ h.state = .brk
  makeTimer : h.makeTimer.isSome = true ↔ h.pulses ≠ 0
  trainOffHook : h.pulses ≠ 0 → h.state = .offHook ∨ h.state = .brk

/-- A tone stands only where the hook record lets one. -/
def ToneRecord.Agrees (t : ToneRecord) (h : HookRecord) : Prop :=
  t.tone.isSome = true ∨ t.suspended.isSome = true → (h.state = .offHook ∨ h.state = .brk) ∧ h.mode ≠ .parked

/-- Ring work stands only where the hook record lets it. -/
structure RingRecord.Agrees (r : RingRecord) (h : HookRecord) : Prop where
  ringOnHook : r.isIdle = false → h.state = .onHook ∨ h.state = .seizing
  parked : h.mode = .parked → r = .idle

theorem LineState.ok_iff (l : LineState) :
    l.Ok ↔ l.relay.Agrees l.ring.isRinging ∧ l.hook.Agrees ∧ l.tone.Agrees l.hook ∧ l.ring.Agrees l.hook := by
  constructor
  · intro h
    exact ⟨⟨h.ringRelay, h.waitToClose, h.waitToOpen, h.toRingOpened, h.toFeedOpened⟩,
      ⟨h.inCallOffHook, fun hp => (h.parkedOnHook hp).1, h.seizeTimer, h.breakTimer, h.dialTimer, h.makeTimer, h.trainOffHook⟩,
      h.toneOffHook, ⟨h.ringOnHook, fun hp => (h.parkedOnHook hp).2⟩⟩
  · rintro ⟨hr, hh, ht, hg⟩
    exact ⟨hg.ringOnHook, ht, hh.inCallOffHook, fun hp => ⟨hh.parkedOnHook hp, hg.parked hp⟩, hr.ringRelay, hr.waitToClose, hr.waitToOpen,
      hr.toRingOpened, hr.toFeedOpened, hh.seizeTimer, hh.breakTimer, hh.dialTimer, hh.makeTimer, hh.trainOffHook⟩

/-! ### Relay requests -/

section Relay
variable {p : RelayParams} {l : LineState} {b : Bool}

/-- After an immediate feed request the relays agree with any ring state: the ring relay is neither closed nor on its way. -/
theorem LineState.immediateFeed_agrees (c : Bool) (h : l.relay.Agrees b) : (l.immediateFeed p).relay.Agrees c := by
  obtain ⟨h1, h2, h3, h4, h5⟩ := h
  unfold LineState.immediateFeed
  cases hpos : l.relay.position with
  | ring => constructor <;> simp [LineState.openRing]
  | feed => constructor <;> simp_all
  | toFeed => constructor <;> simp_all
  | toRing => constructor <;> simp_all [LineState.closeFeed, RelayRecord.mayCloseFeed]
  | ringWait =>
    simp only [LineState.closeFeed]
    split
    · constructor <;> simp
    · rename_i hmay
      have hlast : l.relay.lastOpened = .ring := by
        cases hl : l.relay.lastOpened with
        | ring => rfl
        | feed => simp [RelayRecord.mayCloseFeed, hl] at hmay
      constructor <;> simp [hlast]

theorem LineState.closeRing_agrees (h : l.relay.Agrees true) : (l.closeRing p).relay.Agrees true := by
  unfold LineState.closeRing
  split
  · constructor <;> simp
  · exact h

theorem LineState.openRing_agrees (c : Bool) : l.openRing.relay.Agrees c := by
  constructor <;> simp [LineState.openRing]

theorem LineState.beginCloseWait_agrees (z : Bool) : (l.beginCloseWait p z).relay.Agrees true := by
  have hwait : ({ l with relay := { l.relay with position := .ringWait, wait := .toClose, waitTimer := 0 } } : LineState).relay.Agrees true := by
    constructor <;> simp
  unfold LineState.beginCloseWait
  dsimp only
  split
  · exact LineState.closeRing_agrees hwait
  · exact hwait

theorem LineState.ringRequest_agrees (z : Bool) (h : l.relay.Agrees true) : (l.ringRequest p z).relay.Agrees true := by
  unfold LineState.ringRequest
  cases hpos : l.relay.position with
  | feed => constructor <;> simp [LineState.openFeed]
  | toFeed => exact LineState.beginCloseWait_agrees z
  | toRing => exact h
  | ringWait => exact h
  | ring =>
    dsimp only
    split
    · constructor <;> simp [hpos]
    · exact h

theorem LineState.syncedFeed_agrees (z : Bool) (h : l.relay.Agrees true) : (l.syncedFeed p z).relay.Agrees true := by
  unfold LineState.syncedFeed
  cases hpos : l.relay.position with
  | feed => exact h
  | toFeed => exact h
  | toRing => exact LineState.immediateFeed_agrees true h
  | ringWait => exact LineState.immediateFeed_agrees true h
  | ring =>
    dsimp only
    split
    · exact h
    · split
      · exact LineState.openRing_agrees true
      · constructor <;> simp [hpos]

theorem LineState.switchRing_agrees (h : l.relay.Agrees b) : (l.switchRing p).relay.Agrees b := by
  unfold LineState.switchRing
  cases hpos : l.relay.position with
  | feed => exact h
  | toFeed => exact h
  | toRing => exact h
  | ringWait =>
    have hb : b = true := h.ringRelay (by simp [hpos])
    subst hb
    exact LineState.closeRing_agrees h
  | ring =>
    dsimp only
    split
    · exact LineState.openRing_agrees b
    · exact h

end Relay

/-! ### What relay requests leave alone -/

section Parts
variable (p : RelayParams) (z : Bool) (l : LineState)

@[simp] theorem LineState.closeRing_parts :
    (l.closeRing p).ring = l.ring ∧ (l.closeRing p).hook = l.hook ∧ (l.closeRing p).tone = l.tone ∧ (l.closeRing p).eventsLost = l.eventsLost := by
  unfold LineState.closeRing; split <;> simp

@[simp] theorem LineState.closeFeed_parts :
    (l.closeFeed p).ring = l.ring ∧ (l.closeFeed p).hook = l.hook ∧ (l.closeFeed p).tone = l.tone ∧ (l.closeFeed p).sense = l.sense ∧
      (l.closeFeed p).eventsLost = l.eventsLost := by
  unfold LineState.closeFeed; split <;> simp

@[simp] theorem LineState.beginCloseWait_parts :
    (l.beginCloseWait p z).ring = l.ring ∧ (l.beginCloseWait p z).hook = l.hook ∧ (l.beginCloseWait p z).tone = l.tone ∧
      (l.beginCloseWait p z).eventsLost = l.eventsLost := by
  unfold LineState.beginCloseWait; dsimp only; split <;> simp

@[simp] theorem LineState.ringRequest_parts :
    (l.ringRequest p z).ring = l.ring ∧ (l.ringRequest p z).hook = l.hook ∧ (l.ringRequest p z).tone = l.tone ∧
      (l.ringRequest p z).eventsLost = l.eventsLost := by
  unfold LineState.ringRequest LineState.openFeed; (repeat' split) <;> simp

@[simp] theorem LineState.syncedFeed_parts :
    (l.syncedFeed p z).ring = l.ring ∧ (l.syncedFeed p z).hook = l.hook ∧ (l.syncedFeed p z).tone = l.tone ∧
      (l.syncedFeed p z).sense = l.sense ∧ (l.syncedFeed p z).eventsLost = l.eventsLost := by
  unfold LineState.syncedFeed LineState.openRing; (repeat' split) <;> simp

@[simp] theorem LineState.switchRing_parts :
    (l.switchRing p).ring = l.ring ∧ (l.switchRing p).hook = l.hook ∧ (l.switchRing p).tone = l.tone ∧
      (l.switchRing p).eventsLost = l.eventsLost := by
  unfold LineState.switchRing LineState.openRing; (repeat' split) <;> simp

@[simp] theorem LineState.digitTaken_parts :
    l.digitTaken.ring = l.ring ∧ l.digitTaken.relay = l.relay ∧ l.digitTaken.sense = l.sense ∧ l.digitTaken.tone = l.tone ∧
      l.digitTaken.eventsLost = l.eventsLost := by
  simp [LineState.digitTaken]

@[simp] theorem LineState.releaseTone_parts :
    l.releaseTone.ring = l.ring ∧ l.releaseTone.relay = l.relay ∧ l.releaseTone.sense = l.sense ∧ l.releaseTone.hook = l.hook ∧
      l.releaseTone.eventsLost = l.eventsLost := by
  unfold LineState.releaseTone; split <;> simp

end Parts

/-! ### Every move keeps a line's records in agreement -/

/-- The directing of relays changes the relays, the fresh mark and the trip run alone. -/
@[simp] theorem LineState.classBoundary_parts (p : RelayParams) (z : Bool) (j k : Slot) (l : LineState) :
    (l.classBoundary p z j k).hook = l.hook ∧ (l.classBoundary p z j k).tone = l.tone ∧
      (l.classBoundary p z j k).eventsLost = l.eventsLost ∧ (l.classBoundary p z j k).ring.isIdle = l.ring.isIdle ∧
      (l.classBoundary p z j k).ring.isRinging = l.ring.isRinging := by
  unfold LineState.classBoundary
  split
  · rename_i o q fresh h
    dsimp only
    (repeat' split) <;> simp [h, RingRecord.isIdle, RingRecord.isRinging]
  all_goals simp

theorem LineState.classBoundary_agrees {p : RelayParams} (z : Bool) (j k : Slot) {l : LineState} (h : l.relay.Agrees l.ring.isRinging) :
    (l.classBoundary p z j k).relay.Agrees l.ring.isRinging := by
  unfold LineState.classBoundary
  split
  · rename_i o q fresh hring
    rw [hring] at h ⊢
    dsimp only
    split
    · exact LineState.ringRequest_agrees z h
    · split
      · exact LineState.syncedFeed_agrees z h
      · exact h
  all_goals exact h

/-- What a move keeps for certain, whatever the hook record: the relays agree with the ring state, a line without ring work gains none, a line without a
tone gains none, and the hook record changes at most its stored digits. -/
structure LineState.Descends (l l' : LineState) : Prop where
  relay : l.relay.Agrees l.ring.isRinging → l'.relay.Agrees l'.ring.isRinging
  idle : l.ring = .idle → l'.ring = .idle
  tone : l'.tone.tone.isSome = l.tone.tone.isSome ∧ l'.tone.suspended = l.tone.suspended
  hook : l'.hook = { l.hook with digits := l'.hook.digits, digitsLost := l'.hook.digitsLost }

theorem LineMove.descends {p : RelayParams} {l l' : LineState} (h : LineMove p l l') : l.Descends l' := by
  cases h with
  | claim q h => exact ⟨by simp [h, RingRecord.isRinging], by simp [h], by simp, by simp⟩
  | replace q' h => exact ⟨by simp [h, RingRecord.isRinging], by simp [h], by simp, by simp⟩
  | unclaim h => exact ⟨by simp [h, RingRecord.isRinging], by simp [h], by simp, by simp⟩
  | commit h =>
    refine ⟨fun ⟨h1, h2, h3, h4, h5⟩ => ⟨by simp [RingRecord.isRinging], h2, h3, h4, h5⟩, by simp [h], by simp, by simp⟩
  | shed h => exact ⟨fun ha => LineState.immediateFeed_agrees _ ha, by simp [h], by simp, by simp⟩
  | release h => exact ⟨fun ha => LineState.immediateFeed_agrees _ ha, by simp, by simp, by simp⟩
  | withdraw h => exact ⟨fun ha => by rw [h] at ha; exact ha, by simp, by simp, by simp⟩
  | defer h => exact ⟨by simp [h, RingRecord.isRinging], by simp [h], by simp, by simp⟩
  | direct z j k =>
    exact ⟨fun ha => by simpa using LineState.classBoundary_agrees z j k ha, fun hi => by simp [LineState.classBoundary, hi], by simp,
      by rw [(LineState.classBoundary_parts p z j k l).1]⟩
  | lose b => exact ⟨by simp, by simp, by simp, by simp⟩
  | dial =>
    refine ⟨by simp, by simp, ?_, by rw [(LineState.releaseTone_parts l).2.2.2.1]⟩
    unfold LineState.releaseTone; split
    · rename_i h; simp [h]
    · simp
  | digit => exact ⟨by simp, by simp, by simp, by simp [LineState.digitTaken]⟩

theorem LineState.Descends.trans {l m n : LineState} (h : l.Descends m) (g : m.Descends n) : l.Descends n :=
  ⟨fun ha => g.relay (h.relay ha), fun hi => g.idle (h.idle hi), ⟨g.tone.1.trans h.tone.1, g.tone.2.trans h.tone.2⟩, by rw [g.hook, h.hook]⟩

theorem State.Moved.descends {s t : State} (h : s.Moved t) (m : Line) : (s.line m).Descends (t.line m) :=
  h.keeps (P := (s.line m).Descends) (fun _ _ hmove hd => hd.trans hmove.descends) ⟨id, id, ⟨rfl, rfl⟩, rfl⟩

/-- A hook record that changes at most its stored digits agrees as before. -/
theorem HookRecord.agrees_digits {h : HookRecord} (ds : List Digit) (b : Bool) :
    ({ h with digits := ds, digitsLost := b } : HookRecord).Agrees ↔ h.Agrees :=
  ⟨fun ⟨h1, h2, h3, h4, h5, h6, h7⟩ => ⟨h1, h2, h3, h4, h5, h6, h7⟩, fun ⟨h1, h2, h3, h4, h5, h6, h7⟩ => ⟨h1, h2, h3, h4, h5, h6, h7⟩⟩

theorem LineState.Descends.ok {l l' : LineState} (h : l.Descends l') (hl : l.Ok) : l'.Ok := by
  obtain ⟨hrelay, hhook, htone, hring⟩ := (LineState.ok_iff l).1 hl
  obtain ⟨drelay, didle, ⟨dtone, dsusp⟩, dhook⟩ := h
  have hstate : l'.hook.state = l.hook.state := by rw [dhook]
  have hmode : l'.hook.mode = l.hook.mode := by rw [dhook]
  refine (LineState.ok_iff l').2 ⟨drelay hrelay, ?_, ?_, ?_, ?_⟩
  · rw [dhook]; exact (HookRecord.agrees_digits _ _).2 hhook
  · unfold ToneRecord.Agrees
    rw [dtone, dsusp, hstate, hmode]
    exact htone
  · intro hi
    rw [hstate]
    refine hring.ringOnHook ?_
    exact Bool.eq_false_iff.2 fun hidle => by simp [didle (RingRecord.isIdle_iff.1 hidle), RingRecord.isIdle] at hi
  · rw [hmode]
    exact fun hp => didle (hring.parked hp)

theorem State.Moved.linesOk {s t : State} (h : s.Moved t) (hs : s.LinesOk) : t.LinesOk := fun m => (h.descends m).ok (hs m)

end Sys2Proof.Machine
end

section
/-! SUPPORT. The Hook Supervisor and the Tone Generator keep the records of a line in agreement. -/

namespace Sys2Proof.Machine

/-! ### One line changed -/

section OneLine
variable {s : State} {n : Line}

/-- A change of one line to records that agree. -/
theorem State.LinesOk.onLine (h : s.LinesOk) {f : LineState → LineState} (hf : (f (s.line n)).Ok) : (s.onLine n f).LinesOk := by
  intro m
  rw [State.line_onLine]
  split
  · exact hf
  · exact h m

theorem State.LinesOk.setLine (h : s.LinesOk) {l : LineState} (hl : l.Ok) : (s.setLine n l).LinesOk :=
  h.onLine (n := n) (f := fun _ => l) hl

/-- A change of every line that keeps records in agreement. -/
theorem State.LinesOk.mapLines (h : s.LinesOk) {f : LineState → LineState} (hf : ∀ l : LineState, l.Ok → (f l).Ok) :
    (s.mapLines f).LinesOk := by
  intro m
  rw [State.line_mapLines]
  exact hf _ (h m)

/-- Where no line changes. -/
theorem State.LinesOk.still (h : s.LinesOk) {t : State} (ht : ∀ m, t.line m = s.line m) : t.LinesOk := fun m => by rw [ht m]; exact h m

/-- A change of the hook record of one line. -/
theorem State.LinesOk.onHook (h : s.LinesOk) {f : HookRecord → HookRecord} (hf : (f (s.line n).hook).Agrees)
    (ht : (s.line n).tone.Agrees (f (s.line n).hook)) (hr : (s.line n).ring.Agrees (f (s.line n).hook)) : (s.onHook n f).LinesOk :=
  h.onLine ((LineState.ok_iff _).2 ⟨((LineState.ok_iff _).1 (h n)).1, hf, ht, hr⟩)

/-- A change of the hook record of one line that keeps hook state and mode. -/
theorem State.LinesOk.onHook_timers (h : s.LinesOk) {f : HookRecord → HookRecord} (hs : (f (s.line n).hook).state = (s.line n).hook.state)
    (hm : (f (s.line n).hook).mode = (s.line n).hook.mode) (hf : (f (s.line n).hook).Agrees) : (s.onHook n f).LinesOk := by
  obtain ⟨-, -, htone, hring⟩ := (LineState.ok_iff _).1 (h n)
  refine h.onHook hf ?_ ⟨?_, ?_⟩
  · unfold ToneRecord.Agrees; rw [hs, hm]; exact htone
  · rw [hs]; exact hring.ringOnHook
  · rw [hm]; exact hring.parked

/-- A change of the tone record of one line. -/
theorem State.LinesOk.onTone (h : s.LinesOk) {f : ToneRecord → ToneRecord} (hf : (f (s.line n).tone).Agrees (s.line n).hook) :
    (s.onTone n f).LinesOk := by
  obtain ⟨hrelay, hhook, -, hring⟩ := (LineState.ok_iff _).1 (h n)
  exact h.onLine ((LineState.ok_iff _).2 ⟨hrelay, hhook, hf, hring⟩)

/-- A tone may stand on a line that is OFF-HOOK or in BREAK: it is not PARKED. -/
theorem LineState.Ok.not_parked {l : LineState} (h : l.Ok) (hs : l.hook.state = .offHook ∨ l.hook.state = .brk) : l.hook.mode ≠ .parked := by
  intro hp
  rw [(h.parkedOnHook hp).1] at hs
  simp at hs

/-- No tone, and none suspended, agrees with every hook record. -/
theorem ToneRecord.agrees_none {t : ToneRecord} {h : HookRecord} (h1 : t.tone = none) (h2 : t.suspended = none) : t.Agrees h := by
  simp [ToneRecord.Agrees, h1, h2]

/-- A line that is not off-hook has no tone. -/
theorem LineState.Ok.tone_none {l : LineState} (h : l.Ok) (hs : l.hook.state = .onHook ∨ l.hook.state = .seizing) :
    l.tone.tone = none ∧ l.tone.suspended = none := by
  have hno : ¬ (l.tone.tone.isSome = true ∨ l.tone.suspended.isSome = true) := fun ht => by
    obtain ⟨hoff, -⟩ := h.toneOffHook ht
    rcases hs with hs | hs <;> simp [hs] at hoff
  simpa [not_or] using hno

end OneLine

/-! ### Digits and trains -/

section Supervisor
variable {s : State} {n : Line}

theorem LineState.storeDigit_ok (d : Digit) {l : LineState} (h : l.Ok) : (l.storeDigit d).Ok := by
  obtain ⟨hrelay, hhook, htone, hring⟩ := (LineState.ok_iff l).1 h
  obtain ⟨h1, h2, h3, h4, h5, h6, h7⟩ := hhook
  refine (LineState.ok_iff _).2 ⟨hrelay, ?_, ?_, ?_⟩
  · unfold LineState.storeDigit
    dsimp only
    split <;> exact ⟨h1, h2, h3, h4, by simp, h6, h7⟩
  · unfold LineState.storeDigit ToneRecord.Agrees
    dsimp only
    split <;> exact htone
  · unfold LineState.storeDigit
    dsimp only
    split <;> exact ⟨hring.ringOnHook, hring.parked⟩

theorem State.LinesOk.completeTrain (h : s.LinesOk) (n : Line) : (s.completeTrain n).LinesOk := by
  obtain ⟨-, ⟨h1, h2, h3, h4, h5, -, -⟩, -, -⟩ := (LineState.ok_iff _).1 (h n)
  have hdone : (s.onHook n fun h => { h with pulses := 0, makeTimer := none }).LinesOk :=
    h.onHook_timers rfl rfl ⟨h1, h2, h3, h4, h5, by simp, by simp⟩
  unfold State.completeTrain
  dsimp only
  split
  · exact (State.moved_takeDigits _ _ _).linesOk (hdone.onLine (LineState.storeDigit_ok _ (hdone n)))
  · exact (State.moved_handEvent _ _ _).linesOk hdone

/-! ### Seizure -/

theorem State.LinesOk.beginSeizing (h : s.LinesOk) (hs : (s.line n).hook.state = .onHook) (hm : (s.line n).hook.mode ≠ .parked) :
    (s.beginSeizing n).LinesOk := by
  obtain ⟨-, hhook, -, hring⟩ := (LineState.ok_iff _).1 (h n)
  obtain ⟨ht, hsus⟩ := (h n).tone_none (.inl hs)
  obtain ⟨h1, h2, h3, h4, h5, h6, h7⟩ := hhook
  refine h.onHook ?_ (ToneRecord.agrees_none ht hsus) ⟨fun _ => .inr rfl, fun hp => absurd hp hm⟩
  constructor <;> simp_all

theorem State.LinesOk.failSeizure (h : s.LinesOk) (hs : (s.line n).hook.state = .seizing) : (s.failSeizure n).LinesOk := by
  obtain ⟨-, hhook, -, hring⟩ := (LineState.ok_iff _).1 (h n)
  obtain ⟨ht, hsus⟩ := (h n).tone_none (.inr hs)
  obtain ⟨h1, h2, h3, h4, h5, h6, h7⟩ := hhook
  refine h.onHook ?_ (ToneRecord.agrees_none ht hsus) ⟨fun _ => .inl rfl, hring.parked⟩
  constructor <;> simp_all

/-- An answered line without ring work agrees, whatever its hook state was: relays and train decide. -/
theorem LineState.answered_ok {l : LineState} (hrelay : l.relay.Agrees l.ring.isRinging) (hidle : l.ring = .idle)
    (htrain : l.hook.makeTimer.isSome = true ↔ l.hook.pulses ≠ 0) : l.answered.Ok := by
  refine (LineState.ok_iff _).2 ⟨hrelay, ?_, ToneRecord.agrees_none rfl rfl, ?_⟩
  · refine ⟨fun _ => .inl rfl, ?_, ?_, ?_, fun _ => .inl rfl, htrain, fun _ => .inl rfl⟩ <;> simp [LineState.answered]
  · constructor <;> simp [LineState.answered, hidle, RingRecord.isIdle]

/-- A trip leaves every line's records in agreement, also of a line whose hook record has just been moved on by the confirmation of a seizure: what it needs
of the tripped line are its relays and its train. -/
theorem State.takeTrip_linesOk (hothers : ∀ m, m ≠ n → (s.line m).Ok) (hrelay : (s.line n).relay.Agrees (s.line n).ring.isRinging)
    (htrain : (s.line n).hook.makeTimer.isSome = true ↔ (s.line n).hook.pulses ≠ 0) (hidle : s.ring n = .idle → (s.line n).Ok) :
    (s.takeTrip n).LinesOk := by
  cases hplace : (s.line n).tripPlace with
  | none =>
    have hring : s.ring n = .idle := by
      cases hr : s.ring n with
      | idle => rfl
      | _ => simp [LineState.tripPlace, show (s.line n).ring = _ from hr] at hplace
    rw [State.takeTrip_of_idle s n hring]
    intro m
    by_cases hm : m = n
    · subst hm; exact hidle hring
    · exact hothers m hm
  | some place =>
    have hmoved : s.Moved ((s.endRingWork n).handEvent n (.ringTripped place)) := (s.moved_endRingWork n).trans (State.moved_handEvent _ _ _)
    have hended : (((s.endRingWork n).handEvent n (.ringTripped place)).line n).ring = .idle := by
      rw [State.core_handEvent]
      exact State.core_idle.1 (by simp [State.core_endRingWork])
    have hd := hmoved.descends n
    unfold State.takeTrip
    rw [hplace]
    dsimp only
    intro m
    rw [State.line_onLine]
    split
    · refine LineState.answered_ok (hd.relay hrelay) hended ?_
      rw [hd.hook]; exact htrain
    · exact (hmoved.descends m).ok (hothers m ‹_›)

theorem State.LinesOk.takeTrip (h : s.LinesOk) (n : Line) : (s.takeTrip n).LinesOk :=
  State.takeTrip_linesOk (fun m _ => h m) ((LineState.ok_iff _).1 (h n)).1 (h n).makeTimer fun _ => h n

theorem State.LinesOk.confirmSeizure (h : s.LinesOk) (hs : (s.line n).hook.state = .seizing) : (s.confirmSeizure n).LinesOk := by
  obtain ⟨hrelay, hhook, -, hring⟩ := (LineState.ok_iff _).1 (h n)
  obtain ⟨ht, hsus⟩ := (h n).tone_none (.inr hs)
  obtain ⟨h1, h2, h3, h4, h5, h6, h7⟩ := hhook
  have hm : (s.line n).hook.mode ≠ .parked := fun hp => by simp [h2 hp] at hs
  unfold State.confirmSeizure
  dsimp only
  split
  · rename_i hidle
    have hoff : (s.onHook n fun h => { h with state := .offHook, seizeTimer := none }).LinesOk := by
      refine h.onHook ?_ (ToneRecord.agrees_none ht hsus) ⟨fun hi => ?_, fun hp => absurd hp hm⟩
      · constructor <;> simp_all
      · rw [show (s.line n).ring.isIdle = true from hidle] at hi; cases hi
    have htold := (State.moved_handEvent _ n .seize).linesOk hoff
    have hstate : (((s.onHook n fun h => { h with state := .offHook, seizeTimer := none }).handEvent n .seize).line n).hook.state = .offHook := by
      simp [State.line_onHook]
    obtain ⟨-, ⟨g1, g2, g3, g4, -, g6, g7⟩, -, -⟩ := (LineState.ok_iff _).1 (htold n)
    have htimed := htold.onHook_timers (f := fun h => { h with dialTimer := some 0 }) rfl rfl ⟨g1, g2, g3, g4, fun _ => .inl hstate, g6, g7⟩
    refine htimed.onTone fun _ => ?_
    refine ⟨.inl ?_, (htimed n).not_parked (.inl ?_)⟩ <;> simp [State.line_onHook]
  · rename_i hidle
    refine State.takeTrip_linesOk (fun m hne => ?_) ?_ ?_ fun hi => ?_
    · simpa [State.line_onHook, hne] using h m
    · simpa using hrelay
    · simpa [State.line_onHook] using h6
    · have : s.ring n = .idle := by simpa [State.ring] using hi
      simp [this, RingRecord.isIdle] at hidle

theorem State.LinesOk.trySeize (h : s.LinesOk) (hs : (s.line n).hook.state = .seizing) : (s.trySeize n).LinesOk := by
  unfold State.trySeize
  split
  · exact h.failSeizure hs
  · exact h.confirmSeizure hs

/-! ### Breaks -/

theorem State.LinesOk.tellGlitchLimit (h : s.LinesOk) (n : Line) : (s.tellGlitchLimit n).LinesOk := by
  obtain ⟨-, ⟨h1, h2, h3, h4, h5, h6, h7⟩, -, -⟩ := (LineState.ok_iff _).1 (h n)
  have htold : (s.onHook n fun h => { h with glitchTold := true }).LinesOk := h.onHook_timers rfl rfl ⟨h1, h2, h3, h4, h5, h6, h7⟩
  refine htold.onTone fun ht => (htold n).toneOffHook ?_
  unfold ToneRecord.suspend at ht
  split at ht
  · exact ht
  · rename_i x hx; exact .inl (by rw [hx]; rfl)

theorem State.LinesOk.testGlitchLimit (h : s.LinesOk) (n : Line) : (s.testGlitchLimit n).LinesOk := by
  unfold State.testGlitchLimit
  dsimp only
  split
  · split
    · exact h.tellGlitchLimit n
    · exact h
  · exact h

theorem State.LinesOk.beginBreak (h : s.LinesOk) (hs : (s.line n).hook.state = .offHook) : (s.beginBreak n).LinesOk := by
  obtain ⟨-, ⟨h1, h2, h3, h4, h5, h6, h7⟩, htone, hring⟩ := (LineState.ok_iff _).1 (h n)
  refine (h.onHook ?_ (fun ht => ⟨.inr rfl, (htone ht).2⟩) ⟨fun hi => ?_, hring.parked⟩).testGlitchLimit n
  · constructor <;> simp_all
  · have := hring.ringOnHook hi; simp [hs] at this

theorem ToneRecord.breakWithEvent_agrees {t : ToneRecord} {h : HookRecord} (ht : t.Agrees h) : t.breakWithEvent.Agrees h :=
  fun hx => ht (.inl (by simpa [ToneRecord.breakWithEvent] using hx))

theorem ToneRecord.breakWithoutEvent_agrees {t : ToneRecord} {h : HookRecord} (ht : t.Agrees h) : t.breakWithoutEvent.Agrees h := by
  unfold ToneRecord.breakWithoutEvent
  split
  · exact ht
  · rename_i x hx
    exact fun _ => ht (.inr (by simp [hx]))

theorem State.LinesOk.takeFlash (h : s.LinesOk) (hs : (s.line n).hook.state = .offHook ∨ (s.line n).hook.state = .brk) :
    (s.takeFlash n).LinesOk ∧ ((s.takeFlash n).line n).hook.state = (s.line n).hook.state := by
  have htrain : (if (s.line n).hook.inTrain then s.completeTrain n else s).LinesOk ∧
      ((if (s.line n).hook.inTrain then s.completeTrain n else s).line n).hook.state = (s.line n).hook.state := by
    split
    · exact ⟨h.completeTrain n, (State.completeTrain_hook s n).2.1⟩
    · exact ⟨h, rfl⟩
  unfold State.takeFlash
  dsimp only
  generalize (if (s.line n).hook.inTrain then s.completeTrain n else s) = t at htrain ⊢
  obtain ⟨ht, hstate⟩ := htrain
  have htold : ((t.onTone n ToneRecord.breakWithEvent).handEvent n .flash).LinesOk :=
    (State.moved_handEvent _ _ _).linesOk (ht.onTone (ToneRecord.breakWithEvent_agrees ((LineState.ok_iff _).1 (ht n)).2.2.1))
  have hstate' : (((t.onTone n ToneRecord.breakWithEvent).handEvent n .flash).line n).hook.state = (s.line n).hook.state := by
    simpa using hstate
  generalize (t.onTone n ToneRecord.breakWithEvent).handEvent n .flash = u at htold hstate' ⊢
  obtain ⟨-, ⟨h1, h2, h3, h4, -, -, -⟩, -, -⟩ := (LineState.ok_iff _).1 (htold n)
  have hdone : (u.onHook n fun h => { h with dialTimer := none, pulses := 0, makeTimer := none }).LinesOk :=
    htold.onHook_timers rfl rfl ⟨h1, h2, h3, h4, by simp, by simp, by simp⟩
  split
  · refine ⟨hdone.onTone fun _ => ?_, by simpa [State.line_onHook] using hstate'⟩
    have hoff : (((u.onHook n fun h => { h with dialTimer := none, pulses := 0, makeTimer := none }).line n).hook.state = .offHook ∨
        ((u.onHook n fun h => { h with dialTimer := none, pulses := 0, makeTimer := none }).line n).hook.state = .brk) := by
      simpa [State.line_onHook, hstate'] using hs
    exact ⟨hoff, (hdone n).not_parked hoff⟩
  · exact ⟨hdone, by simpa [State.line_onHook] using hstate'⟩

/-- A pulse counted in a break. -/
theorem State.LinesOk.countPulse (h : s.LinesOk) (hs : (s.line n).hook.state = .brk) :
    ((s.onHook n HookRecord.countPulse).onTone n ToneRecord.breakWithEvent).LinesOk := by
  obtain ⟨-, ⟨h1, h2, h3, h4, h5, -, -⟩, -, -⟩ := (LineState.ok_iff _).1 (h n)
  have hcounted : (s.onHook n HookRecord.countPulse).LinesOk := by
    refine h.onHook_timers rfl rfl ⟨h1, h2, h3, h4, h5, ?_, fun _ => .inr hs⟩
    simp [HookRecord.countPulse, pulseCountMax]
  exact hcounted.onTone (ToneRecord.breakWithEvent_agrees ((LineState.ok_iff _).1 (hcounted n)).2.2.1)

/-- A break over: OFF-HOOK again, the break timer stopped. -/
theorem State.LinesOk.offHookAgain (h : s.LinesOk) (hs : (s.line n).hook.state = .brk) :
    (s.onHook n fun h => { h with state := .offHook, breakTimer := none }).LinesOk := by
  obtain ⟨-, ⟨h1, h2, h3, h4, h5, h6, h7⟩, htone, hring⟩ := (LineState.ok_iff _).1 (h n)
  refine h.onHook ?_ (fun ht => ⟨.inl rfl, (htone ht).2⟩) ⟨fun hi => ?_, hring.parked⟩
  · constructor <;> simp_all
  · have := hring.ringOnHook hi; simp [hs] at this

theorem State.LinesOk.endBreak (h : s.LinesOk) (d : Nat) (hs : (s.line n).hook.state = .brk) : (s.endBreak n d).LinesOk := by
  have hpulse := h.countPulse hs
  have hpulse' : (((s.onHook n HookRecord.countPulse).onTone n ToneRecord.breakWithEvent).line n).hook.state = .brk := by
    simpa [State.line_onHook, HookRecord.countPulse] using hs
  have hnothing : (s.onTone n ToneRecord.breakWithoutEvent).LinesOk :=
    h.onTone (ToneRecord.breakWithoutEvent_agrees ((LineState.ok_iff _).1 (h n)).2.2.1)
  have hnothing' : ((s.onTone n ToneRecord.breakWithoutEvent).line n).hook.state = .brk := by simpa using hs
  unfold State.endBreak
  dsimp only
  cases breakClass s.params.timing d with
  | glitch => exact hnothing.offHookAgain hnothing'
  | pulse => exact hpulse.offHookAgain hpulse'
  | ambiguous =>
    dsimp only
    split
    · exact hpulse.offHookAgain hpulse'
    · exact hnothing.offHookAgain hnothing'
  | flash =>
    obtain ⟨hflash, hstate⟩ := h.takeFlash (.inr hs)
    exact hflash.offHookAgain (hstate.trans hs)

theorem State.LinesOk.declareClear (h : s.LinesOk) (hs : (s.line n).hook.state = .brk) : (s.declareClear n).LinesOk := by
  obtain ⟨hrelay, ⟨h1, h2, h3, h4, h5, h6, h7⟩, -, hring⟩ := (LineState.ok_iff _).1 (h n)
  have hclear : (s.onLine n fun l =>
    { l with
      hook := { l.hook with state := .onHook, mode := .free, pulses := 0, makeTimer := none, breakTimer := none, dialTimer := none }
      tone := { tone := none, suspended := none, dialled := false } }).LinesOk := by
    refine h.onLine ((LineState.ok_iff _).2 ⟨hrelay, ?_, ToneRecord.agrees_none rfl rfl, fun _ => .inl rfl, by simp⟩)
    constructor <;> simp_all
  have htold := (State.moved_handEvent _ n .clear).linesOk hclear
  unfold State.declareClear
  dsimp only
  split
  · exact htold.beginSeizing (by simp) (by simp)
  · exact htold

/-! ### The pass at a window end -/

theorem State.LinesOk.offHookWindow (h : s.LinesOk) (due : Bool) (hs : (s.line n).hook.state = .offHook) : (s.offHookWindow n due).LinesOk := by
  have htrain : (if due then s.completeTrain n else s).LinesOk ∧ ((if due then s.completeTrain n else s).line n).hook.state = .offHook := by
    split
    · exact ⟨h.completeTrain n, (State.completeTrain_hook s n).2.1.trans hs⟩
    · exact ⟨h, hs⟩
  unfold State.offHookWindow
  dsimp only
  split
  · exact htrain.1.beginBreak htrain.2
  · exact htrain.1

theorem State.LinesOk.breakWindow (h : s.LinesOk) (d : Nat) (hs : (s.line n).hook.state = .brk) : (s.breakWindow n d).LinesOk := by
  have htested := h.testGlitchLimit n
  have hstate : ((s.testGlitchLimit n).line n).hook.state = .brk := (State.testGlitchLimit_state s n).trans hs
  unfold State.breakWindow
  dsimp only
  split
  · exact htested.declareClear hstate
  · split
    · exact htested.endBreak d hstate
    · exact htested

theorem State.LinesOk.superviseWindow (h : s.LinesOk) (n : Line) (w : Nat) (raw : Option Loop) : (s.superviseWindow n w raw).LinesOk := by
  unfold State.superviseWindow
  split
  · exact h
  · rename_i hmode
    obtain ⟨-, ⟨h1, h2, h3, h4, h5, h6, h7⟩, -, -⟩ := (LineState.ok_iff _).1 (h n)
    have hadv : (s.onHook n fun h => { h.advance w with raw := h.raw.enter raw }).LinesOk :=
      h.onHook_timers rfl rfl ⟨h1, h2, by simpa [HookRecord.advance] using h3, by simpa [HookRecord.advance] using h4, h5,
        by simpa [HookRecord.advance] using h6, h7⟩
    have hmode' : ((s.onHook n fun h => { h.advance w with raw := h.raw.enter raw }).line n).hook.mode ≠ .parked := by
      simpa [State.line_onHook, HookRecord.advance] using hmode
    dsimp only
    generalize (s.onHook n fun h => { h.advance w with raw := h.raw.enter raw }) = t at hadv hmode' ⊢
    split
    · split
      · exact hadv.beginSeizing ‹_› hmode'
      · exact hadv
    · split
      · exact hadv.failSeizure ‹_›
      · split
        · exact hadv.confirmSeizure ‹_›
        · exact hadv
    · exact hadv.offHookWindow _ ‹_›
    · exact hadv.breakWindow _ ‹_›

end Supervisor

end Sys2Proof.Machine
end

section
/-! SUPPORT. Every command, and with it every step, keeps the records of a line in agreement. -/

namespace Sys2Proof.Machine

section Commands
variable {s : State} {n : Line}

/-! ### Resets and the beginning of work -/

theorem LineState.reset_ok : LineState.reset.Ok := by
  constructor <;> simp [LineState.reset, RelayRecord.reset, HookRecord.reset, ToneRecord.reset, RingRecord.isIdle]

theorem State.atReset_line (f : Phase) (k : Straps) (p : Pins) (o : OrderChoice) (q : List Instr) (m : Line) :
    (State.atReset f k p o q).line m = .reset := by
  simp [State.atReset, State.line]

theorem State.atReset_linesOk (f : Phase) (k : Straps) (p : Pins) (o : OrderChoice) (q : List Instr) : (State.atReset f k p o q).LinesOk :=
  fun m => by rw [State.atReset_line]; exact LineState.reset_ok

theorem State.LinesOk.configure (h : s.LinesOk) (a : MemoryAnswer) : (s.configure a).LinesOk := h.still (by simp)

theorem LineState.startDeadTime_ok {l : LineState} (h : l.Ok) : l.startDeadTime.Ok := by
  obtain ⟨⟨h1, h2, h3, h4, h5⟩, hrest⟩ := (LineState.ok_iff l).1 h
  exact (LineState.ok_iff _).2 ⟨⟨h1, h2, h3, h4, h5⟩, hrest⟩

theorem State.LinesOk.beginWork (h : s.LinesOk) : s.beginWork.LinesOk := by
  intro m
  rw [State.beginWork_line]
  split
  · exact LineState.startDeadTime_ok (h m)
  · exact h m

/-! ### Relays -/

/-- A change of one line's relays that keeps them in agreement. -/
theorem LineState.Ok.relay_changed {l l' : LineState} (h : l.Ok) (hr : l'.relay.Agrees l.ring.isRinging) (hring : l'.ring = l.ring)
    (hhook : l'.hook = l.hook) (htone : l'.tone = l.tone) : l'.Ok := by
  rw [LineState.ok_iff] at h ⊢
  rw [hring, hhook, htone]
  exact ⟨hr, h.2⟩

theorem LineState.switchRing_ok (p : RelayParams) {l : LineState} (h : l.Ok) : (l.switchRing p).Ok :=
  h.relay_changed (LineState.switchRing_agrees ((LineState.ok_iff l).1 h).1) (by simp) (by simp) (by simp)

theorem LineState.deadTimeReached_ok (p : RelayParams) {l : LineState} (h : l.Ok) : (l.deadTimeReached p).Ok := by
  obtain ⟨⟨h1, h2, h3, h4, h5⟩, hrest⟩ := (LineState.ok_iff l).1 h
  exact (LineState.ok_iff _).2 ⟨⟨h1, h2, h3, h4, h5⟩, hrest⟩

theorem LineState.countRelay_ok {l : LineState} (h : l.Ok) : l.countRelay.Ok := by
  obtain ⟨⟨h1, h2, h3, h4, h5⟩, hrest⟩ := (LineState.ok_iff l).1 h
  exact (LineState.ok_iff _).2 ⟨⟨h1, h2, h3, h4, h5⟩, hrest⟩

/-- The wait to close begins on a line in TO-RING, which is RINGING. -/
theorem LineState.beginCloseWait_ok (p : RelayParams) (z : Bool) {l : LineState} (h : l.Ok) (hpos : l.relay.position = .toRing) :
    (l.beginCloseWait p z).Ok := by
  refine h.relay_changed ?_ (by simp) (by simp) (by simp)
  rw [h.ringRelay (.inr (.inr hpos))]
  exact LineState.beginCloseWait_agrees z

theorem LineState.closeFeed_ok (p : RelayParams) {l : LineState} (h : l.Ok) (hpos : l.relay.position = .toFeed) : (l.closeFeed p).Ok := by
  refine h.relay_changed ?_ (by simp) (by simp) (by simp)
  unfold LineState.closeFeed
  split
  · constructor <;> simp
  · constructor <;> simp [h.toFeedOpened hpos]

/-! ### The cycle start -/

@[simp] theorem RingRecord.mapOrder_parts (f : Order → Order) (r : RingRecord) :
    (r.mapOrder f).isIdle = r.isIdle ∧ (r.mapOrder f).isPending = r.isPending ∧ (r.mapOrder f).isClaiming = r.isClaiming ∧
      (r.mapOrder f).isRinging = r.isRinging ∧ (r.mapOrder f).placement? = r.placement? ∧ (r.mapOrder f).order? = r.order?.map f ∧
      (r.mapOrder f = .idle ↔ r = .idle) := by
  cases r <;> simp [RingRecord.mapOrder, RingRecord.isIdle, RingRecord.isPending, RingRecord.isClaiming, RingRecord.isRinging,
    RingRecord.placement?, RingRecord.order?]

/-- A change of the order that a ring record holds touches none of the agreements. -/
theorem LineState.mapOrder_ok (f : Order → Order) {l : LineState} (h : l.Ok) : ({ l with ring := l.ring.mapOrder f } : LineState).Ok := by
  obtain ⟨hrelay, hhook, htone, hring⟩ := (LineState.ok_iff l).1 h
  exact (LineState.ok_iff _).2 ⟨by simpa using hrelay, hhook, htone, by simpa using hring.ringOnHook, fun hp => by simpa using hring.parked hp⟩

theorem State.LinesOk.countCycle (h : s.LinesOk) : s.countCycle.LinesOk := by
  unfold State.countCycle
  exact (State.moved_placementAttempt _).linesOk
    ((State.Moved.byFold State.moved_examineOrder _ _).linesOk (h.mapLines fun _ hl => LineState.mapOrder_ok _ hl))

theorem State.LinesOk.slotTask (h : s.LinesOk) (j k : Slot) (x : SlotTask) : (s.slotTask j k x).LinesOk := by
  by_cases hx : x = .count
  · subst hx; exact h.countCycle
  · exact (s.moved_slotTask j k hx).linesOk h

theorem State.LinesOk.foldl {α : Type} {f : State → α → State} (hf : ∀ (t : State) (a : α), t.LinesOk → (f t a).LinesOk) (ls : List α)
    (h : s.LinesOk) : (ls.foldl f s).LinesOk := by
  induction ls generalizing s with
  | nil => exact h
  | cons a ls ih => exact ih (hf s a h)

theorem State.LinesOk.boundary (h : s.LinesOk) (k : Slot) : (s.boundary k).LinesOk := by
  unfold State.boundary State.slotStart
  exact State.LinesOk.foldl (fun t x ht => ht.slotTask _ _ x) _ (h.still fun _ => rfl)

/-! ### The window end -/

theorem LineState.senseWindow_ok (p : Params) (w : Nat) {l : LineState} (h : l.Ok) : (l.senseWindow p w).Ok := by
  obtain ⟨⟨h1, h2, h3, h4, h5⟩, hrest⟩ := (LineState.ok_iff l).1 h
  exact (LineState.ok_iff _).2 ⟨⟨h1, h2, h3, h4, h5⟩, hrest⟩

/-- A change of one line's sense record touches none of the agreements. -/
theorem State.LinesOk.onSense (h : s.LinesOk) (f : LineState → SenseRecord) : (s.onLine n fun l => { l with sense := f l }).LinesOk :=
  have hn := (LineState.ok_iff _).1 (h n)
  h.onLine ((LineState.ok_iff _).2 hn)

theorem State.LinesOk.handTrip (h : s.LinesOk) (n : Line) : (s.handTrip n).LinesOk := by
  unfold State.handTrip
  exact State.LinesOk.takeTrip (h.onSense _) n

theorem State.LinesOk.turnLeak (h : s.LinesOk) (n : Line) (on : Bool) : (s.turnLeak n on).LinesOk := by
  unfold State.turnLeak
  exact (State.moved_handEvent _ _ _).linesOk (h.onSense _)

theorem State.LinesOk.windowEndOf (h : s.LinesOk) (w : Nat) (n : Line) : (s.windowEndOf w n).LinesOk := by
  have hsensed := (h.setLine (n := n) (LineState.senseWindow_ok s.params w (h n))).superviseWindow n w
    (rawLoop s.params.threshold (s.line n).relay.windowClass (readingOf (s.line n).sense.counter w))
  unfold State.windowEndOf
  exact ite_keeps (fun _ => State.LinesOk.turnLeak (ite_keeps (fun _ => hsensed.handTrip n) fun _ => hsensed) _ _)
    fun _ => ite_keeps (fun _ => hsensed.handTrip n) fun _ => hsensed

/-! ### Orders -/

theorem State.LinesOk.acceptRing (h : s.LinesOk) (k : Fin 8) (limit : Nat) (hmode : (s.line n).hook.mode ≠ .parked)
    (hstate : ¬ ((s.line n).hook.state = .offHook ∨ (s.line n).hook.state = .brk)) (hidle : (s.line n).ring = .idle) :
    (s.acceptRing n k limit).LinesOk := by
  obtain ⟨hrelay, hhook, htone, -⟩ := (LineState.ok_iff _).1 (h n)
  rw [hidle] at hrelay
  have haccepted : ∀ o : Order, (s.setRing n (.pending o)).LinesOk := fun o => by
    refine h.onLine ((LineState.ok_iff _).2 ⟨hrelay, hhook, htone, fun _ => ?_, fun hp => absurd hp hmode⟩)
    cases hs : (s.line n).hook.state <;> simp_all
  unfold State.acceptRing
  exact (State.moved_placementAttempt _).linesOk ((haccepted _).still fun _ => rfl)

theorem State.LinesOk.refuse (h : s.LinesOk) (k : OrderKind) (w : Notice) (r : Reason) : (s.refuse k w r).LinesOk :=
  (State.moved_offerReport _ _).linesOk h

theorem State.LinesOk.takeRing (h : s.LinesOk) (w : Notice) (n : Line) : (State.takeRing w s n).LinesOk := by
  unfold State.takeRing
  dsimp only
  split
  · exact h.refuse _ _ _
  · split
    · exact h.refuse _ _ _
    · split
      · exact h.refuse _ _ _
      · split
        · exact ite_keeps (fun _ => h) fun _ => h.refuse _ _ _
        · rename_i hmode _ hstate _ hnone
          refine h.acceptRing _ _ hmode hstate ?_
          cases hr : (s.line n).ring <;> simp [hr, RingRecord.order?] at hnone ⊢

theorem State.LinesOk.takeTone (h : s.LinesOk) (w : Notice) (n : Line) : (State.takeTone w s n).LinesOk := by
  unfold State.takeTone
  split
  · rename_i htakes
    have hoff : ((s.line n).hook.state = .offHook ∨ (s.line n).hook.state = .brk) ∧ (s.line n).hook.mode ≠ .parked := by
      simpa [LineState.takesTone] using htakes
    have hgiven : ∀ x : Option Tone, (s.onTone n fun t => t.give x).LinesOk := fun x => h.onTone fun _ => hoff
    split
    · exact hgiven _
    · obtain ⟨-, ⟨h1, h2, h3, h4, -, h6, h7⟩, -, -⟩ := (LineState.ok_iff _).1 (hgiven (some .dial) n)
      exact (hgiven _).onHook_timers rfl rfl ⟨h1, h2, h3, h4, fun _ => by simpa using hoff.1, h6, h7⟩
    · exact hgiven _
  · exact h.refuse _ _ _

theorem LineState.modeFree_ok {l : LineState} (h : l.Ok) : l.modeFree.Ok := by
  obtain ⟨hrelay, ⟨h1, h2, h3, h4, h5, h6, h7⟩, htone, hring⟩ := (LineState.ok_iff l).1 h
  unfold LineState.modeFree
  split
  · exact h
  · refine (LineState.ok_iff _).2 ⟨hrelay, ⟨by simp, by simp, h3, h4, h5, h6, h7⟩, fun ht => ⟨(htone ht).1, by simp⟩, hring.ringOnHook, by simp⟩
  · rename_i hm
    obtain ⟨hn, hs⟩ := h.tone_none (.inl (h2 hm))
    have hst := h2 hm
    refine (LineState.ok_iff _).2 ⟨hrelay, ?_, ToneRecord.agrees_none hn hs, fun _ => .inl rfl, by simp [LineState.unpark]⟩
    constructor <;> simp_all [LineState.unpark]

theorem LineState.modeInCall_ok {l : LineState} (h : l.Ok) (hs : l.hook.state = .offHook ∨ l.hook.state = .brk) : l.modeInCall.Ok := by
  obtain ⟨hrelay, ⟨h1, h2, h3, h4, h5, h6, h7⟩, htone, hring⟩ := (LineState.ok_iff l).1 h
  unfold LineState.modeInCall
  split
  · exact (LineState.ok_iff _).2 ⟨hrelay, ⟨fun _ => hs, by simp, h3, h4, by simp, h6, h7⟩, ToneRecord.agrees_none rfl rfl, hring.ringOnHook, by simp⟩
  · exact h
  · exact h

/-- A line without ring work may be parked. -/
theorem LineState.park_ok {l : LineState} (h : l.Ok) (hidle : l.ring = .idle) : l.park.Ok := by
  refine (LineState.ok_iff _).2 ⟨((LineState.ok_iff l).1 h).1, ?_, ToneRecord.agrees_none rfl rfl, fun _ => .inl rfl, fun _ => hidle⟩
  constructor <;> simp [LineState.park]

/-- Ended ring work leaves the line IDLE. -/
theorem State.ring_endRingWork_same (s : State) (n : Line) : (s.endRingWork n).ring n = .idle :=
  State.core_idle.1 (by simp [State.ring, State.core_endRingWork])

theorem State.LinesOk.takeMode (h : s.LinesOk) (w : Notice) (n : Line) : (State.takeMode w s n).LinesOk := by
  unfold State.takeMode
  split
  · exact h.onLine (LineState.modeFree_ok (h n))
  · split
    · exact h.onLine (LineState.modeInCall_ok (h n) ‹_›)
    · exact h.refuse _ _ _
  · refine ite_keeps (fun _ => h) fun _ => ?_
    have hended := (s.moved_endRingWork n).linesOk h
    exact hended.onLine (LineState.park_ok (hended n) (s.ring_endRingWork_same n))

theorem State.LinesOk.ordered (h : s.LinesOk) {act : State → State} (hact : ∀ t : State, t.LinesOk → (act t).LinesOk) : (s.ordered act).LinesOk :=
  ite_keeps (fun _ => hact _ (h.still (by simp))) fun _ => h

theorem State.LinesOk.takeOrder (h : s.LinesOk) (k : OrderKind) (w : Notice) {take : State → Line → State}
    (ht : ∀ n, (take s n).LinesOk) : (State.takeOrder k w take s).LinesOk := by
  unfold State.takeOrder
  split
  · split
    · exact ht _
    · exact h.refuse _ _ _
  · exact h

theorem State.LinesOk.received (h : s.LinesOk) {act : State → State} (hact : ∀ t : State, t.LinesOk → (act t).LinesOk) : (s.received act).LinesOk :=
  ite_keeps (fun _ => hact _ (h.still (by simp))) fun _ => h

/-! ### The commands -/

/-- Every command keeps the records of every line in agreement. -/
theorem State.LinesOk.run (c : Instr) (h : s.LinesOk) : (s.run c).LinesOk := by
  have still {c : Prop} [Decidable c] {t : State} (ht : ∀ m, t.line m = s.line m) : (if c then t else s).LinesOk :=
    ite_keeps (fun _ => h.still ht) fun _ => h
  have moved {c : Prop} [Decidable c] {t : State} (ht : s.Moved t) : (if c then t else s).LinesOk :=
    ite_keeps (fun _ => ht.linesOk h) fun _ => h
  cases c with
  | reset a l8 cfgp => exact State.atReset_linesOk _ _ _ _ _
  | resetAsserted => exact State.atReset_linesOk _ _ _ _ _
  | endOfLoading a => exact ite_keeps (fun _ => (h.configure a).beginWork) fun _ => h
  | slotEnd => exact ite_keeps (fun _ => h.boundary _) fun _ => h
  | cycleMarker =>
    refine ite_keeps (c := s.active = true) (fun _ => ?_) fun _ => h
    have htaken : (s.setCadence s.cadence.markerTaken).LinesOk := h.still fun _ => rfl
    split
    · exact htaken.boundary 0
    · exact htaken.still fun _ => rfl
    · exact htaken.boundary 0
  | markerWindowOpens => exact still fun _ => rfl
  | markerWindowCloses => exact ite_keeps (fun _ => ite_keeps (fun _ => h.still fun _ => rfl) fun _ => h.still (by simp)) fun _ => h
  | markerLost => exact still fun _ => rfl
  | zeroCrossMark => exact ite_keeps (fun _ => (h.still fun _ => rfl).mapLines fun _ => LineState.switchRing_ok _) fun _ => h
  | zcLost => exact ite_keeps (fun _ => (h.still fun _ => rfl).mapLines fun _ => LineState.switchRing_ok _) fun _ => h
  | deadTimeToRing n =>
    refine ite_keeps (c := (s.serves n && (s.line n).relay.position == .toRing) = true) (fun hc => ?_) fun _ => h
    exact h.onLine (LineState.beginCloseWait_ok _ _ (LineState.deadTimeReached_ok _ (h n)) (by simp at hc; exact hc.2))
  | deadTimeToFeed n =>
    refine ite_keeps (c := (s.serves n && (s.line n).relay.position == .toFeed) = true) (fun hc => ?_) fun _ => h
    exact h.onLine (LineState.closeFeed_ok _ (LineState.deadTimeReached_ok _ (h n)) (by simp at hc; exact hc.2))
  | zcWaitTimeout n => exact ite_keeps (fun _ => h.onLine (LineState.switchRing_ok _ (h n))) fun _ => h
  | ringExpiry n =>
    exact ite_keeps (fun _ => (State.moved_expire _ _).linesOk (h.onLine (n := n) (LineState.mapOrder_ok _ (h n)))) fun _ => h
  | ringDeferral n =>
    show State.LinesOk (match s.ring n with | .pending o => _ | .idle | .claiming _ _ | .ringing _ _ _ => s)
    split
    · rename_i o ho
      refine ite_keeps (fun _ => (State.moved_defer _ _).linesOk ?_) fun _ => h
      have hmap := h.onLine (n := n) (f := fun l => { l with ring := l.ring.mapOrder fun o => { o with elapsed := max o.elapsed deferralCycles } })
        (LineState.mapOrder_ok _ (h n))
      rwa [show (s.onLine n fun l => { l with ring := l.ring.mapOrder fun o => { o with elapsed := max o.elapsed deferralCycles } }) =
        s.setRing n (.pending { o with elapsed := max o.elapsed deferralCycles }) from by
          simp only [State.setRing, State.onLine]; rw [show (s.line n).ring = _ from ho]; rfl] at hmap
    all_goals exact h
  | entryAgedOut a => exact moved ((State.Moved.setPeer (by simp)).trans (State.moved_viewChange _ _))
  | listenPeriodEnd => exact moved s.moved_join
  | islandedPeriodEnd => exact moved s.moved_rejoin
  | windowEnd => exact ite_keeps (fun _ => State.LinesOk.foldl (fun _ n ht => ht.windowEndOf _ n) _ (h.still fun _ => rfl)) fun _ => h
  | ringTrip n => exact ite_keeps (fun _ => h.handTrip n) fun _ => h
  | leakOn n => exact ite_keeps (fun _ => h.turnLeak n _) fun _ => h
  | leakOff n => exact ite_keeps (fun _ => h.turnLeak n _) fun _ => h
  | seizeConfirm n =>
    refine ite_keeps (c := (s.serves n && (s.line n).hook.state == .seizing) = true) (fun hc => h.trySeize ?_) fun _ => h
    simp at hc; exact hc.2
  | glitchLimitReached n =>
    refine ite_keeps (c := (s.serves n && (s.line n).hook.state == .brk && !(s.line n).hook.glitchTold) = true) (fun hc => ?_) fun _ => h
    have hbrk : (s.line n).hook.state = .brk := by simp at hc; exact hc.1.2
    obtain ⟨-, ⟨h1, h2, h3, h4, h5, h6, h7⟩, -, -⟩ := (LineState.ok_iff _).1 (h n)
    exact State.LinesOk.tellGlitchLimit (h.onHook_timers rfl rfl ⟨h1, h2, h3, by simp [hbrk], h5, h6, h7⟩) n
  | clear n =>
    refine ite_keeps (c := (s.serves n && (s.line n).hook.state == .brk) = true) (fun hc => h.declareClear ?_) fun _ => h
    simp at hc; exact hc.2
  | interdigitMake n =>
    refine ite_keeps (c := (s.serves n && (s.line n).hook.state == .offHook && (s.line n).hook.inTrain) = true)
      (fun hc => h.offHookWindow true ?_) fun _ => h
    simp at hc; exact hc.1.2
  | permanentLoop n =>
    refine ite_keeps (fun _ => ?_) fun _ => h
    obtain ⟨-, ⟨h1, h2, h3, h4, h5, h6, h7⟩, -, -⟩ := (LineState.ok_iff _).1 (h n)
    have hstopped : (s.onHook n fun h => { h with dialTimer := none }).LinesOk := h.onHook_timers rfl rfl ⟨h1, h2, h3, h4, by simp, h6, h7⟩
    exact ((State.moved_handEvent _ _ _).linesOk hstopped).onTone (ToneRecord.agrees_none rfl rfl)
  | stutterAdvance n =>
    refine ite_keeps (fun _ => h.onTone fun ht => (h n).toneOffHook ?_) fun _ => h
    split at ht
    · rename_i hp; exact .inl (by rw [hp]; rfl)
    all_goals exact ht
  | attemptStart =>
    refine ite_keeps (c := s.mayAttempt = true) (fun _ => ?_) fun _ => h
    have hprepared := s.moved_prepareNotice.linesOk h
    split
    · exact hprepared.still (by simp)
    · exact hprepared
  | arbitrationLoss b => exact moved (s.moved_loseAttempt.trans (State.Moved.setBus _ _))
  | clash => exact moved s.moved_clashAttempt
  | islanding =>
    refine ite_keeps (c := (s.running && (s.bus.link == .listening || s.bus.link == .joined)) = true) (fun _ => ?_) fun _ => h
    split
    · exact (((s.moved_attemptFailed _).trans (State.moved_discard _)).trans (State.moved_island _)).linesOk h
    · exact s.moved_island.linesOk h
  | ownNoticeCompletion =>
    show State.LinesOk (match s.bus.attempt with | some a => _ | none => s)
    split
    · exact moved (s.moved_completeAttempt _)
    · exact h
  | claimReceived w => exact h.received fun t ht => (t.moved_peerNotice _ _ _ _).linesOk ht
  | releaseReceived w => exact h.received fun t ht => (t.moved_peerNotice _ _ _ _).linesOk ht
  | refreshReceived w => exact h.received fun t ht => (t.moved_peerNotice _ _ _ _).linesOk ht
  | ringOrder w => exact h.ordered fun t ht => ht.takeOrder _ _ fun n => ht.takeRing w n
  | cancel w => exact h.ordered fun t ht => ht.takeOrder _ _ fun n => (t.moved_endRingWork n).linesOk ht
  | toneOrder w => exact h.ordered fun t ht => ht.takeOrder _ _ fun n => ht.takeTone w n
  | modeOrder w => exact h.ordered fun t ht => ht.takeOrder _ _ fun n => ht.takeMode w n
  | query w => exact h.ordered fun t ht => ht.takeOrder _ _ fun n => (t.moved_offerReport _).linesOk ht
  | reportNoticeHeard k w => exact h.received fun t ht => ht
  | noticeInvalid => exact h.received fun t ht => ht.still (by simp)
  | receiveFramingError => exact still (by simp)
  | receiverIdle => exact still (by simp)
  | busHeld => exact still fun _ => rfl
  | busHeldClear => exact still fun _ => rfl
  | startEdge d b =>
    refine ite_keeps (c := (s.running && !s.bus.busHeld && s.bus.byte.isNone) = true) (fun _ => ?_) fun _ => h
    have hedge : s.edgeTaken.LinesOk := h.still (by simp)
    split
    · exact ite_keeps (fun _ => hedge.still (by simp)) fun _ => hedge
    · exact (State.moved_edgeInNotice _ _ _).linesOk hedge
    · exact h
    · exact h
  | sensePulseEdge n => exact ite_keeps (fun _ => h.onSense _) fun _ => h

end Commands

/-- What a crystal period does by itself keeps the records in agreement too: it counts. -/
theorem stepKeeps_linesOk : StepKeeps State.LinesOk where
  run c _ h := h.run c
  queue _ h := h.still fun _ => rfl
  slot _ := slotMs_keeps (fun c _ h => h.run c) fun _ h => h.still fun _ => rfl
  cross _ := zcMs_keeps (fun c _ h => h.run c) fun _ h => h.still fun _ => rfl
  close := closeMs_keeps fun _ h => h.still fun _ => rfl
  sense := senseTick_keeps (fun c _ h => h.run c) fun _ h => h.still fun _ => rfl
  bus _ _ _ h := h.still fun _ => rfl
  lose h := (State.moved_loseAttempt _).linesOk h
  clock _ _ _ _ h := h.still fun _ => rfl
  relay n _ h := deadDue_keeps (fun c _ h => h.run c) (fun n h => h.onLine (LineState.deadTimeReached_ok _ (h n))) n (h.onLine (LineState.countRelay_ok (h n)))
  dial n d hd _ h := by
    obtain ⟨-, ⟨h1, h2, h3, h4, h5, h6, h7⟩, -, -⟩ := (LineState.ok_iff _).1 (h n)
    exact h.onHook_timers rfl rfl ⟨h1, h2, h3, h4, fun _ => h5 (by rw [hd]; rfl), h6, h7⟩
  stutter n k d hd _ h := h.onTone fun _ => (h n).toneOffHook (.inl (by rw [hd]; rfl))

/-- Settles O58: the induction over a step, the four parts of the agreement carried through every operation. -/
theorem everyStepKeepsLinesSound : Obligations.EveryStepKeepsLinesSound := fun _ _ h hstep => stepKeeps_linesOk.step h hstep

end Sys2Proof.Machine
end

section
/-! SUPPORT. The Cadence Timer and the window timer stay in range. -/

namespace Sys2Proof.Machine

/-- Every count of the Cadence Timer lies in the range the spec gives it. -/
structure Cadence.CountsOk (c : Cadence) : Prop where
  slotTimer : c.slotTimer ≤ 499
  past : c.past = true → c.slot = 0 ∧ 40 ≤ c.slotTimer
  missed : c.missed ≤ 2
  markerLost : c.markerLost = true ↔ c.missed = 2
  zcTimer : c.zcTimer ≤ 60
  zcLost : c.zcLost = true ↔ c.zcTimer = 60

/-- The window timer has not reached the length of its window. -/
def SenseUnit.CountsOk (u : SenseUnit) : Prop := u.windowTimer < windowLengths[u.dither.val]

/-- The two timers that belong to no line. -/
structure State.ClocksOk (s : State) : Prop where
  cadence : s.cadence.CountsOk
  sense : s.sense.CountsOk

/-! ### The Cadence Timer -/

section Marker
variable {c : Cadence} (h : c.CountsOk)
include h

/-- A new slot, or slot 0 timed afresh. -/
theorem Cadence.CountsOk.restart (k : Slot) : { c with slot := k, slotTimer := 0, past := false }.CountsOk :=
  { h with slotTimer := Nat.zero_le _, past := fun hp => by cases hp }

theorem Cadence.CountsOk.markerTaken : c.markerTaken.CountsOk :=
  { h with missed := Nat.zero_le _, markerLost := by simp [Cadence.markerTaken] }

theorem Cadence.CountsOk.setZeroCross (b : Bool) {d : Nat} (hd : d ≤ 60) (hb : b = true ↔ d = 60) : { c with zcTimer := d, zcLost := b }.CountsOk :=
  { h with zcTimer := hd, zcLost := hb }

/-- The slot timer set on, short of the slot end. -/
theorem Cadence.CountsOk.setTimer (b : Bool) {d : Nat} (hd : d ≤ 499) (hle : c.slotTimer ≤ d) : { c with slotTimer := d, markerMet := b }.CountsOk :=
  { h with slotTimer := hd, past := fun hp => ⟨(h.past hp).1, (h.past hp).2.trans hle⟩ }

/-- The marker window of slot 0 closes, its timer at 40 ms or more (R7). -/
theorem Cadence.CountsOk.closeWindow (hslot : c.slot = 0) (htimer : 40 ≤ c.slotTimer) : c.closeWindow.CountsOk := by
  obtain ⟨h1, -, h3, h4, h5, h6⟩ := h
  unfold Cadence.closeWindow
  split
  · exact ⟨h1, fun _ => ⟨hslot, htimer⟩, h3, h4, h5, h6⟩
  · refine ⟨h1, fun _ => ⟨hslot, htimer⟩, Nat.min_le_left _ _, ?_, h5, h6⟩
    simp only [Bool.or_eq_true, h4, decide_eq_true_eq]
    omega

end Marker

theorem Cadence.reset_countsOk : Cadence.reset.CountsOk := by constructor <;> simp [Cadence.reset]

theorem SenseUnit.restart_countsOk (d : Fin 8) : SenseUnit.CountsOk { dither := d, windowTimer := 0 } := by
  have : ∀ d : Fin 8, 0 < windowLengths[d.val] := by decide
  exact this d

theorem State.boundary_cadence (s : State) (k : Slot) : (s.boundary k).cadence = { s.cadence with slot := k, slotTimer := 0, past := false } := by
  simp [State.boundary]

section Clocks
variable {s : State} (h : s.ClocksOk)
include h

theorem State.ClocksOk.still {t : State} (hc : t.cadence = s.cadence) (hs : t.sense = s.sense) : t.ClocksOk :=
  ⟨by rw [hc]; exact h.cadence, by rw [hs]; exact h.sense⟩

theorem State.ClocksOk.setCadence {c : Cadence} (hc : c.CountsOk) : (s.setCadence c).ClocksOk := ⟨hc, h.sense⟩

theorem State.ClocksOk.boundary (k : Slot) : (s.boundary k).ClocksOk :=
  ⟨by rw [State.boundary_cadence]; exact h.cadence.restart k, by simpa using h.sense⟩

theorem State.ClocksOk.received {act : State → State} (hc : ∀ t : State, (act t).cadence = t.cadence) (hs : ∀ t : State, (act t).sense = t.sense) :
    (s.received act).ClocksOk :=
  ite_keeps (fun _ => h.still (by simp [hc]) (by simp [hs])) fun _ => h

theorem State.ClocksOk.ordered (k : OrderKind) (w : Notice) {take : State → Line → State} (hc : ∀ (t : State) (n : Line), (take t n).cadence = t.cadence)
    (hs : ∀ (t : State) (n : Line), (take t n).sense = t.sense) : (s.ordered (State.takeOrder k w take)).ClocksOk := by
  refine ite_keeps (fun _ => ?_) fun _ => h
  unfold State.takeOrder
  refine ite_keeps (fun _ => ?_) fun _ => h.still (by simp) (by simp)
  split
  · exact h.still (by simp [hc]) (by simp [hs])
  · exact h.still (by simp) (by simp)

omit h in
/-- A window end begins the next window at 0, whatever the lines make of it (R83). -/
theorem State.windowEnded_clocksOk (hc : s.cadence.CountsOk) :
    ((permute s.order.lines (allLines.filter s.inUse)).foldl (State.windowEndOf s.windowLength)
      (s.setSense { dither := s.sense.dither + 1, windowTimer := 0 })).ClocksOk := by
  have hnext : (s.setSense { dither := s.sense.dither + 1, windowTimer := 0 }).ClocksOk := ⟨hc, SenseUnit.restart_countsOk _⟩
  generalize s.setSense { dither := s.sense.dither + 1, windowTimer := 0 } = t at hnext ⊢
  generalize permute s.order.lines (allLines.filter s.inUse) = ls
  induction ls generalizing t with
  | nil => exact hnext
  | cons n ls ih => exact ih _ (hnext.still (by simp) (by simp))

theorem State.ClocksOk.run (c : Instr) : (s.run c).ClocksOk := by
  have still {c : Prop} [Decidable c] {t : State} (hc : t.cadence = s.cadence) (hs : t.sense = s.sense) : (if c then t else s).ClocksOk :=
    ite_keeps (fun _ => h.still hc hs) fun _ => h
  have reset : ∀ p k pins o q, (State.atReset p k pins o q).ClocksOk := fun p k pins o q =>
    ⟨Cadence.reset_countsOk, SenseUnit.restart_countsOk 0⟩
  cases c with
  | reset a l8 cfgp => exact reset _ _ _ _ _
  | resetAsserted => exact reset _ _ _ _ _
  | endOfLoading a =>
    refine ite_keeps (fun _ => ?_) fun _ => h
    rw [State.beginWork_frame]
    exact ⟨by simpa using h.cadence, SenseUnit.restart_countsOk 0⟩
  | slotEnd => exact ite_keeps (fun _ => h.boundary _) fun _ => h
  | cycleMarker =>
    refine ite_keeps (c := s.active = true) (fun _ => ?_) fun _ => h
    have htaken := h.setCadence h.cadence.markerTaken
    split
    · exact htaken.boundary 0
    · exact htaken.setCadence (h.cadence.markerTaken.restart _)
    · exact htaken.boundary 0
  | markerWindowOpens =>
    refine ite_keeps (fun _ => h.setCadence (h.cadence.setTimer false ?_ (Nat.le_max_left _ _))) fun _ => h
    have := h.cadence.slotTimer
    simp only [windowOpensAt]; omega
  | markerWindowCloses =>
    refine ite_keeps (c := (s.active && s.cadence.slot == 0) = true) (fun hc => ?_) fun _ => h
    have hslot : s.cadence.slot = 0 := by simp at hc; exact hc.2
    have hle := h.cadence.slotTimer
    have hpassed : ({ s.cadence with slotTimer := max s.cadence.slotTimer pastWindow } : Cadence).CountsOk :=
      h.cadence.setTimer s.cadence.markerMet (by simp only [pastWindow]; omega) (Nat.le_max_left _ _)
    exact ite_keeps (fun _ => h.setCadence hpassed) fun _ => h.setCadence (hpassed.closeWindow hslot (by simp only [pastWindow]; omega))
  | markerLost => exact ite_keeps (fun _ => h.setCadence { h.cadence with missed := Nat.le_refl 2, markerLost := by simp }) fun _ => h
  | zeroCrossMark => exact ite_keeps (fun _ => ⟨h.cadence.setZeroCross false (d := 0) (by decide) (by decide), h.sense⟩) fun _ => h
  | zcLost => exact ite_keeps (fun _ => ⟨h.cadence.setZeroCross true (d := zcLimit) (by decide) (by decide), h.sense⟩) fun _ => h
  | windowEnd => exact ite_keeps (fun _ => State.windowEnded_clocksOk h.cadence) fun _ => h
  | deadTimeToRing n => exact still rfl rfl
  | deadTimeToFeed n => exact still rfl rfl
  | zcWaitTimeout n => exact still rfl rfl
  | ringExpiry n => exact still (by simp) (by simp)
  | ringDeferral n =>
    show State.ClocksOk (match s.ring n with | .pending o => _ | .idle | .claiming _ _ | .ringing _ _ _ => s)
    split
    · exact still (by simp) (by simp)
    all_goals exact h
  | entryAgedOut a => exact still (by simp) (by simp)
  | listenPeriodEnd => exact still (by simp) (by simp)
  | islandedPeriodEnd => exact still (by simp) (by simp)
  | ringTrip n => exact still (by simp) (by simp)
  | leakOn n => exact still (by simp) (by simp)
  | leakOff n => exact still (by simp) (by simp)
  | seizeConfirm n => exact still (by simp) (by simp)
  | glitchLimitReached n => exact still (by simp) (by simp)
  | clear n => exact still (by simp) (by simp)
  | interdigitMake n => exact still (by simp) (by simp)
  | permanentLoop n => exact still (by simp) (by simp)
  | stutterAdvance n => exact still rfl rfl
  | attemptStart =>
    refine ite_keeps (c := s.mayAttempt = true) (fun _ => ?_) fun _ => h
    split
    · exact h.still (by simp) (by simp)
    · exact h.still (by simp) (by simp)
  | arbitrationLoss b => exact still (by simp) (by simp)
  | clash => exact still (by simp) (by simp)
  | islanding =>
    refine ite_keeps (c := (s.running && (s.bus.link == .listening || s.bus.link == .joined)) = true) (fun _ => ?_) fun _ => h
    split
    · exact h.still (by simp) (by simp)
    · exact h.still (by simp) (by simp)
  | ownNoticeCompletion =>
    show State.ClocksOk (match s.bus.attempt with | some a => _ | none => s)
    split
    · exact still (by simp) (by simp)
    · exact h
  | claimReceived w => exact h.received (act := fun t => t.peerNotice w 11 3 none) (by simp) (by simp)
  | releaseReceived w => exact h.received (act := fun t => t.peerNotice w 9 1 none) (by simp) (by simp)
  | refreshReceived w => exact h.received (act := fun t => t.peerNotice w 11 0 (some 8)) (by simp) (by simp)
  | ringOrder w => exact h.ordered _ _ (by simp) (by simp)
  | cancel w => exact h.ordered _ _ (by simp) (by simp)
  | toneOrder w => exact h.ordered _ _ (by simp) (by simp)
  | modeOrder w => exact h.ordered _ _ (by simp) (by simp)
  | query w => exact h.ordered _ _ (by simp) (by simp)
  | reportNoticeHeard k w => exact h.received (by simp) (by simp)
  | noticeInvalid => exact h.received (by simp) (by simp)
  | receiveFramingError => exact still (by simp) (by simp)
  | receiverIdle => exact still (by simp) (by simp)
  | busHeld => exact still rfl rfl
  | busHeldClear => exact still (by simp) (by simp)
  | startEdge d b =>
    refine ite_keeps (c := (s.running && !s.bus.busHeld && s.bus.byte.isNone) = true) (fun _ => ?_) fun _ => h
    split
    · exact ite_keeps (fun _ => h.still (by simp) (by simp)) fun _ => h.still (by simp) (by simp)
    · exact h.still (by simp) (by simp)
    · exact h
    · exact h
  | sensePulseEdge n => exact still rfl rfl

/-- A slot that has its 500 ms ends; otherwise its timer is a millisecond on (R1). -/
theorem State.ClocksOk.slotMs (hphase : s.phase ≠ .held) : s.slotMs.ClocksOk := by
  have hle := h.cadence.slotTimer
  unfold State.slotMs
  refine ite_keeps (fun _ => ?_) fun hshort => ?_
  · have hended : ((s.setCadence { s.cadence with slotTimer := s.cadence.slotTimer + 1 }).run .slotEnd) =
        (s.setCadence { s.cadence with slotTimer := s.cadence.slotTimer + 1 }).boundary (s.cadence.slot + 1) := if_pos (by simpa [State.active] using hphase)
    rw [hended]
    exact ⟨by rw [State.boundary_cadence]; exact h.cadence.restart _, by simpa using h.sense⟩
  · have hmoved := h.setCadence (h.cadence.setTimer s.cadence.markerMet (d := s.cadence.slotTimer + 1)
      (by simp only [slotLength, State.setCadence_cadence] at hshort; omega) (Nat.le_succ _))
    exact ite_keeps (fun _ => hmoved.run _) fun _ => hmoved

/-- The zero-cross timer stops at 60 ms, with ZC LOST (R11). -/
theorem State.ClocksOk.zcMs (hphase : s.phase ≠ .held) : s.zcMs.ClocksOk := by
  unfold State.zcMs
  refine ite_keeps (fun hrunning => ite_keeps (fun _ => ?_) fun hshort => ?_) fun _ => h
  · have hlost : ((s.setCadence { s.cadence with zcTimer := s.cadence.zcTimer + 1 }).run .zcLost) =
        ((s.setCadence { s.cadence with zcTimer := s.cadence.zcTimer + 1 }).setCadence { s.cadence with zcTimer := zcLimit, zcLost := true }).mapLines
          (LineState.switchRing s.params.relay) := if_pos (by simpa [State.active] using hphase)
    rw [hlost]
    exact ⟨h.cadence.setZeroCross true (by decide) (by decide), h.sense⟩
  · simp only [zcLimit, State.setCadence_cadence] at hrunning hshort
    refine h.setCadence (h.cadence.setZeroCross s.cadence.zcLost (by omega) ?_)
    rw [h.cadence.zcLost]; omega

theorem State.ClocksOk.closeMs : s.closeMs.ClocksOk := by
  have hclosing : s.cadence.closing = true → s.cadence.slot = 0 ∧ s.cadence.slotTimer = 40 := fun hc => by
    simp [Cadence.closing, lateUpTo] at hc; exact hc.1
  have hclosed : (if s.order.lateClose && s.cymEdge then s else s.closeDue).ClocksOk := by
    refine ite_keeps (fun _ => h) fun _ => ite_keeps (fun hc => ?_) fun _ => h
    obtain ⟨h1, h2⟩ := hclosing hc
    exact h.setCadence (h.cadence.closeWindow h1 (by omega))
  have hheld : (if s.order.lateClose && s.cymEdge then s else s.closeDue).cadence.slotTimer = s.cadence.slotTimer := by
    unfold State.closeDue State.closeWindow Cadence.closeWindow
    (repeat' split) <;> rfl
  unfold State.closeMs
  refine ite_keeps (fun hc => hclosed.setCadence (hclosed.cadence.setTimer _ (by decide) ?_)) fun _ => hclosed
  simp only [Bool.and_eq_true] at hc
  rw [hheld, (hclosing hc.1).2]; decide

theorem State.ClocksOk.senseTick : s.senseTick.ClocksOk := by
  unfold State.senseTick
  refine ite_keeps (fun hrunning => ite_keeps (fun _ => ?_) fun hshort => ?_) fun _ => h
  · have hended : ((s.setSense { s.sense with windowTimer := s.sense.windowTimer + 1 }).run .windowEnd) = _ := if_pos hrunning
    rw [hended]
    exact State.windowEnded_clocksOk h.cadence
  · exact ⟨h.cadence, by simpa [SenseUnit.CountsOk, State.windowLength] using hshort⟩

end Clocks

theorem stepKeeps_clocksOk : StepKeeps State.ClocksOk where
  run c _ h := h.run c
  queue _ h := h.still rfl rfl
  slot hp h := h.slotMs hp
  cross hp h := h.zcMs hp
  close h := h.closeMs
  sense h := h.senseTick
  bus _ _ _ h := h.still rfl rfl
  lose h := h.still (by simp) (by simp)
  clock _ _ _ _ h := h.still rfl rfl
  relay n _ h := deadDue_keeps (fun c _ h => h.run c) (fun _ h => h.still rfl rfl) n (h.still rfl rfl)
  dial _ _ _ _ h := h.still rfl rfl
  stutter _ _ _ _ _ h := h.still rfl rfl

end Sys2Proof.Machine
end

section
/-! SUPPORT. Every command keeps the counts of the Notice Bus Interface in range. -/

namespace Sys2Proof.Machine

/-! ### What the link and an attempt's end make of the bus -/

theorem State.join_bus (s : State) : s.join.bus = { s.bus with link := .joined, period := 2 } := by simp [State.join]

theorem State.attemptFailed_bus (s : State) (x : Sent) : (s.attemptFailed x).bus = { s.bus with attempt := none } := by
  cases x <;> simp [State.attemptFailed]

theorem State.island_bus (s : State) :
    s.island.bus = if s.bus.link = .joined ∨ s.bus.link = .listening then { s.bus with link := .islanded, period := 0, clashes := 0 } else s.bus := by
  unfold State.island
  split <;> simp_all

section Counts
variable {s : State} (h : s.bus.CountsOk)
include h

theorem State.countsOk_join : s.join.bus.CountsOk := by
  rw [State.join_bus]; exact h.setLink .joined (by decide) h.clashes

theorem State.countsOk_rejoin : s.rejoin.bus.CountsOk :=
  State.countsOk_join (h.setMarks s.bus.attempt s.bus.ownLast s.bus.degraded s.bus.busHeld true)

theorem State.countsOk_countPeriod : s.countPeriod.bus.CountsOk := by
  unfold State.countPeriod
  split
  · exact ite_keeps (P := fun t => t.bus.CountsOk) (fun _ => State.countsOk_join h) fun _ => h.setLink _ (by omega) h.clashes
  · exact ite_keeps (P := fun t => t.bus.CountsOk) (fun _ => State.countsOk_rejoin h) fun _ => h.setLink _ (by omega) h.clashes
  all_goals exact h

theorem State.countsOk_island : s.island.bus.CountsOk := by
  rw [State.island_bus]
  split
  · exact h.setLink _ (by decide) (by decide)
  · exact h

theorem State.countsOk_slotTask (j k : Slot) (x : SlotTask) : (State.slotTask j k s x).bus.CountsOk := by
  cases x with
  | link => exact State.countsOk_countPeriod h
  | _ => simpa [State.slotTask] using h

theorem State.countsOk_boundary (k : Slot) : (s.boundary k).bus.CountsOk := by
  have hfold : ∀ (j : Slot) (ls : List SlotTask) (t : State), t.bus.CountsOk → (ls.foldl (State.slotTask j k) t).bus.CountsOk := fun j ls => by
    induction ls with
    | nil => exact fun t ht => ht
    | cons x ls ih => exact fun t ht => ih _ (State.countsOk_slotTask ht j k x)
  exact hfold _ _ _ h

theorem State.countsOk_attemptFailed (x : Sent) : (s.attemptFailed x).bus.CountsOk := by
  rw [State.attemptFailed_bus]
  exact h.setMarks none s.bus.ownLast s.bus.degraded s.bus.busHeld s.bus.recovered

theorem State.countsOk_loseAttempt : s.loseAttempt.bus.CountsOk := by
  unfold State.loseAttempt
  split
  · exact State.countsOk_attemptFailed h _
  · exact h

theorem State.countsOk_countClash : s.countClash.bus.CountsOk := by
  unfold State.countClash
  exact ite_keeps (P := fun t => t.bus.CountsOk) (fun _ => State.countsOk_island h) fun hlt => h.setLink s.bus.link h.period (by omega)

theorem State.countsOk_clashAttempt : s.clashAttempt.bus.CountsOk := by
  unfold State.clashAttempt
  split
  · exact State.countsOk_countClash (State.countsOk_discard (State.countsOk_attemptFailed h _))
  · exact h

theorem State.countsOk_completeAttempt (a : Attempt) : (s.completeAttempt a).bus.CountsOk := by
  have hended := State.countsOk_noticeEnds h
  have hcleared : { s.noticeEnds.bus with attempt := none, clashes := 0, ownLast := true }.CountsOk := { hended with clashes := Nat.zero_le 7 }
  unfold State.completeAttempt
  dsimp only
  simp only [State.takeAllDigits_keeps]
  cases a.sent with
  | refresh => exact { hcleared.setErrors (Nat.zero_le 15) with }
  | _ => simpa [State.discharge] using hcleared

theorem State.countsOk_readBack (a : Attempt) (b : Byte) : (s.readBack a b).bus.CountsOk := by
  unfold State.readBack
  split
  · exact State.countsOk_clashAttempt h
  · refine ite_keeps (P := fun t => t.bus.CountsOk) (fun _ => ?_) fun _ => ite_keeps (P := fun t => t.bus.CountsOk) (fun _ => ?_) fun _ => ?_
    · exact { State.countsOk_takeByte h b with }
    · exact State.countsOk_takeByte (State.countsOk_loseAttempt h) b
    · exact State.countsOk_clashAttempt h

theorem State.countsOk_framingError : s.framingError.bus.CountsOk := State.countsOk_discard (State.countsOk_countError h)

theorem State.countsOk_edgeInNotice (d : Bool) (b : Byte) : (s.edgeInNotice d b).bus.CountsOk := by
  unfold State.edgeInNotice
  split
  · exact ite_keeps (P := fun t => t.bus.CountsOk) (fun _ => State.countsOk_readBack h _ _) fun _ => State.countsOk_clashAttempt h
  · exact ite_keeps (P := fun t => t.bus.CountsOk) (fun _ => State.countsOk_framingError h) fun _ =>
      ite_keeps (P := fun t => t.bus.CountsOk) (fun _ => State.countsOk_framingError h) fun _ => State.countsOk_takeByte h b

theorem State.countsOk_prepareNotice : s.prepareNotice.bus.CountsOk := by
  have htested : (if s.asm.releaseMask ≠ 0#8 then s else s.revalidate).bus.CountsOk := by
    split
    · exact h
    · simpa using h
  unfold State.prepareNotice
  generalize (if s.asm.releaseMask ≠ 0#8 then s else s.revalidate) = t at htested ⊢
  dsimp only
  split
  · exact ite_keeps (P := fun t => t.bus.CountsOk) (fun _ => htested.setMarks t.bus.attempt t.bus.ownLast _ t.bus.busHeld t.bus.recovered) fun _ => htested
  · exact htested

theorem State.countsOk_beginAttempt (w : Outgoing) : (s.beginAttempt w).bus.CountsOk :=
  { h with
    idle := Nat.zero_le _, idleSamples := by simp [State.beginAttempt], recessive := Nat.zero_le _
    buffer := by simp [State.beginAttempt], before := fun _ hz => by cases hz }

theorem State.countsOk_peerNotice (w : Notice) (i j : Nat) (b : Option Nat) : (s.peerNotice w i j b).bus.CountsOk := by
  unfold State.peerNotice
  dsimp only
  split
  · exact h
  · refine ite_keeps (P := fun t => t.bus.CountsOk) (fun _ => ?_) fun _ => State.countsOk_countError h
    simpa [State.applyEntry] using h

theorem State.countsOk_received {act : State → State} (ha : ∀ t : State, t.bus.CountsOk → (act t).bus.CountsOk) : (s.received act).bus.CountsOk :=
  ite_keeps (P := fun t => t.bus.CountsOk) (fun _ => ha _ (State.countsOk_noticeEnds h)) fun _ => h

theorem State.countsOk_ordered (k : OrderKind) (w : Notice) {take : State → Line → State} (ht : ∀ (t : State) (n : Line), (take t n).bus = t.bus) :
    (s.ordered (State.takeOrder k w take)).bus.CountsOk := by
  have hended : s.orderEnds.bus.CountsOk := ite_keeps (P := fun t => t.bus.CountsOk) (fun _ => State.countsOk_noticeEnds h) fun _ => h
  refine ite_keeps (P := fun t => t.bus.CountsOk) (fun _ => ?_) fun _ => h
  unfold State.takeOrder
  refine ite_keeps (P := fun t => t.bus.CountsOk) (fun _ => ?_) fun _ => hended
  split
  · rw [ht]; exact hended
  · simpa using hended

/-- Every command keeps the counts of the bus in range. -/
theorem State.countsOk_run (c : Instr) : (s.run c).bus.CountsOk := by
  have step {c : Prop} [Decidable c] {t : State} (ht : t.bus.CountsOk) : (if c then t else s).bus.CountsOk :=
    ite_keeps (P := fun t => t.bus.CountsOk) (fun _ => ht) fun _ => h
  have still {c : Prop} [Decidable c] {t : State} (ht : t.bus = s.bus) : (if c then t else s).bus.CountsOk := step (by rw [ht]; exact h)
  have reset : ∀ k : Straps, (Bus.reset k).CountsOk := fun k => by constructor <;> simp [Bus.reset]
  cases c with
  | reset a l8 cfgp => exact reset _
  | resetAsserted => exact reset _
  | endOfLoading a => exact still (by rw [State.beginWork_frame]; simp)
  | slotEnd => exact step (State.countsOk_boundary h _)
  | cycleMarker =>
    refine ite_keeps (P := fun t => t.bus.CountsOk) (c := s.active = true) (fun _ => ?_) fun _ => h
    split
    · exact State.countsOk_boundary (s := s.setCadence s.cadence.markerTaken) h 0
    · exact h
    · exact State.countsOk_boundary (s := s.setCadence s.cadence.markerTaken) h 0
  | markerWindowOpens => exact still rfl
  | markerWindowCloses => exact step (ite_keeps (P := fun t => t.bus.CountsOk) (fun _ => h) fun _ => by simpa using h)
  | markerLost => exact still rfl
  | zeroCrossMark => exact still rfl
  | zcLost => exact still rfl
  | windowEnd =>
    refine step ?_
    suffices ∀ (ls : List Line) (t : State), t.bus.CountsOk → (ls.foldl (State.windowEndOf s.windowLength) t).bus.CountsOk from this _ _ h
    intro ls
    induction ls with
    | nil => exact fun t ht => ht
    | cons n ls ih => exact fun t ht => ih _ (by simpa using ht)
  | deadTimeToRing n => exact still rfl
  | deadTimeToFeed n => exact still rfl
  | zcWaitTimeout n => exact still rfl
  | ringExpiry n => exact still (by simp)
  | ringDeferral n =>
    show State.bus (match s.ring n with | .pending o => _ | .idle | .claiming _ _ | .ringing _ _ _ => s) |>.CountsOk
    split
    · exact still (by simp)
    all_goals exact h
  | entryAgedOut a => exact still (by simp)
  | listenPeriodEnd => exact step (State.countsOk_join h)
  | islandedPeriodEnd => exact step (State.countsOk_rejoin h)
  | ringTrip n => exact still (by simp)
  | leakOn n => exact still (by simp)
  | leakOff n => exact still (by simp)
  | seizeConfirm n => exact still (by simp)
  | glitchLimitReached n => exact still (by simp)
  | clear n => exact still (by simp)
  | interdigitMake n => exact still (by simp)
  | permanentLoop n => exact still (by simp)
  | stutterAdvance n => exact still rfl
  | attemptStart =>
    refine ite_keeps (P := fun t => t.bus.CountsOk) (c := s.mayAttempt = true) (fun _ => ?_) fun _ => h
    split
    · exact State.countsOk_beginAttempt (State.countsOk_prepareNotice h) _
    · exact State.countsOk_prepareNotice h
  | arbitrationLoss b => exact step ((State.countsOk_loseAttempt h).setReceiver _ (by simp) (by decide) (by decide))
  | clash => exact step (State.countsOk_clashAttempt h)
  | islanding =>
    refine ite_keeps (P := fun t => t.bus.CountsOk) (c := (s.running && (s.bus.link == .listening || s.bus.link == .joined)) = true) (fun _ => ?_) fun _ => h
    split
    · exact State.countsOk_island (State.countsOk_discard (State.countsOk_attemptFailed h _))
    · exact State.countsOk_island h
  | ownNoticeCompletion =>
    show State.bus (match s.bus.attempt with | some a => _ | none => s) |>.CountsOk
    split
    · exact step (State.countsOk_completeAttempt h _)
    · exact h
  | claimReceived w => exact State.countsOk_received (act := fun t => t.peerNotice w 11 3 none) h fun _ ht => State.countsOk_peerNotice ht _ _ _ _
  | releaseReceived w => exact State.countsOk_received (act := fun t => t.peerNotice w 9 1 none) h fun _ ht => State.countsOk_peerNotice ht _ _ _ _
  | refreshReceived w => exact State.countsOk_received (act := fun t => t.peerNotice w 11 0 (some 8)) h fun _ ht => State.countsOk_peerNotice ht _ _ _ _
  | ringOrder w => exact State.countsOk_ordered h _ _ (by simp)
  | cancel w => exact State.countsOk_ordered h _ _ (by simp)
  | toneOrder w => exact State.countsOk_ordered h _ _ (by simp)
  | modeOrder w => exact State.countsOk_ordered h _ _ (by simp)
  | query w => exact State.countsOk_ordered h _ _ (by simp)
  | reportNoticeHeard k w => exact State.countsOk_received h fun _ ht => ht
  | noticeInvalid => exact State.countsOk_received h fun _ ht => State.countsOk_countError ht
  | receiveFramingError => exact step (State.countsOk_framingError h)
  | receiverIdle => exact step (State.countsOk_noticeEnds h)
  | busHeld => exact step h.held
  | busHeldClear =>
    exact step (((State.countsOk_noticeEnds h).setDominant (Nat.zero_le _) (by decide)).setMarks s.bus.attempt s.bus.ownLast s.bus.degraded false s.bus.recovered)
  | startEdge d b =>
    refine ite_keeps (P := fun t => t.bus.CountsOk) (c := (s.running && !s.bus.busHeld && s.bus.byte.isNone) = true) (fun _ => ?_) fun _ => h
    have hedge := State.countsOk_edgeTaken h
    split
    · exact ite_keeps (P := fun t => t.bus.CountsOk) (fun _ => State.countsOk_takeByte (State.countsOk_beginNotice hedge) b) fun _ => hedge
    · exact State.countsOk_edgeInNotice hedge d b
    · exact h
    · exact h
  | sensePulseEdge n => exact still rfl

end Counts

theorem stepKeeps_busCountsOk : StepKeeps fun s => s.bus.CountsOk where
  run c _ h := State.countsOk_run h c
  queue _ h := h
  slot _ := slotMs_keeps (P := fun s => s.bus.CountsOk) (fun c _ h => State.countsOk_run h c) fun _ h => h
  cross _ := zcMs_keeps (P := fun s => s.bus.CountsOk) (fun c _ h => State.countsOk_run h c) fun _ h => h
  close := closeMs_keeps (P := fun s => s.bus.CountsOk) fun _ h => h
  sense := senseTick_keeps (P := fun s => s.bus.CountsOk) (fun c _ h => State.countsOk_run h c) fun _ h => h
  bus _ _ hb h := hb h
  lose h := State.countsOk_loseAttempt h
  clock _ _ _ _ h := h
  relay n _ h := deadDue_keeps (P := fun s => s.bus.CountsOk) (fun c _ h => State.countsOk_run h c) (fun _ h => h) n h
  dial _ _ _ _ h := h
  stutter _ _ _ _ _ h := h

end Sys2Proof.Machine
end

section
/-! SUPPORT. Pulse counters, trip runs and leak counts stay in range. -/

namespace Sys2Proof.Machine

/-- Every count of a sense record lies in the range the spec gives it. -/
structure SenseRecord.CountsOk (x : SenseRecord) : Prop where
  counter : x.counter ≤ 4095
  leakCount : x.leakCount < 250
  tripRun : x.tripRun ≤ 8

/-- The evidence counted for every line, with the trip confirm count that bounds it. -/
structure State.EvidenceOk (s : State) : Prop where
  line : ∀ n : Line, (s.line n).sense.CountsOk
  tripConfirm : s.params.relay.tripConfirm ≤ 8

theorem SenseRecord.CountsOk.restartTrip {x : SenseRecord} (h : x.CountsOk) : { x with tripRun := 0 }.CountsOk := { h with tripRun := Nat.zero_le _ }

theorem SenseRecord.reset_countsOk : SenseRecord.reset.CountsOk := by constructor <;> simp [SenseRecord.reset]

/-! ### Relay requests begin a trip run at 0 or leave it (R74) -/

section Relays
variable {p : RelayParams} {l : LineState} (h : l.sense.CountsOk)
include h

theorem LineState.closeRing_sense : (l.closeRing p).sense.CountsOk := by
  unfold LineState.closeRing
  split
  · exact h.restartTrip
  · exact h

theorem LineState.beginCloseWait_sense (z : Bool) : (l.beginCloseWait p z).sense.CountsOk := by
  unfold LineState.beginCloseWait
  dsimp only
  split
  · exact LineState.closeRing_sense (l := { l with relay := { l.relay with position := .ringWait, wait := .toClose, waitTimer := 0 } }) h
  · exact h

theorem LineState.ringRequest_sense (z : Bool) : (l.ringRequest p z).sense.CountsOk := by
  unfold LineState.ringRequest
  split
  · exact h
  · exact LineState.beginCloseWait_sense h z
  · exact h
  · exact h
  · split <;> exact h

theorem LineState.switchRing_sense : (l.switchRing p).sense.CountsOk := by
  unfold LineState.switchRing
  split
  · exact LineState.closeRing_sense h
  · split <;> exact h
  all_goals exact h

theorem LineState.classBoundary_sense (z : Bool) (j k : Slot) : (l.classBoundary p z j k).sense.CountsOk := by
  unfold LineState.classBoundary
  split
  · rename_i o q fresh _
    dsimp only
    split
    · exact LineState.ringRequest_sense (l := { l with ring := .ringing o q false }) h z
    · split
      · rw [(LineState.syncedFeed_parts _ _ _).2.2.2.1]; exact h
      · exact h
  all_goals exact h

end Relays

/-! ### The window end -/

theorem tripRunAfter_le (t : ThresholdParams) (k : WindowClass) (v r : Nat) : tripRunAfter t k v r ≤ r + 1 := by
  unfold tripRunAfter
  split
  · split <;> omega
  all_goals omega

theorem tripRunAfter_of_ne_ring (t : ThresholdParams) {k : WindowClass} (hk : k ≠ .ring) (v r : Nat) : tripRunAfter t k v r = r := by
  cases k with
  | ring => exact absurd rfl hk
  | _ => rfl

section Evidence
variable {s : State} (h : s.EvidenceOk)
include h

theorem State.EvidenceOk.still {t : State} (ht : ∀ m, (t.line m).sense = (s.line m).sense) (hp : t.params = s.params) : t.EvidenceOk :=
  ⟨fun m => by rw [ht m]; exact h.line m, by rw [hp]; exact h.tripConfirm⟩

theorem State.EvidenceOk.onLine {n : Line} {f : LineState → LineState} (hf : (f (s.line n)).sense.CountsOk) : (s.onLine n f).EvidenceOk := by
  refine ⟨fun m => ?_, h.tripConfirm⟩
  rw [State.line_onLine]
  split
  · exact hf
  · exact h.line m

theorem State.EvidenceOk.mapLines {f : LineState → LineState} (hf : ∀ l : LineState, l.sense.CountsOk → (f l).sense.CountsOk) : (s.mapLines f).EvidenceOk :=
  ⟨fun m => by rw [State.line_mapLines]; exact hf _ (h.line m), h.tripConfirm⟩

theorem State.EvidenceOk.foldl {α : Type} {f : State → α → State} (hf : ∀ (t : State) (a : α), t.EvidenceOk → (f t a).EvidenceOk) (ls : List α) :
    (ls.foldl f s).EvidenceOk := by
  induction ls generalizing s with
  | nil => exact h
  | cons a ls ih => exact ih (hf s a h)

theorem State.EvidenceOk.boundary (k : Slot) : (s.boundary k).EvidenceOk := by
  have htask : ∀ (j : Slot) (t : State) (x : SlotTask), t.EvidenceOk → (State.slotTask j k t x).EvidenceOk := fun j t x ht => by
    cases x with
    | direct => exact ht.mapLines fun _ hl => LineState.classBoundary_sense hl _ _ _
    | _ => exact ht.still (by simp [State.slotTask]) (by simp [State.slotTask])
  exact State.EvidenceOk.foldl (s := s.setCadence { s.cadence with slot := k, slotTimer := 0, past := false }) ⟨h.line, h.tripConfirm⟩ (htask _) _

omit h in
theorem State.handTrip_sense (n m : Line) :
    ((s.handTrip n).line m).sense = if m = n then { (s.line n).sense with tripRun := 0 } else (s.line m).sense := by
  simp only [State.handTrip, State.takeTrip_parts, State.line_onLine]
  split <;> rfl

omit h in
theorem State.turnLeak_sense (n : Line) (on : Bool) (m : Line) :
    ((s.turnLeak n on).line m).sense = if m = n then { (s.line n).sense with leakFlag := on, leakCount := 0 } else (s.line m).sense := by
  simp only [State.turnLeak, State.handEvent_parts, State.line_onLine]
  split <;> rfl

/-- A trip handed over begins the run again at 0 (R74). -/
theorem State.EvidenceOk.handTrip (n : Line) : (s.handTrip n).EvidenceOk :=
  ⟨fun m => by
    rw [State.handTrip_sense]
    split
    · exact (h.line n).restartTrip
    · exact h.line m, by simpa using h.tripConfirm⟩

theorem State.EvidenceOk.turnLeak (n : Line) (on : Bool) : (s.turnLeak n on).EvidenceOk :=
  ⟨fun m => by
    rw [State.turnLeak_sense]
    split
    · exact { h.line n with leakCount := Nat.succ_pos 249 }
    · exact h.line m, by simpa using h.tripConfirm⟩

omit h in
/-- What the readings of a window leave of one line's evidence: a leak count of 250 or a confirmed trip run is still to be acted on. -/
theorem LineState.senseWindow_bounds {p : Params} (hp : p.relay.tripConfirm ≤ 8) (w : Nat) {l : LineState} (hl : l.sense.CountsOk) :
    (l.senseWindow p w).sense.counter ≤ 4095 ∧ (l.senseWindow p w).sense.leakCount ≤ 250 ∧
      (¬ (l.relay.windowClass = .ring ∧ p.relay.tripConfirm ≤ (l.senseWindow p w).sense.tripRun) → (l.senseWindow p w).sense.tripRun ≤ 8) := by
  have hleak := hl.leakCount
  have htrip := hl.tripRun
  refine ⟨Nat.zero_le _, ?_, fun hrun => ?_⟩
  · show l.leakCountAfter p.threshold l.relay.windowClass _ ≤ 250
    unfold LineState.leakCountAfter
    (repeat' split) <;> omega
  · by_cases hk : l.relay.windowClass = .ring
    · have hlt : (l.senseWindow p w).sense.tripRun < p.relay.tripConfirm := Nat.lt_of_not_le fun hle => hrun ⟨hk, hle⟩
      omega
    · show tripRunAfter _ _ _ _ ≤ 8
      rw [tripRunAfter_of_ne_ring _ hk]; exact htrip

/-- A window end: a run that is confirmed begins again at 0, and so does a leak count that turns the flag. -/
theorem State.EvidenceOk.windowEndOf (w : Nat) (n : Line) : (State.windowEndOf w s n).EvidenceOk := by
  refine ⟨fun m => ?_, by simpa using h.tripConfirm⟩
  obtain ⟨hcounter, hleak, htrip⟩ := LineState.senseWindow_bounds h.tripConfirm w (h.line n)
  have hsupervised : (((s.setLine n ((s.line n).senseWindow s.params w)).superviseWindow n w
      (rawLoop s.params.threshold (s.line n).relay.windowClass (readingOf (s.line n).sense.counter w))).line m).sense =
      if m = n then ((s.line n).senseWindow s.params w).sense else (s.line m).sense := by
    rw [State.superviseWindow_parts, State.line_setLine]; split <;> rfl
  unfold State.windowEndOf leakWindows
  dsimp only
  generalize (s.setLine n ((s.line n).senseWindow s.params w)).superviseWindow n w
    (rawLoop s.params.threshold (s.line n).relay.windowClass (readingOf (s.line n).sense.counter w)) = t at hsupervised ⊢
  by_cases hm : m = n
  · subst hm
    rw [if_pos rfl] at hsupervised
    have hhanded : ∀ c : Prop, [Decidable c] → (¬ c → (t.line m).sense.tripRun ≤ 8) →
        ((if c then t.handTrip m else t).line m).sense.tripRun ≤ 8 ∧ ((if c then t.handTrip m else t).line m).sense.counter ≤ 4095 ∧
          ((if c then t.handTrip m else t).line m).sense.leakCount = ((s.line m).senseWindow s.params w).sense.leakCount := fun c _ hc => by
      split
      · rw [State.handTrip_sense, if_pos rfl, hsupervised]; exact ⟨Nat.zero_le _, hcounter, rfl⟩
      · exact ⟨hc ‹_›, by rw [hsupervised]; exact hcounter, by rw [hsupervised]⟩
    obtain ⟨h1, h2, h3⟩ := hhanded ((s.line m).relay.windowClass = .ring ∧
      s.params.relay.tripConfirm ≤ ((s.line m).senseWindow s.params w).sense.tripRun) (by rw [hsupervised]; exact htrip)
    refine ite_keeps (P := fun u => (u.line m).sense.CountsOk) (fun _ => ?_) fun hlow => ?_
    · rw [State.turnLeak_sense, if_pos rfl]; exact ⟨h2, Nat.succ_pos 249, h1⟩
    · exact ⟨h2, by omega, h1⟩
  · rw [if_neg hm] at hsupervised
    have hother : ∀ u : State, (u.line m).sense = (s.line m).sense → ∀ on, ((u.turnLeak n on).line m).sense = (s.line m).sense := fun u hu on => by
      rw [State.turnLeak_sense, if_neg hm, hu]
    have hhanded : ((t.handTrip n).line m).sense = (s.line m).sense := by rw [State.handTrip_sense, if_neg hm, hsupervised]
    have hsame := h.line m
    split <;> split
    · rw [hother _ hhanded]; exact hsame
    · rw [hother _ hsupervised]; exact hsame
    · rw [hhanded]; exact hsame
    · rw [hsupervised]; exact hsame

theorem State.EvidenceOk.received {act : State → State} (ha : ∀ (t : State) (m : Line), ((act t).line m).sense = (t.line m).sense)
    (hp : ∀ t : State, (act t).params = t.params) : (s.received act).EvidenceOk :=
  ite_keeps (fun _ => h.still (by simp [ha]) (by simp [hp])) fun _ => h

theorem State.EvidenceOk.ordered (k : OrderKind) (w : Notice) {take : State → Line → State}
    (ht : ∀ (t : State) (n m : Line), ((take t n).line m).sense = (t.line m).sense) (hp : ∀ (t : State) (n : Line), (take t n).params = t.params) :
    (s.ordered (State.takeOrder k w take)).EvidenceOk := by
  refine ite_keeps (fun _ => ?_) fun _ => h
  unfold State.takeOrder
  refine ite_keeps (fun _ => ?_) fun _ => h.still (by simp) (by simp)
  split
  · exact h.still (by simp [ht]) (by simp [hp])
  · exact h.still (by simp) (by simp)

omit h in
/-- Stored or default, the relay and timing parameters of a loaded part pass their checks (R170). -/
theorem State.configure_checked (s : State) (a : MemoryAnswer) :
    relayOk (s.configure a).params.relay = true ∧ timingOk (s.configure a).params.timing = true := by
  have hdefault : relayOk Params.default.relay = true ∧ timingOk Params.default.timing = true := by decide
  have hvalidated : ∀ i : List Byte, relayOk (validatedParams i).relay = true ∧ timingOk (validatedParams i).timing = true := fun i => by
    unfold validatedParams
    dsimp only
    constructor
    · split
      · assumption
      · exact hdefault.1
    · split
      · assumption
      · exact hdefault.2
  unfold State.configure
  split
  · split
    · exact hdefault
    · split
      · exact hvalidated _
      · exact hdefault
  · exact hdefault

omit h in
theorem State.takeMode_sense (w : Notice) (n m : Line) : ((State.takeMode w s n).line m).sense = (s.line m).sense := by
  have hfree : ∀ l : LineState, l.modeFree.sense = l.sense := fun l => by unfold LineState.modeFree; split <;> rfl
  have hcall : ∀ l : LineState, l.modeInCall.sense = l.sense := fun l => by unfold LineState.modeInCall; split <;> rfl
  have hpark : ∀ l : LineState, l.park.sense = l.sense := fun _ => rfl
  unfold State.takeMode
  split
  · simp [hfree]
  · split <;> simp [hcall]
  · split
    · rfl
    · simp [hpark]

theorem State.EvidenceOk.run (c : Instr) : (s.run c).EvidenceOk := by
  have step {c : Prop} [Decidable c] {t : State} (ht : t.EvidenceOk) : (if c then t else s).EvidenceOk := ite_keeps (fun _ => ht) fun _ => h
  have still {c : Prop} [Decidable c] {t : State} (hs : ∀ m, (t.line m).sense = (s.line m).sense) (hp : t.params = s.params) :
      (if c then t else s).EvidenceOk := step (h.still hs hp)
  have reset : ∀ p k pins o q, (State.atReset p k pins o q).EvidenceOk := fun p k pins o q =>
    ⟨fun m => by rw [State.atReset_line]; exact SenseRecord.reset_countsOk, by show 3 ≤ 8; decide⟩
  cases c with
  | reset a l8 cfgp => exact reset _ _ _ _ _
  | resetAsserted => exact reset _ _ _ _ _
  | endOfLoading a =>
    refine step ⟨fun m => ?_, ?_⟩
    · rw [State.beginWork_line]
      split
      · simpa [LineState.startDeadTime] using h.line m
      · simpa using h.line m
    · have hchecked := (s.configure_checked a).1
      simp only [relayOk, Bool.and_eq_true, decide_eq_true_eq] at hchecked
      simpa using hchecked.2
  | slotEnd => exact step (h.boundary _)
  | cycleMarker =>
    refine ite_keeps (c := s.active = true) (fun _ => ?_) fun _ => h
    have htaken : (s.setCadence s.cadence.markerTaken).EvidenceOk := ⟨h.line, h.tripConfirm⟩
    split
    · exact htaken.boundary 0
    · exact ⟨h.line, h.tripConfirm⟩
    · exact htaken.boundary 0
  | markerWindowOpens => exact still (fun _ => rfl) rfl
  | markerWindowCloses => exact step (ite_keeps (fun _ => ⟨h.line, h.tripConfirm⟩) fun _ => h.still (by simp) (by simp))
  | markerLost => exact still (fun _ => rfl) rfl
  | zeroCrossMark => exact step (State.EvidenceOk.mapLines (s := s.setCadence { s.cadence with zcTimer := 0, zcLost := false }) ⟨h.line, h.tripConfirm⟩ fun _ hl => LineState.switchRing_sense hl)
  | zcLost => exact step (State.EvidenceOk.mapLines (s := s.setCadence { s.cadence with zcTimer := zcLimit, zcLost := true }) ⟨h.line, h.tripConfirm⟩ fun _ hl => LineState.switchRing_sense hl)
  | windowEnd => exact step (State.EvidenceOk.foldl (s := s.setSense { dither := s.sense.dither + 1, windowTimer := 0 }) ⟨h.line, h.tripConfirm⟩
      (fun _ n ht => ht.windowEndOf s.windowLength n) _)
  | deadTimeToRing n => exact step (h.onLine (LineState.beginCloseWait_sense (l := (s.line n).deadTimeReached s.params.relay) (h.line n) _))
  | deadTimeToFeed n => exact step (h.onLine (by simpa [LineState.deadTimeReached] using h.line n))
  | zcWaitTimeout n => exact step (h.onLine (LineState.switchRing_sense (h.line n)))
  | ringExpiry n => exact still (by simp) (by simp)
  | ringDeferral n =>
    show State.EvidenceOk (match s.ring n with | .pending o => _ | .idle | .claiming _ _ | .ringing _ _ _ => s)
    split
    · exact still (by simp) (by simp)
    all_goals exact h
  | entryAgedOut a => exact still (by simp) (by simp)
  | listenPeriodEnd => exact still (by simp) (by simp)
  | islandedPeriodEnd => exact still (by simp) (by simp)
  | ringTrip n => exact step (h.handTrip n)
  | leakOn n => exact step (h.turnLeak n true)
  | leakOff n => exact step (h.turnLeak n false)
  | seizeConfirm n => exact still (by simp) (by simp)
  | glitchLimitReached n => exact still (by simp) (by simp)
  | clear n => exact still (by simp) (by simp)
  | interdigitMake n => exact still (by simp) (by simp)
  | permanentLoop n => exact still (by simp) (by simp)
  | stutterAdvance n => exact still (by simp) rfl
  | attemptStart =>
    refine ite_keeps (c := s.mayAttempt = true) (fun _ => ?_) fun _ => h
    split
    · exact h.still (by simp) (by simp)
    · exact h.still (by simp) (by simp)
  | arbitrationLoss b => exact still (by simp) (by simp)
  | clash => exact still (by simp) (by simp)
  | islanding =>
    refine ite_keeps (c := (s.running && (s.bus.link == .listening || s.bus.link == .joined)) = true) (fun _ => ?_) fun _ => h
    split
    · exact h.still (by simp) (by simp)
    · exact h.still (by simp) (by simp)
  | ownNoticeCompletion =>
    show State.EvidenceOk (match s.bus.attempt with | some a => _ | none => s)
    split
    · exact still (by simp) (by simp)
    · exact h
  | claimReceived w => exact h.received (act := fun t => t.peerNotice w 11 3 none) (by simp) (by simp)
  | releaseReceived w => exact h.received (act := fun t => t.peerNotice w 9 1 none) (by simp) (by simp)
  | refreshReceived w => exact h.received (act := fun t => t.peerNotice w 11 0 (some 8)) (by simp) (by simp)
  | ringOrder w => exact h.ordered _ _ (by simp) (by simp)
  | cancel w => exact h.ordered _ _ (by simp) (by simp)
  | toneOrder w => exact h.ordered _ _ (by simp) (by simp)
  | modeOrder w => exact h.ordered _ _ (fun t n m => t.takeMode_sense w n m) (by simp)
  | query w => exact h.ordered _ _ (by simp) (by simp)
  | reportNoticeHeard k w => exact h.received (by simp) (by simp)
  | noticeInvalid => exact h.received (by simp) (by simp)
  | receiveFramingError => exact still (by simp) (by simp)
  | receiverIdle => exact still (by simp) (by simp)
  | busHeld => exact still (fun _ => rfl) rfl
  | busHeldClear => exact still (by simp) (by simp)
  | startEdge d b =>
    refine ite_keeps (c := (s.running && !s.bus.busHeld && s.bus.byte.isNone) = true) (fun _ => ?_) fun _ => h
    split
    · exact ite_keeps (fun _ => h.still (by simp) (by simp)) fun _ => h.still (by simp) (by simp)
    · exact h.still (by simp) (by simp)
    · exact h
    · exact h
  | sensePulseEdge n => exact step (h.onLine { h.line n with counter := Nat.min_le_left _ _ })

end Evidence

theorem stepKeeps_evidenceOk : StepKeeps State.EvidenceOk where
  run c _ h := h.run c
  queue _ h := ⟨h.line, h.tripConfirm⟩
  slot _ := slotMs_keeps (fun c _ h => h.run c) fun _ h => ⟨h.line, h.tripConfirm⟩
  cross _ := zcMs_keeps (fun c _ h => h.run c) fun _ h => ⟨h.line, h.tripConfirm⟩
  close := closeMs_keeps fun _ h => ⟨h.line, h.tripConfirm⟩
  sense := senseTick_keeps (fun c _ h => h.run c) fun _ h => ⟨h.line, h.tripConfirm⟩
  bus _ _ _ h := ⟨h.line, h.tripConfirm⟩
  lose h := h.still (by simp) (by simp)
  clock _ _ _ _ h := ⟨h.line, h.tripConfirm⟩
  relay n _ h := deadDue_keeps (fun c _ h => h.run c) (fun n h => h.onLine (h.line n)) n (h.onLine (h.line n))
  dial n _ _ _ h := h.onLine (h.line n)
  stutter n _ _ _ _ h := h.onLine (h.line n)

end Sys2Proof.Machine
end

section
/-! SUPPORT. Relay, dial-tone and stutter timers, pulses, digit stores, cycles elapsed, ages and the report queue stay in range. -/

namespace Sys2Proof.Machine

structure RelayRecord.CountsOk (r : RelayRecord) : Prop where
  settle : r.settle ≤ 4
  deadTimer : r.deadTimer ≤ 60
  waitTimer : r.waitTimer ≤ 25

structure HookRecord.CountsOk (h : HookRecord) : Prop where
  pulses : h.pulses ≤ 15
  store : h.digits.length ≤ 16
  dialTimer : ∀ d : Nat, h.dialTimer = some d → d < 60000

/-- The stutter timer, of a tone or of a suspended one, has not reached its 100 ms. -/
def ToneRecord.CountsOk (t : ToneRecord) : Prop :=
  ∀ (p : StutterPhase) (d : Nat), t.tone = some (.recall p d) ∨ t.suspended = some (.recall p d) → d < 100

/-- Relay, hook and tone record of a line have their counts in range. -/
structure LineState.TimersOk (l : LineState) : Prop where
  relay : l.relay.CountsOk
  hook : l.hook.CountsOk
  tone : l.tone.CountsOk

/-- The cycles elapsed of a live order are at most its ring limit. -/
def LineState.ElapsedOk (l : LineState) : Prop := ∀ o : Order, l.ring.order? = some o → o.elapsed ≤ o.limit

/-- The parameters that bound the counts of the lines. -/
structure ParamsBounded (p : Params) : Prop where
  deadTime : p.relay.deadTime ≤ 60
  settle : p.relay.settle ≤ 4
  dialTimeout : p.timing.dialTimeout ≤ 60

structure State.StoresOk (s : State) : Prop where
  line : ∀ n : Line, (s.line n).TimersOk
  elapsed : ∀ n : Line, (s.line n).ElapsedOk
  ages : s.AgesOk
  queue : s.asm.queue.length ≤ 12
  params : ParamsBounded s.params

/-! ### Relay requests -/

section Relays
variable {p : RelayParams} {l : LineState} (hp : p.settle ≤ 4) (h : l.relay.CountsOk)
include hp h

theorem LineState.closeRing_relay : (l.closeRing p).relay.CountsOk := by
  unfold LineState.closeRing
  split
  · exact { h with settle := hp, waitTimer := Nat.zero_le _ }
  · exact h

theorem LineState.closeFeed_relay : (l.closeFeed p).relay.CountsOk := by
  unfold LineState.closeFeed
  split
  · exact { h with settle := hp, waitTimer := Nat.zero_le _ }
  · exact { h with waitTimer := Nat.zero_le _ }

omit hp in
theorem LineState.openRing_relay : l.openRing.relay.CountsOk := { h with deadTimer := Nat.zero_le _, waitTimer := Nat.zero_le _ }

omit hp in
theorem LineState.openFeed_relay : l.openFeed.relay.CountsOk := { h with deadTimer := Nat.zero_le _, waitTimer := Nat.zero_le _ }

theorem LineState.beginCloseWait_relay (z : Bool) : (l.beginCloseWait p z).relay.CountsOk := by
  have hwait : (RelayRecord.CountsOk { l.relay with position := .ringWait, wait := .toClose, waitTimer := 0 }) := { h with waitTimer := Nat.zero_le _ }
  unfold LineState.beginCloseWait
  dsimp only
  split
  · exact LineState.closeRing_relay (l := { l with relay := _ }) hp hwait
  · exact hwait

theorem LineState.immediateFeed_relay : (l.immediateFeed p).relay.CountsOk := by
  unfold LineState.immediateFeed
  split
  · exact LineState.openRing_relay h
  · exact LineState.closeFeed_relay hp h
  · exact LineState.closeFeed_relay hp h
  all_goals exact h

theorem LineState.ringRequest_relay (z : Bool) : (l.ringRequest p z).relay.CountsOk := by
  unfold LineState.ringRequest
  split
  · exact LineState.openFeed_relay h
  · exact LineState.beginCloseWait_relay hp h z
  · exact h
  · exact h
  · split
    · exact { h with waitTimer := Nat.zero_le _ }
    · exact h

theorem LineState.syncedFeed_relay (z : Bool) : (l.syncedFeed p z).relay.CountsOk := by
  unfold LineState.syncedFeed
  split
  · split
    · exact h
    · split
      · exact LineState.openRing_relay h
      · exact { h with waitTimer := Nat.zero_le _ }
  · exact LineState.immediateFeed_relay hp h
  · exact LineState.immediateFeed_relay hp h
  all_goals exact h

theorem LineState.switchRing_relay : (l.switchRing p).relay.CountsOk := by
  unfold LineState.switchRing
  split
  · exact LineState.closeRing_relay hp h
  · split
    · exact LineState.openRing_relay h
    · exact h
  all_goals exact h

theorem LineState.classBoundary_relay (z : Bool) (j k : Slot) : (l.classBoundary p z j k).relay.CountsOk := by
  unfold LineState.classBoundary
  split
  · rename_i o q fresh _
    dsimp only
    split
    · exact LineState.ringRequest_relay (l := { l with ring := .ringing o q false }) hp h z
    · split
      · exact LineState.syncedFeed_relay (l := { l with ring := .ringing o q false }) hp h z
      · exact h
  all_goals exact h

end Relays

/-! ### The moves -/

theorem ToneRecord.countsOk_releaseTone {l : LineState} (h : l.tone.CountsOk) : l.releaseTone.tone.CountsOk := by
  unfold LineState.releaseTone
  split
  · rintro q d (ht | ht)
    · cases ht
    · exact h q d (.inr ht)
  · exact h

theorem HookRecord.countsOk_digitTaken {l : LineState} (h : l.hook.CountsOk) : l.digitTaken.hook.CountsOk :=
  { h with store := by have := h.store; simp [LineState.digitTaken]; omega }

/-- A move keeps the timers of a line in range. -/
theorem LineMove.timersOk {p : RelayParams} (hp : p.settle ≤ 4) {l l' : LineState} (hm : LineMove p l l') (h : l.TimersOk) : l'.TimersOk := by
  obtain ⟨hrelay, hhook, htone⟩ := h
  cases hm with
  | claim | replace | unclaim | commit | withdraw | defer | lose => exact ⟨hrelay, hhook, htone⟩
  | shed h => exact ⟨LineState.immediateFeed_relay hp hrelay, by simpa using hhook, by simpa using htone⟩
  | release h => exact ⟨LineState.immediateFeed_relay hp hrelay, by simpa using hhook, by simpa using htone⟩
  | direct z j k => exact ⟨LineState.classBoundary_relay hp hrelay z j k, by simpa using hhook, by simpa using htone⟩
  | dial => exact ⟨by simpa using hrelay, by simpa using hhook, ToneRecord.countsOk_releaseTone htone⟩
  | digit => exact ⟨by simpa using hrelay, HookRecord.countsOk_digitTaken hhook, by simpa using htone⟩

/-- A move leaves the cycles elapsed and the limit of a live order alone. -/
theorem LineMove.elapsedOk {p : RelayParams} {l l' : LineState} (hm : LineMove p l l') (h : l.ElapsedOk) : l'.ElapsedOk := by
  intro o ho
  cases hm with
  | @claim o' q hr | @replace o' _ q hr | @unclaim o' _ hr | @commit o' _ hr | @shed o' _ _ hr | @defer o' hr =>
    have hkept := h o' (by rw [hr]; rfl)
    cases ho
    exact hkept
  | release hr | withdraw hr => cases ho
  | direct z j k =>
    unfold LineState.classBoundary at ho
    split at ho
    · rename_i o' q fresh hr
      have : o = o' := by
        dsimp only at ho
        (repeat' split at ho) <;> simpa [RingRecord.order?, eq_comm] using ho
      subst this
      exact h o (by rw [hr]; rfl)
    all_goals exact h o ho
  | lose b => exact h o ho
  | dial => exact h o (by simpa using ho)
  | digit => exact h o (by simpa using ho)

theorem State.Moved.storesOk {s t : State} (hm : s.Moved t) (h : s.StoresOk) : t.StoresOk where
  line n := hm.keeps (fun _ _ hmove => hmove.timersOk h.params.settle) (h.line n)
  elapsed n := hm.keeps (fun _ _ hmove => hmove.elapsedOk) (h.elapsed n)
  ages := hm.ages h.ages
  queue := by have h1 := hm.queue; have h2 := h.queue; omega
  params := by rw [hm.params]; exact h.params

/-! ### One line changed -/

section OneLine
variable {s : State} (h : s.StoresOk)
include h

theorem State.StoresOk.onLine {n : Line} {f : LineState → LineState} (hf : (f (s.line n)).TimersOk) (he : (f (s.line n)).ElapsedOk) :
    (s.onLine n f).StoresOk := by
  refine ⟨fun m => ?_, fun m => ?_, h.ages, h.queue, h.params⟩
  · rw [State.line_onLine]
    split
    · exact hf
    · exact h.line m
  · rw [State.line_onLine]
    split
    · exact he
    · exact h.elapsed m

/-- Where neither a line, nor a peer entry, nor the report queue, nor a parameter changes. -/
theorem State.StoresOk.still {t : State} (hl : ∀ m, t.line m = s.line m) (hp : t.params = s.params := by rfl) (ha : t.table.peers = s.table.peers := by rfl)
    (hq : t.asm.queue = s.asm.queue := by rfl) : t.StoresOk :=
  (State.Moved.still s hp hl ha hq).storesOk h

theorem State.StoresOk.onHook {n : Line} {f : HookRecord → HookRecord} (hf : (f (s.line n).hook).CountsOk) : (s.onHook n f).StoresOk :=
  h.onLine ⟨(h.line n).relay, hf, (h.line n).tone⟩ (h.elapsed n)

theorem State.StoresOk.onTone {n : Line} {f : ToneRecord → ToneRecord} (hf : (f (s.line n).tone).CountsOk) : (s.onTone n f).StoresOk :=
  h.onLine ⟨(h.line n).relay, (h.line n).hook, hf⟩ (h.elapsed n)

/-- A sense record is none of these stores. -/
theorem State.StoresOk.onSense (n : Line) (f : LineState → SenseRecord) : (s.onLine n fun l => { l with sense := f l }).StoresOk :=
  h.onLine ⟨(h.line n).relay, (h.line n).hook, (h.line n).tone⟩ (h.elapsed n)

theorem State.StoresOk.onRelay {n : Line} {f : LineState → LineState} (hr : (f (s.line n)).relay.CountsOk) (hring : (f (s.line n)).ring = (s.line n).ring)
    (hhook : (f (s.line n)).hook = (s.line n).hook) (htone : (f (s.line n)).tone = (s.line n).tone) : (s.onLine n f).StoresOk :=
  h.onLine ⟨hr, by rw [hhook]; exact (h.line n).hook, by rw [htone]; exact (h.line n).tone⟩ (by unfold LineState.ElapsedOk; rw [hring]; exact h.elapsed n)

theorem State.StoresOk.mapSwitch : (s.mapLines (LineState.switchRing s.params.relay)).StoresOk := by
  refine ⟨fun m => ?_, fun m => ?_, h.ages, h.queue, h.params⟩
  · rw [State.line_mapLines]
    exact ⟨LineState.switchRing_relay h.params.settle (h.line m).relay, by simpa using (h.line m).hook, by simpa using (h.line m).tone⟩
  · rw [State.line_mapLines]; unfold LineState.ElapsedOk; rw [(LineState.switchRing_parts _ _).1]; exact h.elapsed m

end OneLine

theorem ToneRecord.countsOk_none (b : Bool) : ToneRecord.CountsOk ⟨none, none, b⟩ := by rintro p d (h | h) <;> cases h

/-- A tone given from its start. -/
theorem ToneRecord.countsOk_give {t : ToneRecord} (x : Option Tone) (hx : x = none ∨ x = some .dial ∨ x = some .recallStart) : (t.give x).CountsOk := by
  rintro p d (h | h)
  · obtain rfl | rfl | rfl := hx
    · cases h
    · cases h
    · cases h; decide
  · cases h

/-! ### The supervisor's operations -/

section Supervisor
variable {s : State} (h : s.StoresOk) (n : Line)
include h

theorem State.StoresOk.handEvent (e : Event) : (s.handEvent n e).StoresOk := (s.moved_handEvent n e).storesOk h

theorem State.StoresOk.completeTrain : (s.completeTrain n).StoresOk := by
  have hdone : (s.onHook n fun h => { h with pulses := 0, makeTimer := none }).StoresOk := h.onHook { (h.line n).hook with pulses := Nat.zero_le _ }
  unfold State.completeTrain
  dsimp only
  refine ite_keeps (fun _ => (State.moved_takeDigits _ _ _).storesOk ?_) fun _ => hdone.handEvent n _
  refine hdone.onLine ⟨(hdone.line n).relay, ?_, (hdone.line n).tone⟩ (hdone.elapsed n)
  have hline := (hdone.line n).hook
  unfold LineState.storeDigit
  dsimp only
  split
  · rename_i hroom
    simp only [storeSize] at hroom
    exact ⟨hline.pulses, by simp only [List.length_append, List.length_singleton]; omega, by simp⟩
  · exact ⟨hline.pulses, hline.store, by simp⟩

theorem State.StoresOk.takeTrip : (s.takeTrip n).StoresOk := by
  unfold State.takeTrip
  split
  · exact h
  · have hended := State.StoresOk.handEvent ((s.moved_endRingWork n).storesOk h) n (.ringTripped ‹_›)
    exact hended.onLine ⟨(hended.line n).relay, { (hended.line n).hook with dialTimer := fun _ hd => by cases hd }, ToneRecord.countsOk_none _⟩ (hended.elapsed n)

theorem State.StoresOk.confirmSeizure : (s.confirmSeizure n).StoresOk := by
  have hoff : (s.onHook n fun h => { h with state := .offHook, seizeTimer := none }).StoresOk := h.onHook { (h.line n).hook with }
  unfold State.confirmSeizure
  refine ite_keeps (fun _ => ?_) fun _ => hoff.takeTrip n
  have htold := hoff.handEvent n .seize
  have htimed := htold.onHook (f := fun h => { h with dialTimer := some 0 }) { (htold.line n).hook with dialTimer := by simp }
  refine htimed.onTone ?_
  rintro p d (ht | ht)
  · dsimp only at ht
    split at ht <;> cases ht
  · cases ht

theorem State.StoresOk.trySeize : (s.trySeize n).StoresOk := by
  unfold State.trySeize
  split
  · exact h.onHook { (h.line n).hook with }
  · exact h.confirmSeizure n

theorem State.StoresOk.tellGlitchLimit : (s.tellGlitchLimit n).StoresOk := by
  have htold : (s.onHook n fun h => { h with glitchTold := true }).StoresOk := h.onHook { (h.line n).hook with }
  refine htold.onTone fun p d ht => (htold.line n).tone p d ?_
  unfold ToneRecord.suspend at ht
  split at ht
  · exact ht
  · rename_i x hx
    rcases ht with ht | ht
    · cases ht
    · exact .inl (hx.trans ht)

theorem State.StoresOk.testGlitchLimit : (s.testGlitchLimit n).StoresOk := by
  unfold State.testGlitchLimit
  dsimp only
  split
  · exact ite_keeps (fun _ => h.tellGlitchLimit n) fun _ => h
  · exact h

theorem State.StoresOk.beginBreak : (s.beginBreak n).StoresOk :=
  State.StoresOk.testGlitchLimit (h.onHook { (h.line n).hook with }) n

theorem State.StoresOk.breakWithEvent : (s.onTone n ToneRecord.breakWithEvent).StoresOk :=
  h.onTone fun p d ht => (h.line n).tone p d (.inl (by simpa [ToneRecord.breakWithEvent] using ht))

theorem State.StoresOk.breakWithoutEvent : (s.onTone n ToneRecord.breakWithoutEvent).StoresOk := by
  refine h.onTone fun p d ht => (h.line n).tone p d ?_
  unfold ToneRecord.breakWithoutEvent at ht
  split at ht
  · exact ht
  · rename_i x hx
    split at ht
    · exact .inl (by simpa using ht)
    · exact .inr (hx.trans (by simpa using ht))

theorem State.StoresOk.takeFlash : (s.takeFlash n).StoresOk := by
  have htrain : (if (s.line n).hook.inTrain then s.completeTrain n else s).StoresOk := ite_keeps (fun _ => h.completeTrain n) fun _ => h
  unfold State.takeFlash
  dsimp only
  generalize (if (s.line n).hook.inTrain then s.completeTrain n else s) = t at htrain ⊢
  have htold := (htrain.breakWithEvent n).handEvent n .flash
  have hdone := htold.onHook (f := fun h => { h with dialTimer := none, pulses := 0, makeTimer := none })
    ⟨Nat.zero_le _, (htold.line n).hook.store, by simp⟩
  split
  · exact hdone.onTone (ToneRecord.countsOk_give _ (.inr (.inr rfl)))
  · exact hdone

theorem State.StoresOk.endBreak (d : Nat) : (s.endBreak n d).StoresOk := by
  have hpulse : ((s.onHook n HookRecord.countPulse).onTone n ToneRecord.breakWithEvent).StoresOk :=
    State.StoresOk.breakWithEvent (h.onHook { (h.line n).hook with pulses := Nat.min_le_left _ _ }) n
  have hnothing := h.breakWithoutEvent n
  have hagain : ∀ t : State, t.StoresOk → (t.onHook n fun h => { h with state := .offHook, breakTimer := none }).StoresOk := fun t ht =>
    ht.onHook { (ht.line n).hook with }
  unfold State.endBreak
  refine hagain _ ?_
  cases breakClass s.params.timing d with
  | glitch => exact hnothing
  | pulse => exact hpulse
  | ambiguous => exact ite_keeps (fun _ => hpulse) fun _ => hnothing
  | flash => exact h.takeFlash n

theorem State.StoresOk.beginSeizing : (s.beginSeizing n).StoresOk := h.onHook { (h.line n).hook with }

theorem State.StoresOk.declareClear : (s.declareClear n).StoresOk := by
  unfold State.declareClear
  dsimp only
  have hcleared := State.StoresOk.handEvent (h.onLine (n := n) (f := fun l =>
    { l with
      hook := { l.hook with state := .onHook, mode := .free, pulses := 0, makeTimer := none, breakTimer := none, dialTimer := none }
      tone := { tone := none, suspended := none, dialled := false } })
    ⟨(h.line n).relay, ⟨Nat.zero_le _, (h.line n).hook.store, by simp⟩, ToneRecord.countsOk_none _⟩ (h.elapsed n)) n .clear
  split
  · exact hcleared.beginSeizing n
  · exact hcleared

theorem State.StoresOk.offHookWindow (due : Bool) : (s.offHookWindow n due).StoresOk := by
  have htrain : (if due then s.completeTrain n else s).StoresOk := ite_keeps (fun _ => h.completeTrain n) fun _ => h
  unfold State.offHookWindow
  dsimp only
  split
  · exact htrain.beginBreak n
  · exact htrain

theorem State.StoresOk.breakWindow (d : Nat) : (s.breakWindow n d).StoresOk := by
  have htested := h.testGlitchLimit n
  unfold State.breakWindow
  refine ite_keeps (fun _ => htested.declareClear n) fun _ => ?_
  split
  · exact htested.endBreak n d
  · exact htested

theorem State.StoresOk.superviseWindow (w : Nat) (x : Option Loop) : (s.superviseWindow n w x).StoresOk := by
  have hadvanced : (s.onHook n fun h => { h.advance w with raw := h.raw.enter x }).StoresOk := h.onHook { (h.line n).hook with }
  unfold State.superviseWindow
  refine ite_keeps (fun _ => h) fun _ => ?_
  dsimp only
  split
  · split
    · exact hadvanced.beginSeizing n
    · exact hadvanced
  · split
    · exact hadvanced.onHook { (hadvanced.line n).hook with }
    · exact ite_keeps (fun _ => hadvanced.confirmSeizure n) fun _ => hadvanced
  · exact hadvanced.offHookWindow n _
  · exact hadvanced.breakWindow n _

/-! ### Window ends, slot starts and orders -/

theorem State.StoresOk.handTrip : (s.handTrip n).StoresOk := State.StoresOk.takeTrip (h.onSense n _) n

theorem State.StoresOk.turnLeak (on : Bool) : (s.turnLeak n on).StoresOk := State.StoresOk.handEvent (h.onSense n _) n _

theorem State.StoresOk.windowEndOf (w : Nat) : (State.windowEndOf w s n).StoresOk := by
  have hsensed : (s.setLine n ((s.line n).senseWindow s.params w)).StoresOk := by
    refine h.onLine (n := n) (f := fun l => l.senseWindow s.params w) ⟨?_, (h.line n).hook, (h.line n).tone⟩ (h.elapsed n)
    refine { (h.line n).relay with settle := ?_ }
    have := (h.line n).relay.settle
    show (if (s.line n).relay.moved then (s.line n).relay.settle else (s.line n).relay.settle - 1) ≤ 4
    split <;> omega
  have hsupervised := hsensed.superviseWindow n w (rawLoop s.params.threshold (s.line n).relay.windowClass (readingOf (s.line n).sense.counter w))
  unfold State.windowEndOf
  exact ite_keeps (fun _ => State.StoresOk.turnLeak (ite_keeps (fun _ => hsupervised.handTrip n) fun _ => hsupervised) n _)
    fun _ => ite_keeps (fun _ => hsupervised.handTrip n) fun _ => hsupervised

omit h n in
theorem State.StoresOk.foldl {α : Type} {f : State → α → State} (hf : ∀ (t : State) (a : α), t.StoresOk → (f t a).StoresOk) (ls : List α) {s : State}
    (h : s.StoresOk) : (ls.foldl f s).StoresOk := by
  induction ls generalizing s with
  | nil => exact h
  | cons a ls ih => exact ih (hf s a h)

end Supervisor

end Sys2Proof.Machine
end

section
/-! SUPPORT. Every step keeps every count in range. -/

namespace Sys2Proof.Machine

section Commands
variable {s : State}

/-! ### Slot starts -/

/-- An order examined is within its limit: one that has reached it has expired (R60, R61). -/
theorem State.elapsedOk_examineOrder (n : Line) : ((s.examineOrder n).line n).ElapsedOk := by
  unfold State.examineOrder
  split
  · rename_i hnone
    intro o ho
    rw [show (s.line n).ring.order? = none from hnone] at ho
    cases ho
  · rename_i o hsome
    split
    · unfold State.expire
      rw [hsome]
      intro x hx
      have hidle : (((s.endRingWork n).handEvent n (.ringExpired o.rung)).line n).ring = .idle := by
        rw [(State.handEvent_parts _ _ _ _).1]; exact s.ring_endRingWork_same n
      dsimp only at hx
      rw [hidle] at hx
      cases hx
    · rename_i hlt
      have hok : (s.line n).ElapsedOk := fun x hx => by
        rw [show (s.line n).ring.order? = some o from hsome] at hx
        cases hx; omega
      split
      · exact (s.moved_defer n).keeps (fun _ _ hmove => hmove.elapsedOk) hok
      · exact hok

theorem State.elapsedOk_examineOrders (ls : List Line) (h : ∀ m : Line, m ∈ ls ∨ (s.line m).ElapsedOk) (m : Line) :
    ((ls.foldl State.examineOrder s).line m).ElapsedOk := by
  induction ls generalizing s with
  | nil => exact (h m).resolve_left (by simp)
  | cons n ls ih =>
    refine ih fun k => ?_
    by_cases hk : k = n
    · subst hk; exact .inr (s.elapsedOk_examineOrder k)
    · refine (h k).imp (fun hmem => ?_) fun hok => (s.moved_examineOrder n).keeps (fun _ _ hmove => hmove.elapsedOk) hok
      simpa [hk] using hmem

theorem State.StoresOk.countCycle (h : s.StoresOk) : s.countCycle.StoresOk := by
  unfold State.countCycle
  dsimp only
  have hcounted : (∀ n, ((s.mapLines fun l => { l with ring := l.ring.mapOrder fun o => { o with elapsed := o.elapsed + 1 } }).line n).TimersOk) := fun n => by
    rw [State.line_mapLines]; exact ⟨(h.line n).relay, (h.line n).hook, (h.line n).tone⟩
  generalize hgen : (s.mapLines fun l => { l with ring := l.ring.mapOrder fun o => { o with elapsed := o.elapsed + 1 } }) = t at hcounted ⊢
  have hstands : t.params = s.params ∧ t.table = s.table ∧ t.asm = s.asm := by subst hgen; exact ⟨rfl, rfl, rfl⟩
  obtain ⟨hparams, htable, hasm⟩ := hstands
  have hexamined : t.Moved (allLines.foldl State.examineOrder t) := .byFold (fun u n => u.moved_examineOrder n) _ _
  refine (State.moved_placementAttempt _).storesOk ⟨fun n => ?_, ?_, ?_, ?_, ?_⟩
  · exact hexamined.keeps (fun _ _ hmove => hmove.timersOk (by rw [hparams]; exact h.params.settle)) (hcounted n)
  · exact State.elapsedOk_examineOrders _ fun m => .inl (List.mem_finRange m)
  · exact hexamined.ages (by unfold State.AgesOk; rw [htable]; exact h.ages)
  · have h1 := hexamined.queue
    have h2 := h.queue
    rw [hasm] at h1; omega
  · rw [hexamined.params, hparams]; exact h.params

theorem State.StoresOk.boundary (h : s.StoresOk) (k : Slot) : (s.boundary k).StoresOk := by
  refine State.StoresOk.foldl (fun t x ht => ?_) _ (s := s.setCadence { s.cadence with slot := k, slotTimer := 0, past := false }) (h.still fun _ => rfl)
  by_cases hx : x = .count
  · subst hx; exact ht.countCycle
  · exact (t.moved_slotTask _ _ hx).storesOk ht

/-! ### Orders -/

theorem State.StoresOk.refuse (h : s.StoresOk) (k : OrderKind) (w : Notice) (r : Reason) : (s.refuse k w r).StoresOk :=
  (State.moved_offerReport _ _).storesOk h

theorem State.StoresOk.takeRing (h : s.StoresOk) (w : Notice) (n : Line) : (State.takeRing w s n).StoresOk := by
  have haccepted : ∀ k i, (s.acceptRing n k i).StoresOk := fun k i => by
    refine (State.moved_placementAttempt _).storesOk (State.StoresOk.still (h.onLine (n := n) (f := fun l => { l with ring := .pending _ })
      ⟨(h.line n).relay, (h.line n).hook, (h.line n).tone⟩ ?_) fun _ => rfl)
    intro o ho
    cases ho
    exact Nat.zero_le _
  unfold State.takeRing
  refine ite_keeps (fun _ => h.refuse _ _ _) fun _ => ite_keeps (fun _ => h.refuse _ _ _) fun _ => ite_keeps (fun _ => h.refuse _ _ _) fun _ => ?_
  split
  · exact ite_keeps (fun _ => h) fun _ => h.refuse _ _ _
  · exact haccepted _ _

theorem State.StoresOk.takeTone (h : s.StoresOk) (w : Notice) (n : Line) : (State.takeTone w s n).StoresOk := by
  unfold State.takeTone
  refine ite_keeps (fun _ => ?_) fun _ => h.refuse _ _ _
  split
  · exact h.onTone (ToneRecord.countsOk_give _ (.inl rfl))
  · have hgiven := h.onTone (n := n) (f := fun t => t.give (some .dial)) (ToneRecord.countsOk_give _ (.inr (.inl rfl)))
    exact hgiven.onHook { (hgiven.line n).hook with dialTimer := fun d hd => by cases hd; decide }
  · exact h.onTone (ToneRecord.countsOk_give _ (.inr (.inr rfl)))

theorem LineState.modeFree_timers {l : LineState} (h : l.TimersOk) : l.modeFree.TimersOk := by
  unfold LineState.modeFree
  split
  · exact h
  · exact { h with hook := { h.hook with } }
  · exact { h with hook := { h.hook with } }

theorem LineState.modeInCall_timers {l : LineState} (h : l.TimersOk) : l.modeInCall.TimersOk := by
  unfold LineState.modeInCall
  split
  · exact ⟨h.relay, { h.hook with dialTimer := fun d hd => by cases hd }, ToneRecord.countsOk_give _ (.inl rfl)⟩
  · exact h
  · exact h

theorem LineState.mode_ring (l : LineState) : l.modeFree.ring = l.ring ∧ l.modeInCall.ring = l.ring := by
  unfold LineState.modeFree LineState.modeInCall
  constructor <;> split <;> rfl

theorem LineState.park_timers {l : LineState} (h : l.TimersOk) : l.park.TimersOk :=
  ⟨h.relay, ⟨Nat.zero_le _, Nat.zero_le _, fun d hd => by cases hd⟩, ToneRecord.countsOk_none _⟩

theorem State.StoresOk.takeMode (h : s.StoresOk) (w : Notice) (n : Line) : (State.takeMode w s n).StoresOk := by
  unfold State.takeMode
  split
  · exact h.onLine (LineState.modeFree_timers (h.line n)) (by unfold LineState.ElapsedOk; rw [(LineState.mode_ring _).1]; exact h.elapsed n)
  · refine ite_keeps (fun _ => ?_) fun _ => h.refuse _ _ _
    exact h.onLine (LineState.modeInCall_timers (h.line n)) (by unfold LineState.ElapsedOk; rw [(LineState.mode_ring _).2]; exact h.elapsed n)
  · refine ite_keeps (fun _ => h) fun _ => ?_
    have hended := (s.moved_endRingWork n).storesOk h
    exact hended.onLine (LineState.park_timers (hended.line n)) (hended.elapsed n)

theorem State.StoresOk.ordered (h : s.StoresOk) (k : OrderKind) (w : Notice) {take : State → Line → State}
    (ht : ∀ t : State, t.StoresOk → ∀ n, (take t n).StoresOk) : (s.ordered (State.takeOrder k w take)).StoresOk := by
  have hended : s.orderEnds.StoresOk := ite_keeps (fun _ => h.still fun _ => rfl) fun _ => h
  refine ite_keeps (fun _ => ?_) fun _ => h
  unfold State.takeOrder
  refine ite_keeps (fun _ => ?_) fun _ => hended
  split
  · exact ht _ hended _
  · exact hended.refuse _ _ _

theorem State.StoresOk.received (h : s.StoresOk) {act : State → State} (ha : ∀ t : State, t.StoresOk → (act t).StoresOk) : (s.received act).StoresOk :=
  ite_keeps (fun _ => ha _ (h.still fun _ => rfl)) fun _ => h

/-! ### The commands -/

theorem State.StoresOk.beginWork (h : s.StoresOk) (hp : ParamsBounded s.params) : s.beginWork.StoresOk := by
  refine ⟨fun n => ?_, fun n => ?_, ?_, ?_, ?_⟩
  · rw [State.beginWork_line]
    split
    · exact ⟨{ (h.line n).relay with deadTimer := Nat.zero_le _ }, (h.line n).hook, (h.line n).tone⟩
    · exact h.line n
  · rw [State.beginWork_line]
    split
    · exact h.elapsed n
    · exact h.elapsed n
  · intro a e he
    simp [LoadTable.reset] at he
  · rw [State.beginWork_frame]; exact h.queue
  · simpa using hp

theorem State.atReset_storesOk (f : Phase) (k : Straps) (p : Pins) (o : OrderChoice) (q : List Instr) : (State.atReset f k p o q).StoresOk := by
  refine ⟨fun n => ?_, fun n => ?_, fun a e he => ?_, Nat.zero_le _, ⟨by show 12 ≤ 60; decide, by show 2 ≤ 4; decide, by show 15 ≤ 60; decide⟩⟩
  · rw [State.atReset_line]
    exact ⟨⟨Nat.zero_le _, Nat.zero_le _, Nat.zero_le _⟩, ⟨Nat.zero_le _, Nat.zero_le _, fun d hd => by cases hd⟩, ToneRecord.countsOk_none _⟩
  · rw [State.atReset_line]; intro o ho; cases ho
  · simp [State.atReset, LoadTable.reset] at he

/-- A dead time reached leaves its timer at the dead time, and an open wait at most 25 ms on (R65). -/
theorem LineState.deadTimeReached_relay {p : RelayParams} (hp : p.deadTime ≤ 60) {l : LineState} (h : l.relay.CountsOk) :
    (l.deadTimeReached p).relay.CountsOk := { h with deadTimer := hp }

theorem State.StoresOk.run (c : Instr) (h : s.StoresOk) : (s.run c).StoresOk := by
  have step {c : Prop} [Decidable c] {t : State} (ht : t.StoresOk) : (if c then t else s).StoresOk := ite_keeps (fun _ => ht) fun _ => h
  have moved {c : Prop} [Decidable c] {t : State} (ht : s.Moved t) : (if c then t else s).StoresOk := step (ht.storesOk h)
  have still {c : Prop} [Decidable c] {t : State} (hl : ∀ m, t.line m = s.line m) (hp : t.params = s.params := by rfl)
      (ha : t.table.peers = s.table.peers := by rfl) (hq : t.asm.queue = s.asm.queue := by rfl) : (if c then t else s).StoresOk := step (h.still hl hp ha hq)
  cases c with
  | reset a l8 cfgp => exact State.atReset_storesOk _ _ _ _ _
  | resetAsserted => exact State.atReset_storesOk _ _ _ _ _
  | endOfLoading a =>
    obtain ⟨hrelay, htiming⟩ := s.configure_checked a
    simp only [relayOk, timingOk, Bool.and_eq_true, decide_eq_true_eq] at hrelay htiming
    obtain ⟨⟨⟨⟨⟨-, hdead⟩, -⟩, hsettle⟩, -⟩, -⟩ := hrelay
    obtain ⟨-, hdial⟩ := htiming
    have hb : ParamsBounded (s.configure a).params := ⟨hdead, hsettle, hdial⟩
    exact step (State.StoresOk.beginWork ⟨fun n => by simpa using h.line n, fun n => by simpa using h.elapsed n,
      by intro b e he; exact h.ages b e (by simpa using he), by simpa using h.queue, hb⟩ hb)
  | slotEnd => exact step (h.boundary _)
  | cycleMarker =>
    refine ite_keeps (c := s.active = true) (fun _ => ?_) fun _ => h
    have htaken : (s.setCadence s.cadence.markerTaken).StoresOk := h.still fun _ => rfl
    split
    · exact htaken.boundary 0
    · exact htaken.still fun _ => rfl
    · exact htaken.boundary 0
  | markerWindowOpens => exact still fun _ => rfl
  | markerWindowCloses => exact step (ite_keeps (fun _ => h.still fun _ => rfl) fun _ => h.still fun _ => rfl)
  | markerLost => exact still fun _ => rfl
  | zeroCrossMark => exact step (State.StoresOk.mapSwitch (s := s.setCadence { s.cadence with zcTimer := 0, zcLost := false }) (h.still fun _ => rfl))
  | zcLost => exact step (State.StoresOk.mapSwitch (s := s.setCadence { s.cadence with zcTimer := zcLimit, zcLost := true }) (h.still fun _ => rfl))
  | windowEnd => exact step (State.StoresOk.foldl (fun _ n ht => ht.windowEndOf n s.windowLength) _ (h.still fun _ => rfl))
  | deadTimeToRing n =>
    exact step (h.onRelay (LineState.beginCloseWait_relay h.params.settle (LineState.deadTimeReached_relay h.params.deadTime (h.line n).relay) _)
      (by simp [LineState.deadTimeReached]) (by simp [LineState.deadTimeReached]) (by simp [LineState.deadTimeReached]))
  | deadTimeToFeed n =>
    exact step (h.onRelay (LineState.closeFeed_relay h.params.settle (LineState.deadTimeReached_relay h.params.deadTime (h.line n).relay))
      (by simp [LineState.deadTimeReached]) (by simp [LineState.deadTimeReached]) (by simp [LineState.deadTimeReached]))
  | zcWaitTimeout n => exact step (h.onRelay (LineState.switchRing_relay h.params.settle (h.line n).relay) (by simp) (by simp) (by simp))
  | ringExpiry n =>
    refine step ((State.moved_expire _ _).storesOk (h.onLine (n := n) ⟨(h.line n).relay, (h.line n).hook, (h.line n).tone⟩ fun o ho => ?_))
    cases hr : s.ring n <;> simp_all [RingRecord.mapOrder, RingRecord.order?] <;> (subst ho; exact Nat.le_refl _)
  | ringDeferral n =>
    show State.StoresOk (match s.ring n with | .pending o => _ | .idle | .claiming _ _ | .ringing _ _ _ => s)
    split
    · rename_i o ho
      refine ite_keeps (fun hc => (State.moved_defer _ _).storesOk ?_) fun _ => h
      refine h.onLine (n := n) ⟨(h.line n).relay, (h.line n).hook, (h.line n).tone⟩ fun x hx => ?_
      have hle := h.elapsed n o (by rw [show (s.line n).ring = _ from ho]; rfl)
      have hlt := hc.2.1
      cases hx
      exact Nat.max_le.2 ⟨hle, hlt.le⟩
    all_goals exact h
  | entryAgedOut a => exact moved ((State.Moved.setPeer (by simp)).trans (State.moved_viewChange _ _))
  | listenPeriodEnd => exact moved s.moved_join
  | islandedPeriodEnd => exact moved s.moved_rejoin
  | ringTrip n => exact step (h.handTrip n)
  | leakOn n => exact step (h.turnLeak n _)
  | leakOff n => exact step (h.turnLeak n _)
  | seizeConfirm n => exact step (h.trySeize n)
  | glitchLimitReached n => exact step (State.StoresOk.tellGlitchLimit (h.onHook { (h.line n).hook with }) n)
  | clear n => exact step (h.declareClear n)
  | interdigitMake n => exact step (h.offHookWindow n true)
  | permanentLoop n =>
    refine step (State.StoresOk.onTone (State.StoresOk.handEvent (h.onHook (n := n) { (h.line n).hook with dialTimer := fun d hd => by cases hd }) n _) ?_)
    exact ToneRecord.countsOk_give _ (.inl rfl)
  | stutterAdvance n =>
    refine step (h.onTone ?_)
    split
    · rename_i p e hp
      rintro q d (hq | hq)
      · cases hq; decide
      · exact (h.line n).tone q d (.inr hq)
    all_goals exact (h.line n).tone
  | attemptStart =>
    refine ite_keeps (c := s.mayAttempt = true) (fun _ => ?_) fun _ => h
    have hprepared := s.moved_prepareNotice.storesOk h
    split
    · exact hprepared.still fun _ => rfl
    · exact hprepared
  | arbitrationLoss b => exact moved (s.moved_loseAttempt.trans (State.Moved.setBus _ _))
  | clash => exact moved s.moved_clashAttempt
  | islanding =>
    refine ite_keeps (c := (s.running && (s.bus.link == .listening || s.bus.link == .joined)) = true) (fun _ => ?_) fun _ => h
    split
    · exact (((s.moved_attemptFailed _).trans (State.moved_discard _)).trans (State.moved_island _)).storesOk h
    · exact s.moved_island.storesOk h
  | ownNoticeCompletion =>
    show State.StoresOk (match s.bus.attempt with | some a => _ | none => s)
    split
    · exact moved (s.moved_completeAttempt _)
    · exact h
  | claimReceived w => exact h.received (act := fun t => t.peerNotice w 11 3 none) fun t ht => (t.moved_peerNotice _ _ _ _).storesOk ht
  | releaseReceived w => exact h.received (act := fun t => t.peerNotice w 9 1 none) fun t ht => (t.moved_peerNotice _ _ _ _).storesOk ht
  | refreshReceived w => exact h.received (act := fun t => t.peerNotice w 11 0 (some 8)) fun t ht => (t.moved_peerNotice _ _ _ _).storesOk ht
  | ringOrder w => exact h.ordered _ _ fun t ht n => ht.takeRing w n
  | cancel w => exact h.ordered _ _ fun t ht n => (t.moved_endRingWork n).storesOk ht
  | toneOrder w => exact h.ordered _ _ fun t ht n => ht.takeTone w n
  | modeOrder w => exact h.ordered _ _ fun t ht n => ht.takeMode w n
  | query w => exact h.ordered _ _ fun t ht n => (t.moved_offerReport _).storesOk ht
  | reportNoticeHeard k w => exact h.received fun t ht => ht
  | noticeInvalid => exact h.received fun t ht => ht.still fun _ => rfl
  | receiveFramingError => exact still fun _ => rfl
  | receiverIdle => exact still fun _ => rfl
  | busHeld => exact still fun _ => rfl
  | busHeldClear => exact still fun _ => rfl
  | startEdge d b =>
    refine ite_keeps (c := (s.running && !s.bus.busHeld && s.bus.byte.isNone) = true) (fun _ => ?_) fun _ => h
    have hedge : s.edgeTaken.StoresOk := h.still fun _ => rfl
    split
    · exact ite_keeps (fun _ => hedge.still fun _ => rfl) fun _ => hedge
    · exact (State.moved_edgeInNotice _ _ _).storesOk hedge
    · exact h
    · exact h
  | sensePulseEdge n => exact step (h.onSense n _)

/-! ### The timers of a line (R65, R111, R125) -/

/-- A dead-time timer that has come to the dead time stops there, and one that has not is short of it. -/
theorem State.StoresOk.relayCounted (h : s.StoresOk) (n : Line) (hserves : s.serves n = true) :
    ((s.onLine n LineState.countRelay).deadDue n).StoresOk := by
  obtain ⟨hsettle, hdead, hwait⟩ := (h.line n).relay
  have hparts : ∀ l : LineState, l.countRelay.ring = l.ring ∧ l.countRelay.hook = l.hook ∧ l.countRelay.tone = l.tone := fun l => ⟨rfl, rfl, rfl⟩
  have hwait' : (if (s.line n).relay.wait = .none then (s.line n).relay.waitTimer else min waitLimit ((s.line n).relay.waitTimer + 1)) ≤ 25 := by
    split
    · exact hwait
    · exact Nat.min_le_left _ _
  have hreached : ((s.line n).countRelay.deadTimeReached s.params.relay).relay.CountsOk := ⟨hsettle, h.params.deadTime, hwait'⟩
  have hserves' : (s.onLine n LineState.countRelay).serves n = true := hserves
  unfold State.deadDue
  rw [State.line_onLine_same]
  refine ite_keeps (fun _ => ?_) fun hnot => ?_
  · split
    · rename_i hpos
      have hrun : (s.onLine n LineState.countRelay).run (.deadTimeToRing n) =
          (s.onLine n LineState.countRelay).onLine n fun l => (l.deadTimeReached s.params.relay).beginCloseWait s.params.relay s.cadence.zcLost :=
        if_pos (by rw [hserves', State.line_onLine_same, hpos]; rfl)
      rw [hrun, State.onLine_onLine]
      exact h.onRelay (LineState.beginCloseWait_relay h.params.settle hreached _) (by simp [LineState.deadTimeReached, hparts])
        (by simp [LineState.deadTimeReached, hparts]) (by simp [LineState.deadTimeReached, hparts])
    · rename_i hpos
      have hrun : (s.onLine n LineState.countRelay).run (.deadTimeToFeed n) =
          (s.onLine n LineState.countRelay).onLine n fun l => (l.deadTimeReached s.params.relay).closeFeed s.params.relay :=
        if_pos (by rw [hserves', State.line_onLine_same, hpos]; rfl)
      rw [hrun, State.onLine_onLine]
      exact h.onRelay (LineState.closeFeed_relay h.params.settle hreached) (by simp [LineState.deadTimeReached, hparts])
        (by simp [LineState.deadTimeReached, hparts]) (by simp [LineState.deadTimeReached, hparts])
    all_goals
      rw [State.onLine_onLine]
      exact h.onRelay hreached rfl rfl rfl
  · refine h.onRelay ⟨hsettle, ?_, hwait'⟩ rfl rfl rfl
    have hbound := h.params.deadTime
    show (if (s.line n).relay.deadRunning then (s.line n).relay.deadTimer + 1 else (s.line n).relay.deadTimer) ≤ 60
    split
    · rename_i hrunning
      have hshort : ¬ s.params.relay.deadTime ≤ (s.line n).relay.deadTimer + 1 := fun hle => hnot ⟨hrunning, by
        show s.params.relay.deadTime ≤ if (s.line n).relay.deadRunning then _ else _
        rw [if_pos hrunning]; exact hle⟩
      omega
    · exact hdead

end Commands

theorem stepKeeps_storesOk : StepKeeps State.StoresOk where
  run c _ h := h.run c
  queue _ h := h.still fun _ => rfl
  slot _ := slotMs_keeps (fun c _ h => h.run c) fun _ h => h.still fun _ => rfl
  cross _ := zcMs_keeps (fun c _ h => h.run c) fun _ h => h.still fun _ => rfl
  close := closeMs_keeps fun _ h => h.still fun _ => rfl
  sense := senseTick_keeps (fun c _ h => h.run c) fun _ h => h.still fun _ => rfl
  bus _ _ _ h := h.still fun _ => rfl
  lose h := (State.moved_loseAttempt _).storesOk h
  clock _ _ _ _ h := h.still fun _ => rfl
  relay n hserves h := h.relayCounted n hserves
  dial n d _ hlt h := by
    have hbound := h.params.dialTimeout
    exact h.onHook { (h.line n).hook with dialTimer := fun e he => by cases he; omega }
  stutter n k d hd hlt h := h.onTone fun q e he => by
    rcases he with he | he
    · cases he; exact hlt
    · exact (h.line n).tone q e (.inr he)

/-- The four groups of counts are all of them. -/
theorem State.countsOk_iff (s : State) : s.CountsOk ↔ s.ClocksOk ∧ s.bus.CountsOk ∧ s.EvidenceOk ∧ s.StoresOk := by
  constructor
  · intro h
    exact ⟨⟨⟨h.slotTimer, h.past, h.missed, h.markerLost, h.zcTimer, h.zcLost⟩, h.windowTimer⟩, h.bus,
      ⟨fun n => ⟨(h.lines n).counter, (h.lines n).leakCount, (h.lines n).tripRun⟩, h.tripConfirm⟩,
      ⟨fun n => ⟨⟨(h.lines n).settle, (h.lines n).deadTimer, (h.lines n).waitTimer⟩, ⟨(h.lines n).pulses, (h.lines n).store, (h.lines n).dialTimer⟩,
        (h.lines n).stutter⟩, fun n => (h.lines n).elapsed, h.ages, h.queue, ⟨h.deadTime, h.settle, h.dialTimeout⟩⟩⟩
  · rintro ⟨⟨⟨h1, h2, h3, h4, h5, h6⟩, hwindow⟩, hbus, ⟨hevidence, htrip⟩, ⟨hline, helapsed, hages, hqueue, ⟨hdead, hsettle, hdial⟩⟩⟩
    exact ⟨h1, h2, h3, h4, h5, h6, hages, hqueue, hwindow, hbus, fun n =>
      ⟨(hevidence n).counter, (hevidence n).leakCount, (hevidence n).tripRun, (hline n).hook.pulses, (hline n).hook.store, (hline n).relay.settle,
        (hline n).relay.deadTimer, (hline n).relay.waitTimer, (hline n).tone, (hline n).hook.dialTimer, helapsed n⟩, hdead, hsettle, htrip, hdial⟩

/-- Settles O59: one induction over the step for each group of counts. -/
theorem everyStepKeepsCountsInRange : Obligations.EveryStepKeepsCountsInRange := by
  intro s t h hstep
  obtain ⟨hclocks, hbus, hevidence, hstores⟩ := s.countsOk_iff.1 h
  exact t.countsOk_iff.2 ⟨stepKeeps_clocksOk.step hclocks hstep, stepKeeps_busCountsOk.step hbus hstep, stepKeeps_evidenceOk.step hevidence hstep,
    stepKeeps_storesOk.step hstores hstep⟩

end Sys2Proof.Machine
end

section
/-! SUPPORT. The Ring Scheduler's lists and token follow the ring records through every operation on them. -/

namespace Sys2Proof.Machine

/-- Records of the same ring state, whatever order and placement they hold. -/
theorem RingRecord.state_of_code {r r' : RingRecord} (h : r.code = r'.code) :
    r.isIdle = r'.isIdle ∧ r.isPending = r'.isPending ∧ r.isClaiming = r'.isClaiming ∧ r.isRinging = r'.isRinging := by
  have hcode : ∀ x : RingRecord, x.isIdle = (x.code == 0#2) ∧ x.isPending = (x.code == 1#2) ∧ x.isClaiming = (x.code == 2#2) ∧
      x.isRinging = (x.code == 3#2) := fun x => by cases x <;> exact ⟨rfl, rfl, rfl, rfl⟩
  obtain ⟨h1, h2, h3, h4⟩ := hcode r
  obtain ⟨g1, g2, g3, g4⟩ := hcode r'
  exact ⟨by rw [h1, g1, h], by rw [h2, g2, h], by rw [h3, g3, h], by rw [h4, g4, h]⟩

theorem RingRecord.idle_of_code {r r' : RingRecord} (h : r.code = r'.code) (hr' : r' = .idle) : r = .idle :=
  RingRecord.isIdle_iff.1 (by rw [(RingRecord.state_of_code h).1, hr']; rfl)

section Agreement
variable {s t : State} (h : s.SchedulerOk)
include h

/-- A line with ring work is one of a running part. -/
theorem State.SchedulerOk.running_of_work {n : Line} (hn : s.ring n ≠ .idle) : s.phase = .running :=
  Classical.byContradiction fun hp => hn (h.idleBefore hp n)

/-- Where every line keeps its ring state and the lists stand. -/
theorem State.SchedulerOk.same (hphase : t.phase = s.phase) (hsched : t.sched = s.sched) (hcode : ∀ m, (t.ring m).code = (s.ring m).code) :
    t.SchedulerOk := by
  obtain ⟨h1, h2, h3, h4, h5, h6⟩ := h
  refine ⟨by rw [hsched]; exact h1, by rw [hsched]; exact h2, fun m => ?_, fun m => ?_, fun m => ?_, fun hp m => ?_⟩
  · rw [hsched, (RingRecord.state_of_code (hcode m)).1]; exact h3 m
  · rw [hsched, (RingRecord.state_of_code (hcode m)).2.2.2]; exact h4 m
  · rw [hsched, (RingRecord.state_of_code (hcode m)).2.2.1]; exact h5 m
  · exact RingRecord.idle_of_code (hcode m) (h6 (by rwa [← hphase]) m)

/-- One line's ring state changes, and lists and token follow it. -/
theorem State.SchedulerOk.update {n : Line} (hphase : t.phase = s.phase) (hother : ∀ m, m ≠ n → (t.ring m).code = (s.ring m).code)
    (hbefore : s.phase ≠ .running → t.ring n = .idle) (hanodup : t.sched.accepted.Nodup) (hcnodup : t.sched.commits.Nodup)
    (ha : ∀ m, m ≠ n → (m ∈ t.sched.accepted ↔ m ∈ s.sched.accepted)) (han : n ∈ t.sched.accepted ↔ (t.ring n).isIdle = false)
    (hc : ∀ m, m ≠ n → (m ∈ t.sched.commits ↔ m ∈ s.sched.commits)) (hcn : n ∈ t.sched.commits ↔ (t.ring n).isRinging = true)
    (hk : ∀ m, m ≠ n → (t.sched.token = .held m ↔ s.sched.token = .held m)) (hkn : t.sched.token = .held n ↔ (t.ring n).isClaiming = true) :
    t.SchedulerOk := by
  refine ⟨hanodup, hcnodup, fun m => ?_, fun m => ?_, fun m => ?_, fun hp m => ?_⟩ <;> by_cases hm : m = n
  · subst hm; exact han
  · rw [ha m hm, (RingRecord.state_of_code (hother m hm)).1]; exact h.acceptedIff m
  · subst hm; exact hcn
  · rw [hc m hm, (RingRecord.state_of_code (hother m hm)).2.2.2]; exact h.commitsIff m
  · subst hm; exact hkn
  · rw [hk m hm, (RingRecord.state_of_code (hother m hm)).2.2.1]; exact h.heldIff m
  · subst hm; exact hbefore (by rwa [← hphase])
  · exact RingRecord.idle_of_code (hother m hm) (h.idleBefore (by rwa [← hphase]) m)

theorem State.SchedulerOk.not_held {n : Line} (hn : (s.ring n).isClaiming = false) : s.sched.token ≠ .held n := fun hk => by
  rw [(h.heldIff n).1 hk] at hn; cases hn

theorem State.SchedulerOk.not_committed {n : Line} (hn : (s.ring n).isRinging = false) : n ∉ s.sched.commits := fun hc => by
  rw [(h.commitsIff n).1 hc] at hn; cases hn

/-- While one line claims, the token is held for no other. -/
theorem State.SchedulerOk.held_unique {n m : Line} (hn : (s.ring n).isClaiming = true) (hm : m ≠ n) : s.sched.token ≠ .held m := fun hk => by
  rw [(h.heldIff n).2 hn] at hk
  cases hk; exact hm rfl

/-! ### The changes of ring state -/

theorem State.SchedulerOk.issueClaim {n : Line} {q : Placement} (hfree : s.sched.token = .free) : (s.issueClaim n q).SchedulerOk := by
  unfold State.issueClaim
  split
  · rename_i o ho
    refine h.update (n := n) rfl (fun m hm => by simp [State.ring_setRing, hm]) (fun hp => ?_) h.acceptedNodup h.commitsNodup (fun _ _ => Iff.rfl) ?_
      (fun _ _ => Iff.rfl) ?_ (fun m hm => ?_) ?_
    · rw [h.idleBefore hp n] at ho; cases ho
    · simp [h.acceptedIff n, ho, RingRecord.isIdle]
    · simp [h.commitsIff n, ho, RingRecord.isRinging]
    · simp [hfree, Ne.symm hm]
    · simp [RingRecord.isClaiming]
  all_goals exact h

theorem State.SchedulerOk.placementAttempt : s.placementAttempt.SchedulerOk := by
  unfold State.placementAttempt
  split
  · rename_i hc
    split
    · exact h.issueClaim hc.2
    · exact h
  · exact h

/-- A token that is SPENT, or free, becomes FREE (R54). -/
theorem State.SchedulerOk.releaseToken (hnot : ∀ n, s.sched.token ≠ .held n) : (s.setToken .free).SchedulerOk := by
  obtain ⟨h1, h2, h3, h4, h5, h6⟩ := h
  exact ⟨h1, h2, h3, h4, fun n => ⟨fun hk => (by cases hk), fun hc => absurd ((h5 n).2 hc) (hnot n)⟩, h6⟩

/-- A claim is given up, its order kept, the token FREE (R50, R63). -/
theorem State.SchedulerOk.unclaim {n : Line} {o : Order} {q : Placement} (hn : s.ring n = .claiming o q) :
    ((s.setRing n (.pending o)).setToken .free).SchedulerOk := by
  refine h.update (n := n) rfl (fun m hm => by simp [State.ring_setRing, hm]) (fun hp => ?_) h.acceptedNodup h.commitsNodup (fun _ _ => Iff.rfl) ?_
    (fun _ _ => Iff.rfl) ?_ (fun m hm => ?_) ?_
  · rw [h.idleBefore hp n] at hn; cases hn
  · simp [h.acceptedIff n, hn, RingRecord.isIdle]
  · simp [h.commitsIff n, hn, RingRecord.isRinging]
  · simp [h.held_unique (by rw [hn]; rfl) hm]
  · simp [RingRecord.isClaiming]

theorem State.SchedulerOk.replaceClaim {n : Line} {o : Order} {q : Placement} (hn : s.ring n = .claiming o q) : (s.replaceClaim n o).SchedulerOk := by
  unfold State.replaceClaim
  split
  · refine h.same rfl rfl fun m => ?_
    rw [State.ring_setRing]
    split
    · subst m; rw [hn]; rfl
    · rfl
  · exact (h.unclaim hn).placementAttempt

theorem State.SchedulerOk.revalidate : s.revalidate.SchedulerOk := by
  unfold State.revalidate
  split
  · split
    · exact h
    · split
      · split
        · exact h
        · exact h.replaceClaim ‹_›
      all_goals exact h
  all_goals exact h

theorem State.SchedulerOk.handEvent (n : Line) (e : Event) : (s.handEvent n e).SchedulerOk :=
  h.same (by simp) (by simp) fun m => by simp [State.ring]

/-- A RINGING line is shed: PENDING, off the commit order list (R56). -/
theorem State.SchedulerOk.shedLine (n : Line) : (s.shedLine n).SchedulerOk := by
  unfold State.shedLine
  split
  · rename_i o q b hn
    suffices hshed : ((((s.onLine n (LineState.immediateFeed s.params.relay)).setRing n (.pending o)).leaveCommits n).oweRelease n).SchedulerOk from
      hshed.handEvent n .ringShed
    refine h.update (n := n) rfl (fun m hm => ?_) (fun hp => ?_) h.acceptedNodup (h.commitsNodup.erase n) (fun _ _ => Iff.rfl) ?_
      (fun m hm => ?_) ?_ (fun m hm => Iff.rfl) ?_
    · simp [State.ring_setRing, State.ring_onLine, hm]
    · rw [h.idleBefore hp n] at hn; cases hn
    · simp [h.acceptedIff n, hn, RingRecord.isIdle]
    · simp [List.mem_erase_of_ne hm]
    · simp [h.commitsNodup.not_mem_erase, RingRecord.isRinging]
    · simp [h.not_held (n := n) (by rw [hn]; rfl), RingRecord.isClaiming]
  all_goals exact h

theorem State.SchedulerOk.shedLines (ls : List Line) : (ls.foldl State.shedLine s).SchedulerOk := by
  induction ls generalizing s with
  | nil => exact h
  | cons n ls ih => exact ih (h.shedLine n)

theorem State.SchedulerOk.overloadCheck : s.overloadCheck.SchedulerOk := by
  unfold State.overloadCheck
  split
  · split
    · exact h
    · exact State.SchedulerOk.placementAttempt ((h.shedLines _).same rfl rfl fun _ => rfl)
  · exact h

/-- Ring work that has not come to ringing ends: IDLE, off the acceptance order list (R53, R57). -/
theorem State.SchedulerOk.withdraw {n : Line} {o : Order} (hn : s.ring n = .pending o) : ((s.setRing n .idle).leaveAccepted n).SchedulerOk := by
  refine h.update (n := n) rfl (fun m hm => by simp [State.ring_setRing, hm]) (fun _ => by simp) (h.acceptedNodup.erase n) h.commitsNodup (fun m hm => ?_) ?_
    (fun _ _ => Iff.rfl) ?_ (fun _ _ => Iff.rfl) ?_
  · simp [List.mem_erase_of_ne hm]
  · simp [h.acceptedNodup.not_mem_erase, RingRecord.isIdle]
  · simp [h.commitsIff n, hn, RingRecord.isRinging]
  · simp [h.not_held (n := n) (by rw [hn]; rfl), RingRecord.isClaiming]

/-- A claim ends with its order, the token no longer HELD (R53, R54). -/
theorem State.SchedulerOk.withdrawClaim {n : Line} {o : Order} {q : Placement} (hn : s.ring n = .claiming o q) {k : Token} (hk : ∀ m, k ≠ .held m) :
    (((s.setRing n .idle).leaveAccepted n).setToken k).SchedulerOk := by
  refine h.update (n := n) rfl (fun m hm => by simp [State.ring_setRing, hm]) (fun _ => by simp) (h.acceptedNodup.erase n) h.commitsNodup (fun m hm => ?_) ?_
    (fun _ _ => Iff.rfl) ?_ (fun m hm => ?_) ?_
  · simp [List.mem_erase_of_ne hm]
  · simp [h.acceptedNodup.not_mem_erase, RingRecord.isIdle]
  · simp [h.commitsIff n, hn, RingRecord.isRinging]
  · simp [hk m, h.held_unique (by rw [hn]; rfl) hm]
  · simp [hk n, RingRecord.isClaiming]

theorem State.SchedulerOk.endClaim {n : Line} {o : Order} {q : Placement} (hn : s.ring n = .claiming o q) : (s.endClaim n).SchedulerOk := by
  unfold State.endClaim
  dsimp only
  split
  · exact h.withdrawClaim hn fun m hk => by cases hk
  · exact (h.withdrawClaim hn fun m hk => by cases hk).placementAttempt

/-- A RINGING line goes IDLE, off both lists (R55). -/
theorem State.SchedulerOk.release {n : Line} {o : Order} {q : Placement} {b : Bool} (hn : s.ring n = .ringing o q b) :
    (((((s.onLine n (LineState.immediateFeed s.params.relay)).setRing n .idle).leaveCommits n).leaveAccepted n).oweRelease n).SchedulerOk := by
  refine h.update (n := n) rfl (fun m hm => ?_) (fun _ => by simp) (h.acceptedNodup.erase n) (h.commitsNodup.erase n) (fun m hm => ?_) ?_ (fun m hm => ?_) ?_
    (fun _ _ => Iff.rfl) ?_
  · simp [State.ring_setRing, State.ring_onLine, hm]
  · simp [List.mem_erase_of_ne hm]
  · simp [h.acceptedNodup.not_mem_erase, RingRecord.isIdle]
  · simp [List.mem_erase_of_ne hm]
  · simp [h.commitsNodup.not_mem_erase, RingRecord.isRinging]
  · simp [h.not_held (n := n) (by rw [hn]; rfl), RingRecord.isClaiming]

/-- A claim is committed: RINGING, last on the commit order list, the token FREE (R52). -/
theorem State.SchedulerOk.commitRing {n : Line} {o : Order} {q : Placement} (hn : s.ring n = .claiming o q) (o' : Order) (b : Bool) :
    (let t := (s.setRing n (.ringing o' q b)).setToken .free
     t.setSched { t.sched with commits := t.sched.commits ++ [n] }).SchedulerOk := by
  have hnew : n ∉ s.sched.commits := h.not_committed (by rw [hn]; rfl)
  refine h.update (n := n) rfl (fun m hm => by simp [State.ring_setRing, hm]) (fun hp => ?_) h.acceptedNodup ?_ (fun _ _ => Iff.rfl) ?_ (fun m hm => ?_) ?_
    (fun m hm => ?_) ?_
  · rw [h.idleBefore hp n] at hn; cases hn
  · exact List.nodup_append.2 ⟨h.commitsNodup, List.nodup_singleton n, fun a ha b hb hab => by
      cases List.mem_singleton.1 hb; subst hab; exact hnew ha⟩
  · simp [h.acceptedIff n, hn, RingRecord.isIdle]
  · simp [hm]
  · simp [RingRecord.isRinging]
  · simp [h.held_unique (by rw [hn]; rfl) hm]
  · simp [RingRecord.isClaiming]

/-- An order is accepted: PENDING, last on the acceptance order list (R43). -/
theorem State.SchedulerOk.acceptRing {n : Line} (hn : s.ring n = .idle) (hrunning : s.phase = .running) (k : Fin 8) (i : Nat) :
    (s.acceptRing n k i).SchedulerOk := by
  have hnew : n ∉ s.sched.accepted := fun hm => by have := (h.acceptedIff n).1 hm; rw [hn] at this; cases this
  refine State.SchedulerOk.placementAttempt (h.update (n := n) rfl (fun m hm => by simp [State.ring_setRing, hm]) (fun hp => absurd hrunning hp) ?_
    h.commitsNodup (fun m hm => ?_) ?_ (fun _ _ => Iff.rfl) ?_ (fun _ _ => Iff.rfl) ?_)
  · exact List.nodup_append.2 ⟨h.acceptedNodup, List.nodup_singleton n, fun a ha b hb hab => by
      cases List.mem_singleton.1 hb; subst hab; exact hnew ha⟩
  · simp [hm]
  · simp [RingRecord.isIdle]
  · simp [h.commitsIff n, hn, RingRecord.isRinging]
  · simp [h.not_held (n := n) (by rw [hn]; rfl), RingRecord.isClaiming]

end Agreement

end Sys2Proof.Machine
end

section
/-! SUPPORT. The overload check (R31 to R34): what the walk over the commit order list sheds, and that no slot is over allowance after it. -/

namespace Sys2Proof.Machine

open Sys2Proof.Claims

variable {s : State}

/-! ### Totals as sums over the lines -/

theorem State.ringingLines_nodup (s : State) : s.ringingLines.Nodup := (List.nodup_finRange 8).filter _

theorem State.mem_ringingLines {m : Line} : m ∈ s.ringingLines ↔ (s.ring m).isRinging = true := by
  simp [State.ringingLines, allLines]

/-- The total of a list of RINGING lines without repetition, as a sum over all lines. -/
theorem State.totalsOf_get {ls : List Line} (hls : ls.Nodup) (t : Slot) : (s.totalsOf ls)[t.val] = ∑ m : Line, if m ∈ ls then s.load m t else 0 := by
  have hsum : (ls.map fun n => s.load n t).sum = ∑ m ∈ ls.toFinset, s.load m t := by
    rw [List.sum_toFinset _ hls]
  simp only [State.totalsOf, Vector.getElem_ofFn, Fin.eta]
  rw [hsum, ← Finset.sum_filter]
  congr 1
  ext m; simp

theorem State.ownTotals_get (t : Slot) : s.ownTotals[t.val] = ∑ m : Line, if (s.ring m).isRinging = true then s.load m t else 0 := by
  rw [State.ownTotals, State.totalsOf_get s.ringingLines_nodup]
  simp only [State.mem_ringingLines]

/-- The RINGING lines that are not among those gone. -/
def State.ringingBut (s : State) (gone : List Line) : List Line := s.ringingLines.filter fun m => m ∉ gone

theorem State.ringingBut_nil : s.ringingBut [] = s.ringingLines := by simp [State.ringingBut]

theorem State.ringingBut_erase (gone : List Line) (n : Line) : (s.ringingBut gone).erase n = s.ringingBut (gone ++ [n]) := by
  unfold State.ringingBut
  rw [(s.ringingLines_nodup.filter _).erase_eq_filter, List.filter_filter]
  congr 1; funext m
  by_cases hm : m = n <;> simp [hm]

/-- The model's test of a slot is the claim's. -/
theorem State.stillOver_iff (gone : List Line) (t : Slot) : s.stillOver s.overAllowance (s.ringingBut gone) t = true ↔ StillOver s gone t := by
  have htotal : (s.totalsOf (s.ringingBut gone))[t.val] = ∑ m : Line, if (s.ring m).isRinging = true ∧ m ∉ gone then s.load m t else 0 := by
    unfold State.ringingBut
    rw [State.totalsOf_get (s.ringingLines_nodup.filter _)]
    simp [State.mem_ringingLines]
  unfold State.stillOver StillOver
  rw [htotal]
  cases s.overAllowance t <;> simp

/-- The fewer lines gone, the more slots still over. -/
theorem stillOver_mono {gone more : List Line} (hsub : ∀ m, m ∈ gone → m ∈ more) {t : Slot} (h : StillOver s more t) : StillOver s gone t := by
  obtain ⟨allowed, hallowed, hlt⟩ := h
  refine ⟨allowed, hallowed, hlt.trans_le (Finset.sum_le_sum fun m _ => ?_)⟩
  split
  · rename_i hm
    rw [if_pos ⟨hm.1, fun hg => hm.2 (hsub m hg)⟩]
  · exact Nat.zero_le _

theorem stillOver_congr {gone gone' : List Line} (h : ∀ m, m ∈ gone ↔ m ∈ gone') (t : Slot) : StillOver s gone t ↔ StillOver s gone' t :=
  ⟨stillOver_mono fun m hm => (h m).2 hm, stillOver_mono fun m hm => (h m).1 hm⟩

/-! ### The walk -/

/-- The line rings in a slot still over. -/
def RingsStillOver (s : State) (gone : List Line) (n : Line) : Prop := ∃ k : Slot, StillOver s gone k ∧ (s.ring n).rings k = true

/-- The walk stops where no slot is over; it would shed nothing there either. -/
theorem State.shedWalk_of_relieved {gone : List Line} (h : ∀ k, ¬ StillOver s gone k) (ls : List Line) :
    s.shedWalk s.overAllowance (s.ringingBut gone) ls = [] := by
  cases ls with
  | nil => rfl
  | cons n ls =>
    unfold State.shedWalk
    rw [if_neg]
    simp only [List.any_eq_true, not_exists, not_and]
    exact fun k _ hk => h k ((s.stillOver_iff gone k).1 hk)

/-- One line of the walk: shed where it rings in a slot still over, passed over otherwise (R33). -/
theorem State.shedWalk_cons (gone : List Line) (n : Line) (ls : List Line) [Decidable (RingsStillOver s gone n)] :
    s.shedWalk s.overAllowance (s.ringingBut gone) (n :: ls) =
      if RingsStillOver s gone n then n :: s.shedWalk s.overAllowance (s.ringingBut (gone ++ [n])) ls
      else s.shedWalk s.overAllowance (s.ringingBut gone) ls := by
  have hrings : (allSlots.any fun t => s.stillOver s.overAllowance (s.ringingBut gone) t && (s.ring n).rings t) = true ↔ RingsStillOver s gone n := by
    simp only [List.any_eq_true, Bool.and_eq_true, s.stillOver_iff, mem_allSlots, true_and]; rfl
  by_cases hover : ∃ k, StillOver s gone k
  · rw [State.shedWalk, if_pos (by simp only [List.any_eq_true, s.stillOver_iff, mem_allSlots, true_and]; exact hover), State.ringingBut_erase]
    exact if_congr hrings rfl rfl
  · have hrelieved : ∀ k, ¬ StillOver s gone k := fun k hk => hover ⟨k, hk⟩
    rw [State.shedWalk_of_relieved hrelieved, State.shedWalk_of_relieved hrelieved, if_neg]
    rintro ⟨k, hk, -⟩; exact hover ⟨k, hk⟩

/-- A line is shed exactly when it rings in a slot still over once the lines shed before it are gone (R33). -/
theorem State.mem_shedWalk_iff (ls : List Line) (hls : ls.Nodup) (gone newer older : List Line) (n : Line) (hn : ls = newer ++ n :: older) :
    n ∈ s.shedWalk s.overAllowance (s.ringingBut gone) ls ↔
      RingsStillOver s (gone ++ (s.shedWalk s.overAllowance (s.ringingBut gone) ls).filter fun m => m ∈ newer) n := by
  classical
  induction ls generalizing gone newer with
  | nil => simp at hn
  | cons m ls ih =>
    have hsub : ∀ g x, x ∈ s.shedWalk s.overAllowance (s.ringingBut g) ls → x ∈ ls := fun g x hx => (s.shedWalk_sublist _ ls _).subset hx
    obtain ⟨hm, hls⟩ := List.nodup_cons.1 hls
    cases newer with
    | nil =>
      obtain ⟨rfl, rfl⟩ := List.cons.inj hn
      rw [State.shedWalk_cons]
      simp only [List.not_mem_nil, decide_false, List.filter_false, List.append_nil]
      split
      · exact iff_of_true List.mem_cons_self ‹_›
      · exact iff_of_false (fun hx => hm (hsub _ _ hx)) ‹_›
    | cons m' newer =>
      obtain ⟨rfl, hn'⟩ := List.cons.inj hn
      have hne : n ≠ m := fun he => hm (by rw [hn', ← he]; simp)
      rw [State.shedWalk_cons]
      split
      · simp only [List.mem_cons, hne, false_or]
        rw [ih hls (gone ++ [m]) newer hn']
        refine exists_congr fun k => and_congr_left' (stillOver_congr (fun x => ?_) k)
        by_cases hx : x = m <;> simp [hx]
      · rw [ih hls gone newer hn']
        refine exists_congr fun k => and_congr_left' (stillOver_congr (fun x => ?_) k)
        by_cases hx : x = m
        · subst hx; simp [show x ∉ s.shedWalk s.overAllowance (s.ringingBut gone) ls from fun h => hm (hsub _ _ h)]
        · simp [hx]

end Sys2Proof.Machine
end

section
/-! SUPPORT. The overload check (R31 to R34, R56): the own totals after the shedding, the view they leave, and O23. -/

namespace Sys2Proof.Machine

open Sys2Proof.Claims

variable {s t : State}

/-! ### Own totals by the masks that ring -/

/-- What a line of this mask adds to the own total of a slot, at this weight. -/
def maskLoad (weight : Nat) (mask : Option SlotSet) (k : Slot) : Nat :=
  match mask with
  | some x => if SlotSet.holds x k then weight else 0
  | none => 0

theorem State.ringingLoad (m : Line) (k : Slot) :
    (if (s.ring m).isRinging = true then s.load m k else 0) = maskLoad (s.params.weight m) (RingRecord.ringingMask (s.ring m)) k := by
  unfold State.load
  cases s.ring m <;> rfl

theorem State.ownTotals_masks (k : Slot) :
    s.ownTotals[k.val] = ∑ m : Line, maskLoad (s.params.weight m) (RingRecord.ringingMask (s.ring m)) k := by
  rw [State.ownTotals_get]
  exact Finset.sum_congr rfl fun m _ => State.ringingLoad m k

/-! ### The lines shed ring no more -/

theorem State.ring_handEvent (n m : Line) (e : Event) : (s.handEvent n e).ring m = s.ring m := State.core_handEvent s n e m

/-- A line shed rings no more; every other line rings as before. -/
theorem State.shedLine_mask (n m : Line) :
    RingRecord.ringingMask ((s.shedLine n).ring m) = if m = n then none else RingRecord.ringingMask (s.ring m) := by
  unfold State.shedLine
  split
  · rw [State.ring_handEvent]
    simp only [State.oweRelease_ring, State.leaveCommits_ring, State.ring_setRing, State.ring_onLine]
    split <;> simp [RingRecord.ringingMask, *]
  all_goals
    split
    · subst m; simp [RingRecord.ringingMask, *]
    · rfl

theorem State.shedLines_mask (ls : List Line) (m : Line) :
    RingRecord.ringingMask ((ls.foldl State.shedLine s).ring m) = if m ∈ ls then none else RingRecord.ringingMask (s.ring m) := by
  induction ls generalizing s with
  | nil => simp
  | cons n ls ih =>
    rw [List.foldl_cons, ih, State.shedLine_mask]
    by_cases hls : m ∈ ls <;> by_cases hn : m = n <;> simp [hls, hn]

theorem State.shedLines_keeps (ls : List Line) :
    (ls.foldl State.shedLine s).phase = s.phase ∧ (ls.foldl State.shedLine s).straps = s.straps ∧ (ls.foldl State.shedLine s).params = s.params ∧
      (ls.foldl State.shedLine s).table = s.table ∧ (ls.foldl State.shedLine s).bus = s.bus := by
  induction ls generalizing s with
  | nil => exact ⟨rfl, rfl, rfl, rfl, rfl⟩
  | cons n ls ih => simpa using ih (s := s.shedLine n)

/-- The own totals after the shedding: those of the lines not shed. -/
theorem State.shedLines_ownTotals (ls : List Line) (k : Slot) :
    (ls.foldl State.shedLine s).ownTotals[k.val] = ∑ m : Line, if (s.ring m).isRinging = true ∧ m ∉ ls then s.load m k else 0 := by
  rw [State.ownTotals_masks]
  refine Finset.sum_congr rfl fun m _ => ?_
  rw [State.shedLines_mask, (State.shedLines_keeps ls).2.2.1]
  by_cases hm : m ∈ ls
  · simp [hm, maskLoad]
  · simp [hm, State.ringingLoad]

/-! ### No slot is over afterwards -/

/-- Where totals can only have fallen, budget and allowance standing, and the own total of every slot that was over is within its allowance. -/
theorem State.overAllowance_relieved {k : Slot} (hbudget : t.table.budget = s.table.budget) (hallow : t.allowance k = s.allowance k)
    (hshelf : t.table.shelf[k.val] ≤ s.table.shelf[k.val]) (hown : t.table.own[k.val] ≤ s.table.own[k.val])
    (h : ∀ allowed, s.overAllowance k = some allowed → t.table.own[k.val] ≤ allowed) : t.overAllowance k = none := by
  unfold State.overAllowance at h ⊢
  rw [hbudget, hallow]
  rw [if_neg]
  rintro ⟨hover, hexceeds⟩
  have hwithin := h (s.allowance k) (by rw [if_pos ⟨by omega, by omega⟩])
  omega

/-- Once the walk has ended no slot is still over: each line that rings in such a slot would have been shed (R33). -/
theorem State.SchedulerOk.not_stillOver_linesToShed (h : s.SchedulerOk) (k : Slot) : ¬ StillOver s s.linesToShed k := by
  intro hover
  obtain ⟨allowed, -, hlt⟩ := id hover
  obtain ⟨m, -, hm⟩ := Finset.exists_ne_zero_of_sum_ne_zero (Nat.ne_zero_of_lt hlt)
  obtain ⟨⟨hrings, hkept⟩, hload⟩ := ite_ne_right_iff.1 hm
  have hmask : (s.ring m).rings k = true := by
    by_contra hnot; exact hload (if_neg hnot)
  obtain ⟨newer, older, hsplit⟩ := List.append_of_mem (List.mem_reverse.2 ((h.commitsIff m).2 hrings))
  refine hkept ?_
  unfold State.linesToShed
  rw [← State.ringingBut_nil, State.mem_shedWalk_iff _ (List.nodup_reverse.2 h.commitsNodup) [] newer older m hsplit, State.ringingBut_nil]
  exact ⟨k, stillOver_mono (fun x hx => (List.mem_filter.1 hx).1) hover, hmask⟩

theorem State.ViewOk.budget (h : s.ViewOk) : s.table.budget = s.table.effectiveBudget s.params.ring.budget := by
  conv_lhs => rw [h.derived]
  rfl

theorem State.ViewOk.shelf (h : s.ViewOk) (k : Slot) : s.table.shelf[k.val] = s.table.own[k.val] + s.table.sumOver allPeers k := by
  conv_lhs => rw [h.derived]
  simp [LoadTable.recompute, LoadTable.shelfTotals]

theorem State.overAllowance_congr (hstraps : t.straps = s.straps) (htable : t.table = s.table) (k : Slot) : t.overAllowance k = s.overAllowance k := by
  unfold State.overAllowance State.allowance State.address
  rw [hstraps, htable]

/-- The view after the shedding of these lines. -/
theorem State.recomputeOwn_shedLines (ls : List Line) :
    ((ls.foldl State.shedLine s).recomputeOwn).table =
      { s.table with own := (ls.foldl State.shedLine s).ownTotals }.recompute s.params.ring.budget := by
  obtain ⟨-, -, hparams, htable, -⟩ := State.shedLines_keeps (s := s) ls
  simp [State.recomputeOwn, hparams, htable]

/-- The shedding leaves every slot within its allowance (R31 to R34). -/
theorem State.SchedulerOk.shed_withinAllowance (h : s.SchedulerOk) (hview : s.ViewOk) (k : Slot) :
    ((s.linesToShed.foldl State.shedLine s).recomputeOwn).overAllowance k = none := by
  have hkept := State.shedLines_ownTotals (s := s) s.linesToShed k
  have hown := s.ownTotals_get k
  have hfell : (s.linesToShed.foldl State.shedLine s).ownTotals[k.val] ≤ s.table.own[k.val] := by
    rw [hkept, hview.own, hown]
    refine Finset.sum_le_sum fun m _ => ?_
    split
    · rename_i hm; rw [if_pos hm.1]
    · exact Nat.zero_le _
  have hshelf := hview.shelf k
  have htable := State.recomputeOwn_shedLines (s := s) s.linesToShed
  refine State.overAllowance_relieved (s := s) ?_ ?_ ?_ ?_ fun allowed hallowed => ?_
  · rw [htable, hview.budget]; rfl
  · unfold State.allowance State.address
    rw [htable, hview.budget]
    simp [(State.shedLines_keeps (s := s) s.linesToShed).2.1]; rfl
  · rw [htable, hshelf]
    simp only [LoadTable.recompute, LoadTable.shelfTotals, Vector.getElem_ofFn]
    exact Nat.add_le_add_right hfell _
  · rw [htable]; exact hfell
  · rw [htable]
    have hnot := h.not_stillOver_linesToShed k
    simp only [LoadTable.recompute]
    rw [hkept]
    exact Nat.le_of_not_lt fun hlt => hnot ⟨allowed, hallowed, hlt⟩

end Sys2Proof.Machine
end

section
/-! SUPPORT. The ring work of the station as a whole: lists, view and allowance sound together, what each shared operation of the Ring Scheduler and of the
load view leaves of them. -/

namespace Sys2Proof.Machine

variable {s t : State}

/-- Lists, load view and own allowance are sound together. -/
structure State.RingSound (s : State) : Prop where
  sched : s.SchedulerOk
  view : s.ViewOk
  within : s.WithinAllowance

/-- As sound, but for own totals that have still to follow the own lines (R25). -/
structure State.RingLags (s : State) : Prop where
  sched : s.SchedulerOk
  derived : s.table = s.table.recompute s.params.ring.budget
  within : s.WithinAllowance

/-- All that lists, view and allowance depend on stands. -/
structure State.RingSame (s t : State) : Prop where
  phase : t.phase = s.phase
  straps : t.straps = s.straps
  params : t.params = s.params
  table : t.table = s.table
  sched : t.sched = s.sched
  link : t.bus.link = s.bus.link
  ring : ∀ m, (t.ring m).code = (s.ring m).code ∧ RingRecord.ringingMask (t.ring m) = RingRecord.ringingMask (s.ring m)

/-- An operation that touches none of it. -/
theorem State.RingSame.still (phase : t.phase = s.phase := by simp) (straps : t.straps = s.straps := by simp)
    (params : t.params = s.params := by simp) (table : t.table = s.table := by simp) (sched : t.sched = s.sched := by simp)
    (link : t.bus.link = s.bus.link := by simp) (ring : ∀ m, (t.line m).ring = (s.line m).ring := by simp) : s.RingSame t :=
  ⟨phase, straps, params, table, sched, link, fun m => by
    rw [show t.ring m = s.ring m from ring m]; exact ⟨rfl, rfl⟩⟩

theorem State.RingSame.refl (s : State) : s.RingSame s := .still

theorem State.RingSame.trans {u : State} (h : s.RingSame t) (g : t.RingSame u) : s.RingSame u :=
  ⟨g.phase.trans h.phase, g.straps.trans h.straps, g.params.trans h.params, g.table.trans h.table, g.sched.trans h.sched, g.link.trans h.link,
    fun m => ⟨(g.ring m).1.trans (h.ring m).1, (g.ring m).2.trans (h.ring m).2⟩⟩

/-- One line changes, its ring state and the mask it rings by standing. -/
theorem State.RingSame.onLine {n : Line} {f : LineState → LineState} (hcode : (f (s.line n)).ring.code = (s.ring n).code)
    (hmask : RingRecord.ringingMask (f (s.line n)).ring = RingRecord.ringingMask (s.ring n)) : s.RingSame (s.onLine n f) := by
  refine ⟨rfl, rfl, rfl, rfl, rfl, rfl, fun m => ?_⟩
  rw [State.ring_onLine]
  split
  · subst m; exact ⟨hcode, hmask⟩
  · exact ⟨rfl, rfl⟩

theorem State.RingSame.onLine_ring {n : Line} {f : LineState → LineState} (hf : (f (s.line n)).ring = s.ring n) : s.RingSame (s.onLine n f) :=
  .onLine (by rw [hf]) (by rw [hf])

theorem State.RingSame.mapLines {f : LineState → LineState}
    (hf : ∀ l : LineState, (f l).ring.code = l.ring.code ∧ RingRecord.ringingMask (f l).ring = RingRecord.ringingMask l.ring) : s.RingSame (s.mapLines f) :=
  ⟨rfl, rfl, rfl, rfl, rfl, rfl, fun m => by
    simpa [State.ring] using hf (s.line m)⟩

theorem State.withinAllowance_congr (hlink : t.bus.link = s.bus.link) (hstraps : t.straps = s.straps) (htable : t.table = s.table)
    (h : s.WithinAllowance) : t.WithinAllowance := fun hj k => by
  rw [State.overAllowance_congr hstraps htable]; exact h (hlink ▸ hj) k

theorem State.RingSame.sound (g : s.RingSame t) (h : s.RingSound) : t.RingSound where
  sched := h.sched.same g.phase g.sched fun m => (g.ring m).1
  view := ⟨by rw [g.table, h.view.own, State.ownTotals_congr g.params fun m => (g.ring m).2], by rw [g.table, g.params]; exact h.view.derived⟩
  within := State.withinAllowance_congr g.link g.straps g.table h.within

/-- The part has not yet joined, or has left: no allowance to keep. -/
theorem State.withinAllowance_apart (h : s.bus.link ≠ .joined) : s.WithinAllowance := fun hj => absurd hj h

/-! ### View and allowance under placement -/

theorem State.ViewOk.ringingKept (h : s.ViewOk) (htable : t.table = s.table) (g : RingingKept s t) : t.ViewOk :=
  ⟨g.own h.own, by rw [htable, g.1]; exact h.derived⟩

theorem State.RingSound.placementAttempt (h : s.RingSound) : s.placementAttempt.RingSound :=
  ⟨h.sched.placementAttempt, h.view.ringingKept (by simp) (RingingKept.placementAttempt s),
    State.withinAllowance_congr (by simp) (by simp) (by simp) h.within⟩

theorem State.RingSound.revalidate (h : s.RingSound) : s.revalidate.RingSound :=
  ⟨h.sched.revalidate, h.view.ringingKept (by simp) (RingingKept.revalidate s),
    State.withinAllowance_congr (by simp) (by simp) (by simp) h.within⟩

/-- The token passes on, and the lists follow it. -/
theorem State.RingSound.setToken (h : s.RingSound) {k : Token} (hsched : (s.setToken k).SchedulerOk) : (s.setToken k).RingSound :=
  ⟨hsched, h.view.ringingKept rfl (RingingKept.setToken s k), h.within⟩

/-- A token not HELD becomes FREE, which brings a placement attempt (R54). -/
theorem State.RingSound.freeToken (h : s.RingSound) (hnot : ∀ n, s.sched.token ≠ .held n) : s.freeToken.RingSound :=
  (h.setToken (h.sched.releaseToken hnot)).placementAttempt

/-- A line's record changes with lists and token, no mask that rings being touched. -/
theorem State.RingSound.relist (h : s.RingSound) (hsched : t.SchedulerOk) (htable : t.table = s.table := by rfl) (hlink : t.bus.link = s.bus.link := by rfl)
    (hstraps : t.straps = s.straps := by rfl) (g : RingingKept s t) : t.RingSound :=
  ⟨hsched, h.view.ringingKept htable g, State.withinAllowance_congr hlink hstraps htable h.within⟩

/-! ### The overload check and view changes -/

/-- On a sound view nothing is to be recomputed. -/
theorem State.ViewOk.recomputeOwn (h : s.ViewOk) : s.recomputeOwn = s := by
  unfold State.recomputeOwn
  rw [← h.own]
  have hsame : { s.table with own := s.table.own } = s.table := rfl
  rw [hsame, ← h.derived]
  rfl

theorem State.recomputeOwn_view (s : State) : s.recomputeOwn.ViewOk := ⟨rfl, rfl⟩

/-- The overload check makes sound whatever was over allowance before (R31 to R34). -/
theorem State.SchedulerOk.overloadCheck_sound (h : s.SchedulerOk) (hview : s.ViewOk) : s.overloadCheck.RingSound := by
  suffices hsound : s.overloadCheck.ViewOk ∧ s.overloadCheck.WithinAllowance from ⟨h.overloadCheck, hsound.1, hsound.2⟩
  have hshed := h.shed_withinAllowance hview
  unfold State.overloadCheck
  split
  · split
    · rename_i hnone
      rw [hnone] at hshed
      rw [List.foldl_nil, hview.recomputeOwn] at hshed
      exact ⟨hview, fun _ k => hshed k⟩
    · rename_i n rest hsome
      rw [hsome] at hshed
      exact ⟨(State.recomputeOwn_view _).ringingKept (by simp) (RingingKept.placementAttempt _), fun _ k => by
        rw [State.overAllowance_congr (s := ((n :: rest).foldl State.shedLine s).recomputeOwn) (by simp) (by simp)]; exact hshed k⟩
  · exact ⟨hview, State.withinAllowance_apart ‹_›⟩

/-- A view change on agreeing lists and up-to-date own totals makes the view sound (R30). -/
theorem State.SchedulerOk.viewChange_sound (h : s.SchedulerOk) (hown : OwnTotalsHeld s) (b : Bool) : (s.viewChange b).RingSound := by
  have hderived : (s.setTable (s.table.recompute s.params.ring.budget)).ViewOk := ⟨hown, rfl⟩
  have hsched : (s.setTable (s.table.recompute s.params.ring.budget)).SchedulerOk := h.same rfl rfl fun _ => rfl
  have hplaced := hderived.ringingKept (by simp) (RingingKept.placementAttempt _)
  unfold State.viewChange
  dsimp only
  split
  · exact hsched.placementAttempt.revalidate.overloadCheck_sound (hplaced.ringingKept (by simp) (RingingKept.revalidate _))
  · exact hsched.placementAttempt.overloadCheck_sound hplaced

/-- The own entry follows the own lines (R25). -/
theorem State.RingLags.ownLinesChanged (h : s.RingLags) : s.ownLinesChanged.RingSound := by
  unfold State.ownLinesChanged
  split
  · rename_i hown
    exact ⟨h.sched, ⟨hown.symm, h.derived⟩, h.within⟩
  · have hsched : (s.setTable { s.table with own := s.ownTotals }).SchedulerOk := h.sched.same rfl rfl fun _ => rfl
    exact hsched.viewChange_sound (State.ownTotals_congr rfl fun _ => rfl) false

/-- A line's record changes with lists and token; the own totals have to follow. -/
theorem State.RingSound.lags (h : s.RingSound) (hsched : t.SchedulerOk) (hparams : t.params = s.params := by rfl) (htable : t.table = s.table := by rfl)
    (hlink : t.bus.link = s.bus.link := by rfl) (hstraps : t.straps = s.straps := by rfl) : t.RingLags :=
  ⟨hsched, by rw [htable, hparams]; exact h.view.derived, State.withinAllowance_congr hlink hstraps htable h.within⟩

/-! ### The end of ring work -/

theorem State.RingSound.handEvent (h : s.RingSound) (n : Line) (e : Event) : (s.handEvent n e).RingSound := State.RingSame.sound .still h

theorem State.RingSound.endRingWork (h : s.RingSound) (n : Line) : (s.endRingWork n).RingSound := by
  unfold State.endRingWork
  split
  · exact h
  · rename_i o hn
    exact h.relist (h.sched.withdraw hn) (g := (RingingKept.setRing s n .idle (by rw [hn]; rfl)).trans ⟨rfl, rfl, fun _ => rfl⟩)
  · rename_i o q hn
    refine h.relist (h.sched.endClaim hn) ?_ ?_ ?_ ?_
    · simp
    · simp
    · simp
    · have hended : RingingKept s ((s.setRing n .idle).leaveAccepted n) := (RingingKept.setRing s n .idle (by rw [hn]; rfl)).trans ⟨rfl, rfl, fun _ => rfl⟩
      unfold State.endClaim
      dsimp only
      split
      · exact hended.trans (RingingKept.setToken _ _)
      · exact hended.trans ((RingingKept.setToken _ _).trans (RingingKept.placementAttempt _))
  · exact State.RingLags.ownLinesChanged (h.lags (h.sched.release ‹_›))

theorem State.RingSound.takeTrip (h : s.RingSound) (n : Line) : (s.takeTrip n).RingSound := by
  unfold State.takeTrip
  split
  · exact h
  · exact (State.RingSame.onLine_ring rfl).sound ((h.endRingWork n).handEvent n _)

theorem State.RingSound.expire (h : s.RingSound) (n : Line) : (s.expire n).RingSound := by
  unfold State.expire
  split
  · exact h
  · exact (h.endRingWork n).handEvent n _

theorem State.RingSound.defer (h : s.RingSound) (n : Line) : (s.defer n).RingSound := by
  unfold State.defer
  split
  · rename_i o hn
    split
    · exact h
    · exact ((State.RingSame.onLine (by rw [hn]; rfl) (by rw [hn]; rfl)).sound h).handEvent n _
  all_goals exact h

theorem State.RingSound.examineOrder (h : s.RingSound) (n : Line) : (s.examineOrder n).RingSound := by
  unfold State.examineOrder
  split
  · exact h
  · exact ite_keeps (fun _ => h.expire n) fun _ => ite_keeps (fun _ => h.defer n) fun _ => h

/-! ### Claims, the link and the slot start -/

theorem State.RingSound.commit (h : s.RingSound) (n : Line) : (s.commit n).RingSound := by
  unfold State.commit
  split
  · exact ((State.RingLags.ownLinesChanged (h.lags (h.sched.commitRing ‹_› _ _))).placementAttempt).handEvent n _
  all_goals exact h

theorem State.RingSound.claimCompleted (h : s.RingSound) : s.claimCompleted.RingSound := by
  unfold State.claimCompleted
  split
  · exact h.commit _
  · rename_i n hspent
    exact State.RingSound.freeToken (State.RingSame.sound .still h) fun m hm => by
      rw [State.oweRelease_sched, hspent] at hm; cases hm
  · exact h

theorem State.RingSound.claimNotCarried (h : s.RingSound) : s.claimNotCarried.RingSound := by
  unfold State.claimNotCarried
  split
  · rename_i n hspent
    exact h.freeToken fun m hm => by rw [hspent] at hm; cases hm
  all_goals exact h

/-- The station joins: whatever the view holds, the check that follows leaves it within its allowance (R31, R63). -/
theorem State.RingSound.join (h : s.RingSound) : s.join.RingSound := by
  have hsched : (s.setLink .joined 2).SchedulerOk := h.sched.same rfl rfl fun _ => rfl
  have hview : (s.setLink .joined 2).ViewOk := h.view.ringingKept rfl ⟨rfl, rfl, fun _ => rfl⟩
  exact hsched.placementAttempt.overloadCheck_sound (hview.ringingKept (by simp) (RingingKept.placementAttempt _))

theorem State.RingSound.rejoin (h : s.RingSound) : s.rejoin.RingSound :=
  State.RingSound.join (State.RingSame.sound .still h)

/-- The station is ISLANDED: a claim goes back to PENDING (R63). -/
theorem State.RingSound.dropClaim (h : s.RingSound) : s.dropClaim.RingSound := by
  unfold State.dropClaim
  split
  · rename_i n hheld
    have hclaims := (h.sched.heldIff n).1 hheld
    split
    · rename_i o q hn
      exact h.relist (h.sched.unclaim hn)
        (g := (RingingKept.setRing s n (.pending o) (by rw [hn]; rfl)).trans (RingingKept.setToken _ _))
    all_goals simp [RingRecord.isClaiming, *] at hclaims
  all_goals exact h

/-- A change of the link to one that is not JOINED. -/
theorem State.RingSound.setBus_apart (h : s.RingSound) {b : Bus} (hb : b.link ≠ .joined) : (s.setBus b).RingSound :=
  ⟨h.sched.same rfl rfl fun _ => rfl, h.view.ringingKept rfl ⟨rfl, rfl, fun _ => rfl⟩, State.withinAllowance_apart hb⟩

theorem State.RingSound.island (h : s.RingSound) : s.island.RingSound := by
  unfold State.island
  split
  case h_3 => exact h
  case h_4 => exact h
  all_goals exact State.RingSound.dropClaim (h.setBus_apart (by simp))

/-- Ageing that removes no entry touches ages alone (R23). -/
theorem LoadTable.aged_entry {b : LoadTable} (h : b.removesSome = false) (a : PeerAddr) :
    (b.peers[a.val] = none ∧ b.aged.peers[a.val] = none) ∨
      ∃ e : Entry, b.peers[a.val] = some e ∧ b.aged.peers[a.val] = some { e with age := e.age + 1 } := by
  have hyoung := List.any_eq_false.1 h a (List.mem_finRange a)
  cases he : b.peers[a.val] with
  | none => exact .inl ⟨rfl, by simp [LoadTable.aged, he]⟩
  | some e =>
    have hage : ¬ 3 ≤ e.age := by simpa [he] using hyoung
    exact .inr ⟨e, rfl, by simp [LoadTable.aged, he, Entry.older, hage]⟩

theorem LoadTable.aged_recompute {b : LoadTable} (h : b.removesSome = false) {own : Nat} (hb : b = b.recompute own) : b.aged = b.aged.recompute own := by
  have hsum : ∀ as k, b.aged.sumOver as k = b.sumOver as k := fun as k => by
    unfold LoadTable.sumOver
    congr 2; funext a
    rcases LoadTable.aged_entry h a with ⟨h1, h2⟩ | ⟨e, h1, h2⟩ <;> rw [h1, h2] <;> rfl
  have hbudgets : b.aged.statedBudgets = b.statedBudgets := by
    unfold LoadTable.statedBudgets
    congr 1; funext a
    rcases LoadTable.aged_entry h a with ⟨h1, h2⟩ | ⟨e, h1, h2⟩ <;> rw [h1, h2] <;> rfl
  have hshelf : b.shelf = b.aged.shelfTotals := by
    conv_lhs => rw [hb]
    show b.shelfTotals = _
    unfold LoadTable.shelfTotals
    simp only [hsum]
    rfl
  have hbudget : b.budget = b.aged.effectiveBudget own := by
    conv_lhs => rw [hb]
    unfold LoadTable.effectiveBudget
    rw [hbudgets]; rfl
  have hmismatch : b.mismatch = b.aged.budgetMismatch own := by
    conv_lhs => rw [hb]
    unfold LoadTable.budgetMismatch
    rw [hbudgets]; rfl
  unfold LoadTable.recompute
  rw [← hshelf, ← hbudget, ← hmismatch]
  rfl

theorem State.RingSound.ageView (h : s.RingSound) : s.ageView.RingSound := by
  have hsched : (s.setTable s.table.aged).SchedulerOk := h.sched.same rfl rfl fun _ => rfl
  have hown : OwnTotalsHeld (s.setTable s.table.aged) := h.view.own
  unfold State.ageView
  dsimp only
  split
  · exact hsched.viewChange_sound hown false
  · exact hsched.overloadCheck_sound ⟨hown, LoadTable.aged_recompute (Bool.eq_false_iff.2 ‹_›) h.view.derived⟩

theorem State.RingSound.countPeriod (h : s.RingSound) : s.countPeriod.RingSound := by
  unfold State.countPeriod
  split
  · exact ite_keeps (fun _ => h.join) fun _ => h.setBus_apart (by simp)
  · exact ite_keeps (fun _ => h.rejoin) fun _ => h.setBus_apart (by simp)
  all_goals exact h

end Sys2Proof.Machine
end

section
/-! SUPPORT. The overload check in full: O23. -/

namespace Sys2Proof.Machine

open Sys2Proof.Claims

variable {s : State}

theorem State.linesToShed_of_relieved (h : ∀ k, s.overAllowance k = none) : s.linesToShed = [] := by
  unfold State.linesToShed
  rw [← State.ringingBut_nil]
  refine State.shedWalk_of_relieved (fun k hover => ?_) _
  obtain ⟨allowed, hallowed, -⟩ := hover
  rw [h k] at hallowed; cases hallowed

/-- A shed line as R56 has it. -/
theorem State.shedLine_of_ringing {n : Line} {o : Order} {p : Placement} {b : Bool} (hn : s.ring n = .ringing o p b) :
    Handed { s.setLine n { (s.line n).immediateFeed s.params.relay with ring := .pending o } with
      sched := { s.sched with commits := s.sched.commits.erase n }
      asm := { s.asm with releaseMask := s.asm.releaseMask ||| LineSet.single n } } n .ringShed (s.shedLine n) := by
  have hshed : s.shedLine n = (((s.onLine n fun l => { l.immediateFeed s.params.relay with ring := .pending o }).leaveCommits n).oweRelease n).handEvent n
      .ringShed := by
    rw [State.shedLine, hn, ← State.setRing_onLine]
  rw [hshed]
  exact State.handEvent_handed _ n .ringShed

theorem State.shedLines_shedInTurn {ls : List Line} (hls : ls.Nodup) (hrings : ∀ n ∈ ls, (s.ring n).isRinging = true) :
    ShedInTurn ls s (ls.foldl State.shedLine s) := by
  induction ls generalizing s with
  | nil => exact rfl
  | cons n ls ih =>
    obtain ⟨hn, hls⟩ := List.nodup_cons.1 hls
    cases hring : s.ring n with
    | ringing o p b =>
      refine ⟨o, p, b, _, _, hring, LineState.immediateFeed_feedRequestedNow _ _, State.shedLine_of_ringing hring, ih hls fun m hm => ?_⟩
      have hne : m ≠ n := fun he => hn (he ▸ hm)
      have hm' := hrings m (List.mem_cons_of_mem n hm)
      rw [RingRecord.isRinging_iff_mask] at hm' ⊢
      rwa [State.shedLine_mask, if_neg hne]
    | _ => simp [hring, RingRecord.isRinging] at hrings

/-- Settles O23: the walk sheds a line exactly when it rings in a slot still over, so that no such slot is left when it ends. -/
theorem overloadCheckRelievesEverySlot : Obligations.OverloadCheckRelievesEverySlot := by
  intro s hjoined
  refine ⟨fun hsched hview => ?_, fun hrelieved => ?_, fun hsched => ⟨s.linesToShed, s.shedWalk_sublist _ _ _, ?_, fun hnone => ?_, fun hsome => ?_⟩⟩
  · exact (hsched.overloadCheck_sound hview).within (by simp [hjoined])
  · rw [State.overloadCheck, if_pos hjoined, State.linesToShed_of_relieved hrelieved]
  · intro newer older n hsplit
    unfold State.linesToShed
    rw [← State.ringingBut_nil]
    exact State.mem_shedWalk_iff _ (List.nodup_reverse.2 hsched.commitsNodup) [] newer older n hsplit
  · rw [State.overloadCheck, if_pos hjoined, hnone]
  · have hrings : ∀ n ∈ s.linesToShed, (s.ring n).isRinging = true := fun n hn => (hsched.commitsIff n).1 (s.mem_commits_of_linesToShed hn)
    have hnodup : s.linesToShed.Nodup := (s.shedWalk_sublist _ _ _).nodup (List.nodup_reverse.2 hsched.commitsNodup)
    refine ⟨_, State.shedLines_shedInTurn hnodup hrings, ?_⟩
    rw [State.overloadCheck, if_pos hjoined]
    cases hls : s.linesToShed with
    | nil => exact absurd hls hsome
    | cons n rest => rfl

end Sys2Proof.Machine
end

section
/-! SUPPORT. Ring work stays sound through every command and every crystal period: O57. -/

namespace Sys2Proof.Machine

variable {s t : State}

/-! ### Reset and the beginning of work -/

theorem LoadTable.reset_derived (budget : Nat) :
    ({ LoadTable.reset with budget := budget } : LoadTable) = ({ LoadTable.reset with budget := budget } : LoadTable).recompute budget := by
  have hshelf : ({ LoadTable.reset with budget := budget } : LoadTable).shelfTotals = Totals.zero := by
    ext k hk
    simp [LoadTable.shelfTotals, LoadTable.sumOver, entryTotal, LoadTable.reset, Totals.zero]
  have hstated : ({ LoadTable.reset with budget := budget } : LoadTable).statedBudgets = [] := by
    simp [LoadTable.statedBudgets, LoadTable.reset]
  unfold LoadTable.recompute LoadTable.effectiveBudget LoadTable.budgetMismatch
  rw [hshelf, hstated]
  rfl

/-- No line works, and the view is as a part begins with it (R35). -/
theorem State.SchedulerOk.fresh (h : s.SchedulerOk) (hidle : ∀ m, s.ring m = .idle)
    (htable : s.table = { LoadTable.reset with budget := s.params.ring.budget }) : s.RingSound := by
  refine ⟨h, ⟨?_, by rw [htable]; exact LoadTable.reset_derived _⟩, fun _ k => ?_⟩
  · have hnone : s.ringingLines = [] := List.filter_eq_nil_iff.2 fun m _ => by rw [hidle m]; simp [RingRecord.isRinging]
    rw [htable, State.ownTotals, hnone]
    rfl
  · have hzero : s.table.shelf[k.val] = 0 := by rw [htable]; simp [LoadTable.reset, Totals.zero]
    unfold State.overAllowance
    rw [if_neg]
    omega

theorem State.atReset_ring (f : Phase) (k : Straps) (p : Pins) (o : OrderChoice) (q : List Instr) (m : Line) : (State.atReset f k p o q).ring m = .idle := by
  show ((State.atReset f k p o q).line m).ring = .idle
  rw [State.atReset_line]; rfl

theorem State.atReset_schedulerOk (f : Phase) (k : Straps) (p : Pins) (o : OrderChoice) (q : List Instr) : (State.atReset f k p o q).SchedulerOk := by
  have hsched : (State.atReset f k p o q).sched = .reset := rfl
  constructor <;>
    simp [hsched, State.atReset_ring, Scheduler.reset, RingRecord.isIdle, RingRecord.isRinging, RingRecord.isClaiming]

theorem State.atReset_ringSound (f : Phase) (k : Straps) (p : Pins) (o : OrderChoice) (q : List Instr) : (State.atReset f k p o q).RingSound :=
  (State.atReset_schedulerOk f k p o q).fresh (State.atReset_ring f k p o q) rfl

/-- Loading has ended: no line works yet, and the view begins afresh with the configured budget (R35, R172). -/
theorem State.RingSound.configured (h : s.RingSound) (hloading : s.phase = .loading) (a : MemoryAnswer) : (s.configure a).beginWork.RingSound := by
  have hidle : ∀ m, (s.configure a).beginWork.ring m = .idle := fun m => by
    have hbefore : (s.line m).ring = .idle := h.sched.idleBefore (by rw [hloading]; simp) m
    show ((s.configure a).beginWork.line m).ring = .idle
    rw [State.beginWork_line]
    split <;> simpa [LineState.startDeadTime]
  have hsched : (s.configure a).beginWork.SchedulerOk := by
    obtain ⟨h1, h2, h3, h4, h5, h6⟩ := h.sched
    have hstands : (s.configure a).beginWork.sched = s.sched := by rw [State.beginWork_frame]; simp
    have hbefore : ∀ m, s.ring m = .idle := h6 (by rw [hloading]; simp)
    refine ⟨by rwa [hstands], by rwa [hstands], fun m => ?_, fun m => ?_, fun m => ?_, fun _ => hidle⟩
    · rw [hstands, hidle m, h3 m, hbefore m]
    · rw [hstands, hidle m, h4 m, hbefore m]
    · rw [hstands, hidle m, h5 m, hbefore m]
  exact hsched.fresh hidle (by simp)

/-! ### Slot starts -/

theorem State.RingSound.foldl {α : Type} {f : State → α → State} (hf : ∀ (t : State) (a : α), t.RingSound → (f t a).RingSound) (ls : List α)
    (h : s.RingSound) : (ls.foldl f s).RingSound := by
  induction ls generalizing s with
  | nil => exact h
  | cons a ls ih => exact ih (hf s a h)

theorem State.RingSound.countCycle (h : s.RingSound) : s.countCycle.RingSound := by
  unfold State.countCycle
  refine State.RingSound.placementAttempt (State.RingSound.foldl (fun t n ht => ht.examineOrder n) _ (State.RingSame.sound (.mapLines fun l => ?_) h))
  cases l.ring <;> exact ⟨rfl, rfl⟩

theorem LineState.classBoundary_ring (p : RelayParams) (z : Bool) (j k : Slot) (l : LineState) :
    (l.classBoundary p z j k).ring.code = l.ring.code ∧
      RingRecord.ringingMask (l.classBoundary p z j k).ring = RingRecord.ringingMask l.ring := by
  unfold LineState.classBoundary
  split
  · dsimp only
    split
    · simp [*, RingRecord.code, RingRecord.ringingMask]
    · split <;> simp [*, RingRecord.code, RingRecord.ringingMask]
  all_goals exact ⟨rfl, rfl⟩

theorem State.RingSound.slotTask (h : s.RingSound) (j k : Slot) (x : SlotTask) : (s.slotTask j k x).RingSound := by
  cases x with
  | direct => exact State.RingSame.sound (.mapLines (LineState.classBoundary_ring _ _ j k)) h
  | count => exact h.countCycle
  | age => exact h.ageView
  | refresh => exact State.RingSame.sound (t := s.refreshFallsDue k) .still h
  | link => exact h.countPeriod

theorem State.RingSound.boundary (h : s.RingSound) (k : Slot) : (s.boundary k).RingSound := by
  unfold State.boundary State.slotStart
  exact State.RingSound.foldl (fun t x ht => ht.slotTask _ _ x) _ (State.RingSame.sound .still h)

/-! ### Seizures, windows and trips -/

theorem State.RingSound.handTrip (h : s.RingSound) (n : Line) : (s.handTrip n).RingSound := by
  unfold State.handTrip
  exact State.RingSound.takeTrip (State.RingSame.sound .still h) n

theorem State.RingSound.trySeize (h : s.RingSound) (n : Line) : (s.trySeize n).RingSound := by
  unfold State.trySeize
  split
  · exact State.RingSame.sound .still h
  · unfold State.confirmSeizure
    exact ite_keeps (fun _ => State.RingSame.sound .still h) fun _ => State.RingSound.takeTrip (State.RingSame.sound .still h) n

/-- The supervisor's pass ends ring work by a confirmed seizure alone. -/
theorem State.RingSound.superviseWindow (h : s.RingSound) (n : Line) (w : Nat) (raw : Option Loop) : (s.superviseWindow n w raw).RingSound := by
  have hentered : (s.onHook n fun h => { h.advance w with raw := h.raw.enter raw }).RingSound := State.RingSame.sound .still h
  unfold State.superviseWindow
  refine ite_keeps (fun _ => h) fun _ => ?_
  dsimp only
  split
  · split
    · exact State.RingSame.sound .still hentered
    · exact hentered
  · rename_i hseizing
    split
    · exact State.RingSame.sound .still hentered
    · rename_i hclosed
      refine ite_keeps (fun _ => ?_) fun _ => hentered
      have htry := hentered.trySeize n
      unfold State.trySeize at htry
      rwa [hclosed] at htry
  · exact State.RingSame.sound .still hentered
  · exact State.RingSame.sound .still hentered

theorem State.RingSound.windowEndOf (h : s.RingSound) (w : Nat) (n : Line) : (s.windowEndOf w n).RingSound := by
  have hsensed : (s.setLine n ((s.line n).senseWindow s.params w)).RingSound :=
    State.RingSame.sound (.onLine_ring (f := fun l => l.senseWindow s.params w) rfl) h
  have hpassed := hsensed.superviseWindow n w (rawLoop s.params.threshold (s.line n).relay.windowClass (readingOf (s.line n).sense.counter w))
  have turned : ∀ {t : State} (b : Bool), t.RingSound → (t.turnLeak n b).RingSound := fun b ht => State.RingSame.sound .still ht
  unfold State.windowEndOf
  exact ite_keeps (fun _ => turned _ (ite_keeps (fun _ => hpassed.handTrip n) fun _ => hpassed))
    fun _ => ite_keeps (fun _ => hpassed.handTrip n) fun _ => hpassed

/-! ### Attempts, received notices and orders -/

theorem State.RingSound.prepareNotice (h : s.RingSound) : s.prepareNotice.RingSound := by
  have htested : (if s.asm.releaseMask ≠ 0#8 then s else s.revalidate).RingSound := ite_keeps (fun _ => h) fun _ => h.revalidate
  unfold State.prepareNotice
  dsimp only
  split
  · exact ite_keeps (fun _ => State.RingSame.sound (.still (link := by rfl)) htested) fun _ => htested
  · exact htested

theorem State.RingSound.attemptFailed (h : s.RingSound) (x : Sent) : (s.attemptFailed x).RingSound := by
  have hended : (s.setBus { s.bus with attempt := none }).RingSound := State.RingSame.sound .still h
  unfold State.attemptFailed
  have digits : ∀ {t : State}, t.RingSound → (t.takeAllDigits false).RingSound := fun ht => State.RingSame.sound .still ht
  cases x with
  | refresh => exact digits (State.RingSame.sound .still hended)
  | claim => exact digits hended.claimNotCarried
  | release => exact digits hended
  | report => exact digits hended

theorem State.RingSound.loseAttempt (h : s.RingSound) : s.loseAttempt.RingSound := by
  unfold State.loseAttempt
  split
  · exact h.attemptFailed _
  · exact h

theorem State.RingSound.discard (h : s.RingSound) : s.discard.RingSound := State.RingSame.sound (.still (link := by rfl)) h

theorem State.RingSound.clashAttempt (h : s.RingSound) : s.clashAttempt.RingSound := by
  unfold State.clashAttempt
  split
  · rename_i a _
    have hdiscarded : ((s.attemptFailed a.sent).discard).RingSound := (h.attemptFailed a.sent).discard
    unfold State.countClash
    exact ite_keeps (fun _ => hdiscarded.island) fun _ => State.RingSame.sound .still hdiscarded
  · exact h

theorem State.RingSound.completeAttempt (h : s.RingSound) (a : Attempt) : (s.completeAttempt a).RingSound := by
  have digits : ∀ {t : State}, t.RingSound → (t.takeAllDigits false).RingSound := fun ht => State.RingSame.sound .still ht
  have hended : (s.noticeEnds.setBus { s.noticeEnds.bus with attempt := none, clashes := 0, ownLast := true }).RingSound :=
    State.RingSame.sound (.still (link := by rfl)) h
  unfold State.completeAttempt
  dsimp only
  refine digits ?_
  generalize s.noticeEnds.setBus { s.noticeEnds.bus with attempt := none, clashes := 0, ownLast := true } = t at hended
  cases a.sent with
  | release carried => exact State.RingSound.placementAttempt (State.RingSame.sound .still hended)
  | claim n => exact hended.claimCompleted
  | refresh => exact State.RingSame.sound (t := t.refreshCompleted) (.still (link := by rfl)) hended
  | report => exact State.RingSame.sound (t := t.popReport) .still hended

theorem State.RingSound.applyEntry (h : s.RingSound) (a : PeerAddr) (x : Totals) (b : Option Nat) : (s.applyEntry a x b).RingSound := by
  unfold State.applyEntry
  dsimp only
  refine State.SchedulerOk.viewChange_sound (h.sched.same ?_ ?_ ?_) ?_ true
  · rfl
  · rfl
  · exact fun _ => rfl
  · exact h.view.own

theorem State.RingSound.peerNotice (h : s.RingSound) (w : Notice) (i j : Nat) (b : Option Nat) : (s.peerNotice w i j b).RingSound := by
  unfold State.peerNotice
  dsimp only
  split
  · exact h
  · exact ite_keeps (fun _ => h.applyEntry _ _ _) fun _ => State.RingSame.sound (.still (link := by rfl)) h

end Sys2Proof.Machine
end

section
/-! SUPPORT. Ring work stays sound through every command and every crystal period: O57. -/

namespace Sys2Proof.Machine

variable {s t : State}

/-! ### The link through the receiver's operations -/

@[simp] theorem State.noticeEnds_link (s : State) : s.noticeEnds.bus.link = s.bus.link := rfl
@[simp] theorem State.takeByte_link (s : State) (b : Byte) : (s.takeByte b).bus.link = s.bus.link := rfl
@[simp] theorem State.byteSent_link (s : State) (a : Attempt) (b : Byte) : (s.byteSent a b).bus.link = s.bus.link := rfl
@[simp] theorem State.framingError_link (s : State) : s.framingError.bus.link = s.bus.link := rfl
@[simp] theorem State.beginAttempt_link (s : State) (w : Outgoing) : (s.beginAttempt w).bus.link = s.bus.link := rfl

@[simp] theorem State.orderEnds_link (s : State) : s.orderEnds.bus.link = s.bus.link := by
  unfold State.orderEnds
  split <;> rfl

/-! ### Orders -/

theorem State.RingSound.refuse (h : s.RingSound) (k : OrderKind) (w : Notice) (r : Reason) : (s.refuse k w r).RingSound :=
  State.RingSame.sound (t := s.refuse k w r) .still h

theorem State.RingSound.acceptRing (h : s.RingSound) {n : Line} (hn : s.ring n = .idle) (hrunning : s.phase = .running) (k : Fin 8) (limit : Nat) :
    (s.acceptRing n k limit).RingSound := by
  refine h.relist (h.sched.acceptRing hn hrunning k limit) (by simp [State.acceptRing]) (by simp [State.acceptRing]) (by simp [State.acceptRing]) ?_
  unfold State.acceptRing
  exact (RingingKept.trans (t := _) (RingingKept.setRing s n _ (by rw [hn]; rfl)) ⟨rfl, rfl, fun _ => rfl⟩).trans (RingingKept.placementAttempt _)

theorem State.RingSound.takeRing (h : s.RingSound) (hrunning : s.phase = .running) (w : Notice) (n : Line) : (State.takeRing w s n).RingSound := by
  unfold State.takeRing
  dsimp only
  refine ite_keeps (fun _ => h.refuse _ _ _) fun _ => ite_keeps (fun _ => h.refuse _ _ _) fun _ => ite_keeps (fun _ => h.refuse _ _ _) fun _ => ?_
  split
  · exact ite_keeps (fun _ => h) fun _ => h.refuse _ _ _
  · rename_i hnone
    refine h.acceptRing ?_ hrunning _ _
    show (s.line n).ring = .idle
    cases hr : (s.line n).ring <;> simp [hr, RingRecord.order?] at hnone ⊢

theorem State.RingSound.takeTone (h : s.RingSound) (w : Notice) (n : Line) : (State.takeTone w s n).RingSound :=
  State.RingSame.sound (t := State.takeTone w s n) .still h

theorem LineState.modeFree_ring (l : LineState) : l.modeFree.ring = l.ring := by
  unfold LineState.modeFree
  split <;> rfl

theorem LineState.modeInCall_ring (l : LineState) : l.modeInCall.ring = l.ring := by
  unfold LineState.modeInCall
  split <;> rfl

theorem State.RingSound.takeMode (h : s.RingSound) (w : Notice) (n : Line) : (State.takeMode w s n).RingSound := by
  unfold State.takeMode
  split
  · exact State.RingSame.sound (.onLine_ring (LineState.modeFree_ring _)) h
  · exact ite_keeps (fun _ => State.RingSame.sound (.onLine_ring (LineState.modeInCall_ring _)) h) fun _ => h.refuse _ _ _
  · exact ite_keeps (fun _ => h) fun _ => State.RingSame.sound (.onLine_ring rfl) (h.endRingWork n)

theorem State.RingSound.ordered (h : s.RingSound) {act : State → State} (hact : ∀ t : State, t.phase = .running → t.RingSound → (act t).RingSound) :
    (s.ordered act).RingSound := by
  refine ite_keeps (c := s.hears = true) (fun hc => hact _ ?_ (State.RingSame.sound .still h)) fun _ => h
  simp only [State.hears, State.running, Bool.and_eq_true, beq_iff_eq] at hc
  simp [hc.1.1]

theorem State.RingSound.takeOrder (h : s.RingSound) (k : OrderKind) (w : Notice) {take : State → Line → State}
    (ht : ∀ n, (take s n).RingSound) : (State.takeOrder k w take s).RingSound := by
  unfold State.takeOrder
  refine ite_keeps (fun _ => ?_) fun _ => h
  split
  · exact ht _
  · exact h.refuse _ _ _

theorem State.RingSound.received (h : s.RingSound) {act : State → State} (hact : ∀ t : State, t.RingSound → (act t).RingSound) :
    (s.received act).RingSound :=
  ite_keeps (fun _ => hact _ (State.RingSame.sound .still h)) fun _ => h

theorem State.RingSound.readBack (h : s.RingSound) (a : Attempt) (b : Byte) : (s.readBack a b).RingSound := by
  unfold State.readBack
  split
  · exact h.clashAttempt
  · exact ite_keeps (fun _ => State.RingSame.sound .still h) fun _ =>
      ite_keeps (fun _ => State.RingSame.sound .still h.loseAttempt) fun _ => h.clashAttempt

theorem State.RingSound.edgeInNotice (h : s.RingSound) (d : Bool) (b : Byte) : (s.edgeInNotice d b).RingSound := by
  unfold State.edgeInNotice
  split
  · exact ite_keeps (fun _ => h.readBack _ _) fun _ => h.clashAttempt
  · exact ite_keeps (fun _ => State.RingSame.sound .still h) fun _ =>
      ite_keeps (fun _ => State.RingSame.sound .still h) fun _ => State.RingSame.sound .still h

/-! ### The commands -/

/-- Every command keeps ring work sound. -/
theorem State.RingSound.run (c : Instr) (h : s.RingSound) : (s.run c).RingSound := by
  have still {c : Prop} [Decidable c] {t : State} (ht : s.RingSame t) : (if c then t else s).RingSound :=
    ite_keeps (fun _ => ht.sound h) fun _ => h
  cases c with
  | reset a l8 cfgp => exact State.atReset_ringSound _ _ _ _ _
  | resetAsserted => exact State.atReset_ringSound _ _ _ _ _
  | endOfLoading a => exact ite_keeps (fun hloading => h.configured hloading a) fun _ => h
  | slotEnd => exact ite_keeps (fun _ => h.boundary _) fun _ => h
  | cycleMarker =>
    refine ite_keeps (c := s.active = true) (fun _ => ?_) fun _ => h
    have htaken : (s.setCadence s.cadence.markerTaken).RingSound := State.RingSame.sound .still h
    split
    · exact htaken.boundary 0
    · exact State.RingSame.sound .still htaken
    · exact htaken.boundary 0
  | markerWindowOpens => exact still .still
  | markerWindowCloses => exact ite_keeps (fun _ => ite_keeps (fun _ => State.RingSame.sound .still h) fun _ => State.RingSame.sound .still h) fun _ => h
  | markerLost => exact still .still
  | zeroCrossMark => exact ite_keeps (fun _ => State.RingSame.sound .still h) fun _ => h
  | zcLost => exact ite_keeps (fun _ => State.RingSame.sound .still h) fun _ => h
  | deadTimeToRing n => exact still (.onLine_ring (by simp [LineState.deadTimeReached, State.ring]))
  | deadTimeToFeed n => exact still (.onLine_ring (by simp [LineState.deadTimeReached, State.ring]))
  | zcWaitTimeout n => exact still (.onLine_ring (by simp [State.ring]))
  | ringExpiry n =>
    refine ite_keeps (fun _ => State.RingSound.expire (State.RingSame.sound (.onLine ?_ ?_) h) n) fun _ => h <;>
      cases s.ring n <;> rfl
  | ringDeferral n =>
    show State.RingSound (match s.ring n with | .pending o => _ | .idle | .claiming _ _ | .ringing _ _ _ => s)
    split
    · rename_i o ho
      exact ite_keeps (fun _ => State.RingSound.defer (State.RingSame.sound (.onLine (by rw [ho]; rfl) (by rw [ho]; rfl)) h) n) fun _ => h
    all_goals exact h
  | entryAgedOut a =>
    refine ite_keeps (fun _ => State.SchedulerOk.viewChange_sound ?_ ?_ false) fun _ => h
    · exact h.sched.same rfl rfl fun _ => rfl
    · exact h.view.own
  | listenPeriodEnd => exact ite_keeps (fun _ => h.join) fun _ => h
  | islandedPeriodEnd => exact ite_keeps (fun _ => h.rejoin) fun _ => h
  | windowEnd => exact ite_keeps (fun _ => State.RingSound.foldl (fun _ n ht => ht.windowEndOf _ n) _ (State.RingSame.sound .still h)) fun _ => h
  | ringTrip n => exact ite_keeps (fun _ => h.handTrip n) fun _ => h
  | leakOn n => exact still .still
  | leakOff n => exact still .still
  | seizeConfirm n => exact ite_keeps (fun _ => h.trySeize n) fun _ => h
  | glitchLimitReached n => exact still .still
  | clear n => exact still .still
  | interdigitMake n => exact still .still
  | permanentLoop n => exact still .still
  | stutterAdvance n => exact still .still
  | attemptStart =>
    refine ite_keeps (c := s.mayAttempt = true) (fun _ => ?_) fun _ => h
    split
    · exact State.RingSame.sound .still h.prepareNotice
    · exact h.prepareNotice
  | arbitrationLoss b => exact ite_keeps (fun _ => State.RingSame.sound .still h.loseAttempt) fun _ => h
  | clash => exact ite_keeps (fun _ => h.clashAttempt) fun _ => h
  | islanding =>
    refine ite_keeps (c := (s.running && (s.bus.link == .listening || s.bus.link == .joined)) = true) (fun _ => ?_) fun _ => h
    split
    · exact (h.attemptFailed _).discard.island
    · exact h.island
  | ownNoticeCompletion =>
    show State.RingSound (match s.bus.attempt with | some a => _ | none => s)
    split
    · exact ite_keeps (fun _ => h.completeAttempt _) fun _ => h
    · exact h
  | claimReceived w => exact h.received fun t ht => ht.peerNotice _ _ _ _
  | releaseReceived w => exact h.received fun t ht => ht.peerNotice _ _ _ _
  | refreshReceived w => exact h.received fun t ht => ht.peerNotice _ _ _ _
  | ringOrder w => exact h.ordered fun t hrunning ht => ht.takeOrder _ _ fun n => ht.takeRing hrunning w n
  | cancel w => exact h.ordered fun t _ ht => ht.takeOrder _ _ fun n => ht.endRingWork n
  | toneOrder w => exact h.ordered fun t _ ht => ht.takeOrder _ _ fun n => ht.takeTone w n
  | modeOrder w => exact h.ordered fun t _ ht => ht.takeOrder _ _ fun n => ht.takeMode w n
  | query w => exact h.ordered fun t _ ht => ht.takeOrder _ _ fun n => State.RingSame.sound .still ht
  | reportNoticeHeard k w => exact h.received fun t ht => ht
  | noticeInvalid => exact h.received fun t ht => State.RingSame.sound (t := t.countError) (.still (link := by rfl)) ht
  | receiveFramingError => exact still (.still (link := by rfl))
  | receiverIdle => exact still .still
  | busHeld => exact still (.still (link := by rfl))
  | busHeldClear => exact still .still
  | startEdge d b =>
    refine ite_keeps (c := (s.running && !s.bus.busHeld && s.bus.byte.isNone) = true) (fun _ => ?_) fun _ => h
    have hedge : s.edgeTaken.RingSound := State.RingSame.sound (.still (link := by rfl)) h
    split
    · exact ite_keeps (fun _ => State.RingSame.sound (.still (link := by rfl)) hedge) fun _ => hedge
    · exact hedge.edgeInNotice _ _
    · exact h
    · exact h
  | sensePulseEdge n => exact still .still

/-- What a crystal period does by itself touches neither lists nor view: it counts. -/
theorem stepKeeps_ringSound : StepKeeps State.RingSound where
  run c _ h := h.run c
  queue _ h := State.RingSame.sound (.still (ring := by exact fun _ => rfl)) h
  slot _ := slotMs_keeps (fun c _ h => h.run c) fun _ h => State.RingSame.sound .still h
  cross _ := zcMs_keeps (fun c _ h => h.run c) fun _ h => State.RingSame.sound .still h
  close := closeMs_keeps fun _ h => State.RingSame.sound .still h
  sense := senseTick_keeps (fun c _ h => h.run c) fun _ h => State.RingSame.sound .still h
  bus _ hlink _ h := State.RingSame.sound (.still (link := hlink)) h
  lose h := h.loseAttempt
  clock _ _ _ _ h := State.RingSame.sound (.still (ring := by exact fun _ => rfl)) h
  relay n _ h := deadDue_keeps (fun c _ h => h.run c) (fun _ h => State.RingSame.sound (.onLine_ring rfl) h) n (State.RingSame.sound (.onLine_ring rfl) h)
  dial _ _ _ _ h := State.RingSame.sound .still h
  stutter _ _ _ _ _ h := State.RingSame.sound .still h

/-- Settles O57: an operation either leaves the view alone or ends in a view change, whose overload check makes it sound again. -/
theorem everyStepKeepsRingWorkSound : Obligations.EveryStepKeepsRingWorkSound := fun _ _ hsched hview hwithin hstep =>
  have h := stepKeeps_ringSound.step ⟨hsched, hview, hwithin⟩ hstep
  ⟨h.sched, h.view, h.within⟩

end Sys2Proof.Machine
end

section
/-! SUPPORT. Reset, the assertion of RST and the end of loading without a passing image: O5, O6, O7, O8, O10, O60. -/

namespace Sys2Proof.Machine

open Sys2Proof.Claims

variable {s : State}

/-! ### Reset -/

/-- Settles O5: the reset values as `State.atReset` lays them out; no attempt and no sample while loading. -/
theorem resetBusAndAssembler : Obligations.ResetBusAndAssembler := by
  intro a l8 cfgp s
  refine ⟨_, rfl, rfl, rfl, ?_, rfl, rfl, rfl, rfl, rfl, rfl, rfl, rfl, rfl, rfl, rfl, rfl, rfl, rfl, rfl, rfl, rfl, rfl, rfl, fun n => ?_, fun u hu => ⟨?_, ?_⟩⟩
  · show (if _ then Link.listening else Link.silent) = _
    simp [Straps.valid]
  · rw [State.atReset_line]; rfl
  · simp [State.busSample, State.running, hu]
  · simp [exec, execAttemptStart, State.mayAttempt, State.running, hu]

/-- Settles O6. -/
theorem resetOtherBlocks : Obligations.ResetOtherBlocks := by
  intro a l8 cfgp s
  refine ⟨_, rfl, rfl, fun p => ?_, fun k => ?_, rfl, rfl, rfl, rfl, rfl, ?_, rfl, fun n => ?_⟩
  · simp [State.atReset, LoadTable.reset]
  · simp [State.atReset, LoadTable.reset, Totals.zero]
  · by_cases h : a.toNat ≤ 23
    · simp [State.strapInvalid, State.atReset, Straps.valid, h, Nat.not_le.2 (Nat.lt_succ_of_le h)]
    · simpa [State.strapInvalid, State.atReset, Straps.valid, h] using Nat.succ_le_of_lt (Nat.lt_of_not_le h)
  · have hline : (State.atReset .loading { address := a, l8 := l8, cfgp := cfgp } { s.pins with address := a, l8 := l8, cfgp := cfgp, rst := false } s.order s.pending).line n = .reset :=
      State.atReset_line _ _ _ _ _ n
    simp only [State.ring, State.feedClosed, State.ringClosed, State.gateOpen, hline]
    refine ⟨rfl, rfl, rfl, rfl, rfl, rfl, rfl, rfl, rfl, rfl, ?_, rfl, rfl, rfl, rfl, rfl, rfl, rfl, rfl, rfl, rfl, rfl, rfl, rfl, rfl, rfl, rfl⟩
    exact fun k => by simp [LineState.reset, SenseRecord.reset]

/-- Settles O7. -/
theorem resetAssertedReleasesEverything : Obligations.ResetAssertedReleasesEverything := by
  intro s
  refine ⟨_, rfl, rfl, rfl, rfl, rfl, rfl, rfl, rfl, rfl, rfl, fun n => ?_⟩
  simp only [State.ring, State.feedClosed, State.ringClosed, State.gateOpen, State.atReset_line]
  exact ⟨rfl, rfl, rfl, rfl⟩

/-- Settles O60: each invariant at its reset values. -/
theorem resetStateIsSound : Obligations.ResetStateIsSound := by
  have hring : State.reset.RingSound := State.atReset_ringSound _ _ _ _ _
  refine ⟨hring.sched, hring.view, hring.within, State.atReset_linesOk _ _ _ _ _, (State.countsOk_iff _).2 ⟨?_, ?_, ?_, State.atReset_storesOk _ _ _ _ _⟩⟩
  · exact ⟨Cadence.reset_countsOk, SenseUnit.restart_countsOk 0⟩
  · constructor <;> simp [State.reset, State.atReset, Bus.reset]
  · exact ⟨fun m => by rw [State.reset, State.atReset_line]; exact SenseRecord.reset_countsOk, by show 3 ≤ 8; decide⟩

/-! ### Loading without a passing image -/

theorem Params.default_allDefaults : AllDefaults Params.default := by
  refine ⟨rfl, rfl, rfl, fun n => ?_, rfl, rfl, rfl, rfl⟩
  simp [Params.weight, Params.flashMode, Params.default, LineParams.default]

/-- Settles O8: the three ways to configure without an image take the same parameters. -/
theorem loadingWithoutImageTakesDefaults : Obligations.LoadingWithoutImageTakesDefaults := by
  intro s answer hloading hnone
  refine ⟨_, exec_endOfLoading_of_loading answer hloading, ?_⟩
  have hconfigure : ∃ l : Loader, s.configure answer = s.setConfig l .default ∧ l.rejected = (s.loader.rejected || s.straps.cfgp) ∧
      l.defaulted = s.loader.defaulted := by
    unfold State.configure
    cases hfitted : s.straps.cfgp with
    | false => exact ⟨_, rfl, by simp, rfl⟩
    | true =>
      rcases hnone with hno | hsilent | ⟨image, himage, hfails⟩
      · rw [hfitted] at hno; cases hno
      · subst hsilent; exact ⟨_, rfl, by simp, rfl⟩
      · subst himage
        have hbad : imageOk image = false := Bool.eq_false_iff.2 fun h => hfails ((imageOk_iff image).1 h)
        exact ⟨{ s.loader with image := image, rejected := true }, by simp [hbad], by simp, rfl⟩
  obtain ⟨l, hl, hrejected, hdefaulted⟩ := hconfigure
  rw [hl]
  exact ⟨by simpa using Params.default_allDefaults, begunWork_setConfig.1 (State.begunWork_beginWork _), by simpa using hrejected,
    by simpa using hdefaulted⟩

/-! ### One wrong byte -/

/-- What the running CRC was before a bit shifted it: bit 0 tells whether 07H was combined. -/
def crcUnstep (v : Byte) : Byte := if v.getLsbD 0 then ((v ^^^ 0x07#8) >>> 1) ||| 0x80#8 else v >>> 1

theorem crcUnstep_crcStep : ∀ v : Byte, crcUnstep (crcStep v) = v := by decide

theorem crcStep_injective : Function.Injective crcStep := Function.LeftInverse.injective crcUnstep_crcStep

theorem crcByte_inj {v v' b b' : Byte} (h : crcByte v b = crcByte v' b') : v ^^^ b = v' ^^^ b' := by
  simpa only [crcByte, crcStep_injective.eq_iff] using h

/-- The running value after some bytes tells the value before them. -/
theorem crcByte_foldl_injective (ls : List Byte) : Function.Injective fun v => ls.foldl crcByte v := by
  induction ls with
  | nil => exact fun _ _ h => h
  | cons b ls ih => exact fun v v' h => (BitVec.xor_left_inj b).1 (crcByte_inj (ih h))

/-- One byte changed changes the CRC. -/
theorem crc8_set_ne {ls : List Byte} {k : Nat} {b : Byte} (hk : k < ls.length) (hb : b ≠ ls[k]) : crc8 (ls.set k b) ≠ crc8 ls := by
  intro h
  have hsplit : ls = ls.take k ++ ls[k] :: ls.drop (k + 1) := by simp
  have hset : ls.set k b = ls.take k ++ b :: ls.drop (k + 1) := by rw [List.set_eq_take_append_cons_drop, if_pos hk]
  rw [hset] at h
  conv_rhs at h => rw [hsplit]
  simp only [crc8, List.foldl_append, List.foldl_cons] at h
  exact hb ((BitVec.xor_right_inj _).1 (crcByte_inj (crcByte_foldl_injective _ h)))

/-- An image with one wrong byte does not pass: the signature, the check byte or the CRC of the rest differs (R169). -/
theorem not_imagePasses_set {i : List Byte} {k : Nat} {b : Byte} (hlength : i.length = 48) (hpasses : ImagePasses i) (hk : k < 48)
    (hb : b ≠ i.getD k 0#8) : ¬ ImagePasses (i.set k b) := by
  rintro ⟨-, -, hcrc⟩
  have hik : k < i.length := by omega
  have hb' : b ≠ i[k] := by rwa [List.getD_eq_getElem _ _ hik] at hb
  rcases Nat.lt_or_ge k 47 with hrest | hlast
  · have hcheck : (i.set k b).getD 47 0#8 = i.getD 47 0#8 := by
      simp only [List.getD_eq_getElem?_getD, List.getElem?_set_ne (Nat.ne_of_lt hrest)]
    rw [hcheck, hpasses.2.2, List.take_set] at hcrc
    refine crc8_set_ne (ls := i.take 47) (k := k) (b := b) (by simp; omega) ?_ hcrc.symm
    simpa using hb'
  · obtain rfl : k = 47 := by omega
    rw [List.take_set_of_le (Nat.le_refl 47), ← hpasses.2.2] at hcrc
    refine hb ?_
    rw [← hcrc, List.getD_eq_getElem _ _ (by simp; omega)]
    simp

/-- Settles O10: an image with one wrong byte does not pass, which O8 settles. -/
theorem oneWrongByteRejectsTheImage : Obligations.OneWrongByteRejectsTheImage := by
  intro s i k b hloading hfitted hlength hpasses hk hb
  obtain ⟨t, ht, hdefaults, -, hrejected, -⟩ :=
    loadingWithoutImageTakesDefaults s (.image (i.set k b)) hloading (.inr (.inr ⟨_, rfl, not_imagePasses_set hlength hpasses hk hb⟩))
  have hmark : t.loader.rejected = true := by rw [hrejected, hfitted, Bool.or_true]
  exact ⟨t, ht, hmark, by simp [Loader.configDefaulted, hmark], hdefaults⟩

/-! ### The rotated mask -/

/-- Settles O19. -/
theorem rotatedMaskTurnsThePattern : Obligations.RotatedMaskTurnsThePattern := by
  intro pattern o t
  refine ⟨?_, BitVec.eq_of_getLsbD_eq fun i hi => by simp [rotatedMask, BitVec.getLsbD_rotateLeft, hi]⟩
  rw [rotatedMask, BitVec.getLsbD_rotateLeft, Nat.mod_eq_of_lt o.isLt, Fin.sub_def]
  by_cases h : t.val < o.val
  · have hturn : (8 - o.val + t.val) % 8 = 8 - o.val + t.val := Nat.mod_eq_of_lt (by omega)
    simp [h, hturn]
  · have hturn : (8 - o.val + t.val) % 8 = t.val - o.val := by omega
    simp [h, hturn]

end Sys2Proof.Machine
end

section
/-! SUPPORT. The commands of the Cadence Timer and of the relay timers: O11, O13, O16, O17. -/

namespace Sys2Proof.Machine

open Sys2Proof.Claims

variable {s t : State}

/-! ### Slot boundaries -/

theorem Slot.next_eq_zero_iff : ∀ k : Slot, k + 1 = 0 ↔ k = 7 := by decide

theorem permute_singleton {α : Type} (k : Nat) (a : α) : permute k [a] = [a] := List.perm_singleton.1 (permute_perm k [a])

theorem State.active_of (h : s.phase ≠ .held) : s.active = true := by simpa [State.active] using h

theorem State.run_slotEnd (h : s.phase ≠ .held) : exec .slotEnd s = .next (s.boundary (s.cadence.slot + 1)) := by
  show Host.Outcome.next _ = _
  rw [if_pos (State.active_of h)]

/-- A boundary touches ring work, the link and the assembler alone beside the Cadence Timer. -/
theorem State.boundary_frame (s : State) (k : Slot) :
    s.boundary k = { s with cadence := (s.boundary k).cadence, lines := (s.boundary k).lines, sched := (s.boundary k).sched,
                            table := (s.boundary k).table, asm := (s.boundary k).asm, bus := (s.boundary k).bus } := by
  have h := s.boundary_keeps k
  generalize s.boundary k = t at h ⊢
  cases s; cases t
  simp only at h ⊢
  simp only [h]

theorem State.boundary_hooksKept (s : State) (k : Slot) : HooksKept s (s.boundary k) := fun _ => by simp

/-- While loading, a slot start is taken for the link alone. -/
theorem State.boundary_loading (h : s.phase = .loading) (k : Slot) :
    s.boundary k = if k = 0 then (s.setCadence { s.cadence with slot := 0, slotTimer := 0, past := false }).countPeriod
      else s.setCadence { s.cadence with slot := k, slotTimer := 0, past := false } := by
  have htasks : (s.setCadence { s.cadence with slot := k, slotTimer := 0, past := false }).slotTasks k = if k = 0 then [.link] else [] := by
    simp [State.slotTasks, State.running, h]
  unfold State.boundary State.slotStart
  rw [htasks]
  split
  · subst k; rw [permute_singleton]; rfl
  · rfl

/-- The first cycle start after reset: counted toward the listen period (R138). -/
theorem State.countPeriod_first (hlink : s.bus.link = .listening ∨ s.bus.link = .islanded) (hperiod : s.bus.period = 0) :
    s.countPeriod = s.setBus { s.bus with period := 1 } := by
  unfold State.countPeriod
  rcases hlink with hlink | hlink <;> simp [hlink, hperiod, State.setLink]

/-- Settles O11. -/
theorem slotEndBeginsTheNextSlot : Obligations.SlotEndBeginsTheNextSlot := by
  intro s hphase
  refine ⟨_, State.run_slotEnd hphase, s.boundary_cadence _, fun h7 => ?_, s.boundary_frame _, s.boundary_hooksKept _, fun hloading h7 => ?_,
    fun hloading h7 hlink hperiod => ?_⟩
  · rw [s.boundary_cadence]
    show s.cadence.slot + 1 = 0
    rw [h7]; rfl
  · have hnext : s.cadence.slot + 1 ≠ 0 := fun h0 => h7 ((Slot.next_eq_zero_iff _).1 h0)
    rw [State.boundary_loading hloading, if_neg hnext]
    rfl
  · have hfirst : ∀ c, (s.setCadence c).countPeriod = (s.setCadence c).setBus { s.bus with period := 1 } := fun c =>
      State.countPeriod_first (s := s.setCadence c) (.inl hlink) hperiod
    rw [State.boundary_loading hloading, if_pos ((Slot.next_eq_zero_iff _).2 h7), hfirst]
    rfl

/-! ### Markers -/

theorem Cadence.markerClass_late {c : Cadence} : c.markerClass = .late ↔ c.slot = 0 ∧ c.slotTimer ≤ 40 := by
  unfold Cadence.markerClass windowOpensAt lateUpTo
  split
  · rename_i h
    simp [h.1]
  · split <;> simp_all

/-- A marker that is not late makes a boundary to slot 0; a late one restarts slot 0 and does no more (R3 to R6). -/
theorem State.run_cycleMarker (h : s.phase ≠ .held) :
    exec .cycleMarker s = .next (if s.cadence.slot = 0 ∧ s.cadence.slotTimer ≤ 40 then
      s.setCadence { s.cadence.markerTaken with slotTimer := 0, past := false }
      else (s.setCadence s.cadence.markerTaken).boundary 0) := by
  show Host.Outcome.next (if s.active = true then _ else _) = _
  rw [if_pos (State.active_of h)]
  dsimp only
  have hlate := Cadence.markerClass_late (c := s.cadence)
  cases hclass : s.cadence.markerClass <;> rw [hclass] at hlate
  · rw [if_neg (fun hl => by cases hlate.2 hl)]
  · rw [if_pos (hlate.1 rfl)]; rfl
  · rw [if_neg (fun hl => by cases hlate.2 hl)]

/-- Settles O13. -/
theorem cycleMarkerRestartsSlotZero : Obligations.CycleMarkerRestartsSlotZero := by
  intro s hphase
  refine ⟨_, State.run_cycleMarker hphase, ?_⟩
  split
  · rename_i hlate
    have hslot : s.cadence.slot = 0 := hlate.1
    refine ⟨?_, fun _ => rfl, rfl, fun _ => rfl⟩
    show { s.cadence.markerTaken with slotTimer := 0, past := false } = _
    unfold Cadence.markerTaken
    rw [← hslot]
  · rename_i hnot
    refine ⟨?_, fun hlate => absurd hlate hnot, ?_, ?_⟩
    · rw [State.boundary_cadence]; rfl
    · rw [State.boundary_frame]; rfl
    · exact State.boundary_hooksKept _ _

/-! ### Zero crossing and relay timers -/

/-- Settles O16: every line takes the event. -/
theorem zeroCrossMakesWaitingMovements : Obligations.ZeroCrossMakesWaitingMovements := by
  intro s hphase
  have hactive := State.active_of hphase
  refine ⟨⟨_, congrArg Host.Outcome.next (if_pos hactive), rfl, fun n => ?_⟩, ⟨_, congrArg Host.Outcome.next (if_pos hactive), rfl, fun n => ?_⟩⟩
  all_goals
    rw [State.line_mapLines]
    exact LineState.switchRing_movementMade _ _

/-- Settles O17. -/
theorem relayTimersMoveTheirLine : Obligations.RelayTimersMoveTheirLine := by
  intro s n hserves
  refine ⟨fun hpos hlost => ?_, fun hpos hlost => ?_, fun hpos => ?_, fun hwait => ?_⟩
  · refine congrArg Host.Outcome.next ((if_pos (by simp [hserves, hpos])).trans ?_)
    simp [State.onLine, LineState.beginCloseWait, hlost, WaitingToClose, LineState.deadTimeReached]
  · refine congrArg Host.Outcome.next ((if_pos (by simp [hserves, hpos])).trans ?_)
    simp [State.onLine, LineState.beginCloseWait, hlost, LineState.closeRing, RelayRecord.mayCloseRing, RingClosed, LineState.deadTimeReached]
  · refine congrArg Host.Outcome.next ((if_pos (by simp [hserves, hpos])).trans ?_)
    simp [State.onLine, LineState.closeFeed, RelayRecord.mayCloseFeed, FeedClosed, LineState.deadTimeReached]
  · exact ⟨_, LineState.switchRing_movementMade _ _, congrArg Host.Outcome.next (if_pos (by simp [hserves, hwait]))⟩

end Sys2Proof.Machine
end

section
/-! SUPPORT. The cycle start: what its tasks come to in whatever order they are taken (R2): O12, O14. -/

namespace Sys2Proof.Machine

open Sys2Proof.Claims

variable {s t u : State}

/-! ### Tasks in any order -/

/-- Of tasks taken once each, one alone touches a part of the state: whatever the order, it is touched once. -/
theorem foldl_once {α β γ : Type} [DecidableEq β] {f : α → β → α} (v : α → γ) (g : γ → γ) (x : β)
    (hx : ∀ s, v (f s x) = g (v s)) (hother : ∀ s y, y ≠ x → v (f s y) = v s) {ls : List β} (hls : ls.Nodup) (s : α) :
    v (ls.foldl f s) = if x ∈ ls then g (v s) else v s := by
  induction ls generalizing s with
  | nil => rfl
  | cons y ls ih =>
    obtain ⟨hy, hls⟩ := List.nodup_cons.1 hls
    rw [List.foldl_cons, ih hls]
    by_cases hyx : y = x
    · subst hyx; simp [hy, hx s]
    · have hxy : x ≠ y := fun h => hyx h.symm
      simp [hxy, hother s y hyx]

section Tasks
variable (s : State) (j k : Slot)

theorem State.slotTask_direct : s.slotTask j k .direct = s.directRelays j k := rfl
theorem State.slotTask_count : s.slotTask j k .count = s.countCycle := rfl
theorem State.slotTask_age : s.slotTask j k .age = s.ageView := rfl
theorem State.slotTask_refresh : s.slotTask j k .refresh = s.refreshFallsDue k := rfl
theorem State.slotTask_link : s.slotTask j k .link = s.countPeriod := rfl

end Tasks

/-! ### Peer entries -/

theorem State.peers_endRingWork (s : State) (n : Line) : (s.endRingWork n).table.peers = s.table.peers := by
  unfold State.endRingWork
  split
  · rfl
  · rfl
  · simp
  · exact (ViewChanged.own _).peers

theorem State.peers_examineOrder (s : State) (n : Line) : (s.examineOrder n).table.peers = s.table.peers := by
  unfold State.examineOrder
  split
  · rfl
  · split
    · unfold State.expire
      split
      · rfl
      · simp [State.peers_endRingWork]
    · split
      · simp
      · rfl

theorem State.peers_countCycle (s : State) : s.countCycle.table.peers = s.table.peers := by
  have hfold : ∀ (ls : List Line) (t : State), (ls.foldl State.examineOrder t).table.peers = t.table.peers := by
    intro ls
    induction ls with
    | nil => exact fun _ => rfl
    | cons n ls ih => exact fun t => (ih _).trans (t.peers_examineOrder n)
  unfold State.countCycle
  simp [hfold]

theorem State.peers_join (s : State) : s.join.table.peers = s.table.peers := (ViewChanged.join s).peers

theorem State.peers_countPeriod (s : State) : s.countPeriod.table.peers = s.table.peers := by
  unfold State.countPeriod
  split
  · split
    · exact s.peers_join
    · rfl
  · split
    · exact State.peers_join _
    · rfl
  all_goals rfl

/-- Ageing ages the entries, whatever view change it brings (R23). -/
theorem State.peers_ageView (s : State) : s.ageView.table.peers = s.table.peers.map fun e => e.bind Entry.older := by
  unfold State.ageView
  dsimp only
  split
  · exact (ViewChanged.viewChange _ false).peers
  · exact (ViewChanged.overloadCheck _).peers

theorem State.peers_slotTask (s : State) (j k : Slot) {x : SlotTask} (hx : x ≠ .age) : (s.slotTask j k x).table.peers = s.table.peers := by
  cases x with
  | direct => simp [State.slotTask_direct]
  | count => rw [State.slotTask_count]; exact s.peers_countCycle
  | age => exact absurd rfl hx
  | refresh => simp [State.slotTask_refresh]
  | link => rw [State.slotTask_link]; exact s.peers_countPeriod

/-! ### The link -/

/-- A cycle start counted toward the listen or islanded period; the second ends it (R137, R138). -/
def Bus.periodCounted (b : Bus) : Bus :=
  match b.link with
  | .listening => if 1 ≤ b.period then { b with link := .joined, period := 2 } else { b with period := b.period + 1 }
  | .islanded => if 1 ≤ b.period then { b with link := .joined, period := 2, recovered := true } else { b with period := b.period + 1 }
  | .joined | .silent => b

theorem State.countPeriod_bus (s : State) : s.countPeriod.bus = s.bus.periodCounted := by
  unfold State.countPeriod Bus.periodCounted
  split <;> rename_i hlink <;> simp only [hlink]
  · by_cases hp : 1 ≤ s.bus.period <;> simp [hp, hlink, State.join_bus, State.setLink]
  · by_cases hp : 1 ≤ s.bus.period <;> simp [hp, hlink, State.rejoin, State.join_bus, State.setLink]

theorem State.bus_slotTask (s : State) (j k : Slot) {x : SlotTask} (hx : x ≠ .link) : (s.slotTask j k x).bus = s.bus := by
  cases x with
  | link => exact absurd rfl hx
  | _ => simp [State.slotTask]

/-! ### Orders -/

/-- What a cycle start makes of an order: one cycle more, ended at its limit (R60, R61). -/
def countedCore (c : Option (Fin 8 × Nat × Nat × Bool)) : Option (Fin 8 × Nat × Nat × Bool) :=
  c.bind fun o => if o.2.1 ≤ o.2.2.1 + 1 then none else some (o.1, o.2.1, o.2.2.1 + 1, o.2.2.2)

/-- An order at its limit ends (R60). -/
def endedCore (c : Option (Fin 8 × Nat × Nat × Bool)) : Option (Fin 8 × Nat × Nat × Bool) :=
  c.bind fun o => if o.2.1 ≤ o.2.2.1 then none else some o

/-- Examination ends an order at its limit and keeps every other (R60). -/
theorem State.core_examineOrder (s : State) (n m : Line) : ((s.examineOrder n).line m).ring.core =
    if m = n then endedCore (s.line m).ring.core else (s.line m).ring.core := by
  unfold State.examineOrder
  split
  · rename_i hnone
    have hcore : (s.line n).ring.core = none := by simp [RingRecord.core, show (s.line n).ring.order? = none from hnone]
    by_cases hm : m = n
    · subst hm; simp [hcore, endedCore]
    · simp [hm]
  · rename_i o ho
    have hcore := RingRecord.core_some (r := (s.line n).ring) ho
    split
    · rename_i hlimit
      rw [State.core_expire]
      by_cases hm : m = n
      · subst hm; simp [hcore, endedCore, hlimit]
      · simp [hm]
    · rename_i hlimit
      have hkept : ((if o.elapsed = deferralCycles then s.defer n else s).line m).ring.core = (s.line m).ring.core := by
        split
        · exact s.core_defer n m
        · rfl
      rw [hkept]
      by_cases hm : m = n
      · subst hm; simp [hcore, endedCore, hlimit]
      · simp [hm]

theorem State.core_examineOrders {ls : List Line} (hls : ls.Nodup) (s : State) (m : Line) : ((ls.foldl State.examineOrder s).line m).ring.core =
    if m ∈ ls then endedCore (s.line m).ring.core else (s.line m).ring.core :=
  foldl_once (fun t : State => (t.line m).ring.core) endedCore m (fun t => (t.core_examineOrder m m).trans (if_pos rfl))
    (fun t y hy => (t.core_examineOrder y m).trans (if_neg (Ne.symm hy))) hls s

theorem State.core_countCycle (s : State) (m : Line) : (s.countCycle.line m).ring.core = countedCore (s.line m).ring.core := by
  unfold State.countCycle
  rw [State.core_placementAttempt, State.core_examineOrders (ls := allLines) (List.nodup_finRange 8), if_pos (show m ∈ allLines from List.mem_finRange m),
    State.line_mapLines]
  cases (s.line m).ring <;> rfl

theorem State.core_join (s : State) (m : Line) : (s.join.line m).ring.core = (s.line m).ring.core := (ViewChanged.join s).core m

theorem State.core_countPeriod (s : State) (m : Line) : (s.countPeriod.line m).ring.core = (s.line m).ring.core := by
  unfold State.countPeriod
  split
  · split
    · exact s.core_join m
    · rfl
  · split
    · exact State.core_join _ m
    · rfl
  all_goals rfl

theorem LineState.classBoundary_core (p : RelayParams) (z : Bool) (j k : Slot) (l : LineState) : (l.classBoundary p z j k).ring.core = l.ring.core := by
  unfold LineState.classBoundary
  split
  · dsimp only
    (repeat' split) <;> simp [RingRecord.core, RingRecord.order?, *]
  all_goals rfl

theorem State.core_slotTask (s : State) (j k : Slot) {x : SlotTask} (hx : x ≠ .count) (m : Line) :
    ((s.slotTask j k x).line m).ring.core = (s.line m).ring.core := by
  cases x with
  | direct => simp [State.slotTask_direct, State.directRelays, LineState.classBoundary_core]
  | count => exact absurd rfl hx
  | age =>
    rw [State.slotTask_age]
    unfold State.ageView
    dsimp only
    split
    · exact (ViewChanged.viewChange _ false).core m
    · exact (ViewChanged.overloadCheck _).core m
  | refresh => simp [State.slotTask_refresh]
  | link => rw [State.slotTask_link]; exact s.core_countPeriod m

/-! ### The cycle start, however made -/

/-- The tasks of a cycle start of a running part, in the order chosen. -/
def cycleTasks (s : State) : List SlotTask := permute s.order.slot [.direct, .count, .age, .refresh, .link]

theorem cycleTasks_nodup (s : State) : (cycleTasks s).Nodup := (permute_perm _ _).nodup_iff.2 (by decide)

theorem mem_cycleTasks (s : State) (x : SlotTask) : x ∈ cycleTasks s := (permute_perm _ _).mem_iff.2 (by cases x <;> decide)

/-- A cycle start is its tasks in the order chosen, on a Cadence Timer that has moved on. -/
theorem exec_cycleStart {c : Instr} (hphase : s.phase = .running) (hc : MakesCycleStart c s) :
    ∃ x : Cadence, x.zcLost = s.cadence.zcLost ∧ exec c s = .next ((cycleTasks s).foldl (State.slotTask s.cadence.slot 0) (s.setCadence x)) := by
  have hheld : s.phase ≠ .held := by rw [hphase]; simp
  have hstart : ∀ x : Cadence, (s.setCadence x).boundary 0 =
      (cycleTasks s).foldl (State.slotTask x.slot 0) (s.setCadence { x with slot := 0, slotTimer := 0, past := false }) := fun x => by
    have htasks : (s.setCadence { x with slot := 0, slotTimer := 0, past := false }).slotTasks 0 = [.direct, .count, .age, .refresh, .link] := by
      simp [State.slotTasks, State.running, hphase]
    unfold State.boundary State.slotStart cycleTasks
    rw [← htasks]
    rfl
  rcases hc with ⟨rfl, h7⟩ | ⟨rfl, hlate⟩
  · refine ⟨{ s.cadence with slot := 0, slotTimer := 0, past := false }, rfl, ?_⟩
    rw [State.run_slotEnd hheld, (Slot.next_eq_zero_iff _).2 h7]
    exact congrArg Host.Outcome.next (hstart s.cadence)
  · refine ⟨{ s.cadence.markerTaken with slot := 0, slotTimer := 0, past := false }, rfl, ?_⟩
    rw [State.run_cycleMarker hheld, if_neg (show ¬ (s.cadence.slot = 0 ∧ s.cadence.slotTimer ≤ 40) from hlate), hstart]
    rfl

/-- Settles O14: orders, peer entries and link are each touched by one task alone. -/
theorem cycleStartCountsAndAges : Obligations.CycleStartCountsAndAges := by
  intro c s hphase hc
  obtain ⟨x, -, hexec⟩ := exec_cycleStart hphase hc
  refine ⟨_, hexec, ?_⟩
  generalize htasked : (cycleTasks s).foldl (State.slotTask s.cadence.slot 0) (s.setCadence x) = t
  have hcore : ∀ n, (t.ring n).core = countedCore (s.ring n).core := fun n => by
    have honce := foldl_once (fun t : State => (t.line n).ring.core) countedCore .count (fun t => by rw [State.slotTask_count]; exact t.core_countCycle n)
      (fun t y hy => t.core_slotTask s.cadence.slot 0 hy n) (cycleTasks_nodup s) (s.setCadence x)
    rwa [if_pos (mem_cycleTasks s _), htasked] at honce
  have hpeers : t.table.peers = s.table.peers.map fun e => e.bind Entry.older := by
    have honce := foldl_once (fun t : State => t.table.peers) (fun p => p.map fun e => e.bind Entry.older) .age
      (fun t => by rw [State.slotTask_age]; exact t.peers_ageView)
      (fun t y hy => t.peers_slotTask s.cadence.slot 0 hy) (cycleTasks_nodup s) (s.setCadence x)
    rwa [if_pos (mem_cycleTasks s _), htasked] at honce
  have hbus : t.bus = s.bus.periodCounted := by
    have honce := foldl_once (fun t : State => t.bus) Bus.periodCounted .link (fun t => by rw [State.slotTask_link]; exact t.countPeriod_bus)
      (fun t y hy => t.bus_slotTask s.cadence.slot 0 hy) (cycleTasks_nodup s) (s.setCadence x)
    rwa [if_pos (mem_cycleTasks s _), htasked] at honce
  refine ⟨fun n hn => ?_, fun n o ho hlimit => ?_, fun n o ho hlimit => ?_, fun a => ?_, fun hlink hperiod => ?_, fun hlink hperiod => ?_,
    fun hlink hperiod => ?_, fun hlink => ?_⟩
  · rw [← State.core_idle, hcore, hn]; rfl
  · rw [← State.core_idle, hcore, RingRecord.core_some ho]
    exact if_pos hlimit
  · have hlive := hcore n
    rw [RingRecord.core_some ho] at hlive
    simp only [countedCore, Option.bind_some, if_neg (Nat.not_le.2 hlimit), RingRecord.core, Option.map_eq_some_iff, Prod.mk.injEq] at hlive
    obtain ⟨o', ho', hpattern, hlimit', helapsed, hrung⟩ := hlive
    exact ⟨o', ho', helapsed, hpattern, hlimit', hrung⟩
  · rw [hpeers, Vector.getElem_map]
    cases s.table.peers[a.val] <;> rfl
  · rw [hbus, Bus.periodCounted]
    rcases hlink with hlink | hlink <;> simp [hlink, hperiod]
  · rw [hbus, Bus.periodCounted]
    simp [hlink, hperiod]
  · rw [hbus, Bus.periodCounted]
    simp [hlink, hperiod]
  · rw [hbus, Bus.periodCounted]
    rcases hlink with hlink | hlink <;> simp [hlink]

end Sys2Proof.Machine
end

section
/-! SUPPORT. The directing of relays at a slot boundary (R16), and that no other task of a cycle start sets a line ringing: O12. -/

namespace Sys2Proof.Machine

open Sys2Proof.Claims

variable {s t u : State}

/-! ### Lines that ring on -/

/-- A line that rings after has rung before with the same placement, its relays and sense record standing; one that did not ring keeps its relays. -/
structure LineState.RingsOn (l l' : LineState) : Prop where
  rings : ∀ (o : Order) (p : Placement) (b : Bool), l'.ring = .ringing o p b →
    (∃ o₀ : Order, l.ring = .ringing o₀ p b) ∧ l'.relay = l.relay ∧ l'.sense = l.sense
  quiet : l.ring.isRinging = false → l'.relay = l.relay

/-- So of every line. -/
def State.RingsOn (s t : State) : Prop := ∀ m, (s.line m).RingsOn (t.line m)

theorem LineState.RingsOn.refl (l : LineState) : l.RingsOn l := ⟨fun o _ _ h => ⟨⟨o, h⟩, rfl, rfl⟩, fun _ => rfl⟩

/-- A line that did not ring rings on as little. -/
theorem LineState.RingsOn.silent {l l' : LineState} (h : l.RingsOn l') (hl : l.ring.isRinging = false) : l'.ring.isRinging = false := by
  cases hl' : l'.ring with
  | ringing o p b =>
    obtain ⟨⟨o₀, ho⟩, -, -⟩ := h.rings o p b hl'
    rw [ho] at hl; cases hl
  | _ => rfl

theorem LineState.RingsOn.trans {l l' l'' : LineState} (h : l.RingsOn l') (g : l'.RingsOn l'') : l.RingsOn l'' where
  rings o p b hl := by
    obtain ⟨⟨o₁, h₁⟩, hrelay₁, hsense₁⟩ := g.rings o p b hl
    obtain ⟨⟨o₀, h₀⟩, hrelay₀, hsense₀⟩ := h.rings o₁ p b h₁
    exact ⟨⟨o₀, h₀⟩, hrelay₁.trans hrelay₀, hsense₁.trans hsense₀⟩
  quiet hl := (g.quiet (h.silent hl)).trans (h.quiet hl)

/-- A change of the order alone. -/
theorem LineState.RingsOn.mapOrder (f : Order → Order) (l : LineState) : l.RingsOn { l with ring := l.ring.mapOrder f } where
  rings o p b hl := by
    cases hr : l.ring with
    | ringing o₀ p₀ b₀ => rw [hr] at hl; cases hl; exact ⟨⟨o₀, rfl⟩, rfl, rfl⟩
    | _ => rw [hr] at hl; cases hl
  quiet _ := rfl

/-- A line that rings stops. -/
theorem LineState.RingsOn.stops {l l' : LineState} (h : l.ring.isRinging = true) (h' : l'.ring.isRinging = false) : l.RingsOn l' where
  rings o p b hl := by rw [hl] at h'; cases h'
  quiet hl := by rw [h] at hl; cases hl

namespace State.RingsOn

theorem refl (s : State) : s.RingsOn s := fun m => .refl _

theorem trans (h : s.RingsOn t) (g : t.RingsOn u) : s.RingsOn u := fun m => (h m).trans (g m)

theorem still (hring : ∀ m, (t.line m).ring = (s.line m).ring := by simp) (hrelay : ∀ m, (t.line m).relay = (s.line m).relay := by simp)
    (hsense : ∀ m, (t.line m).sense = (s.line m).sense := by simp) : s.RingsOn t := fun m =>
  ⟨fun o p b h => ⟨⟨o, by rw [← hring m]; exact h⟩, hrelay m, hsense m⟩, fun _ => hrelay m⟩

/-- A line that does not ring takes another ring state without ringing. -/
theorem setRing {n : Line} {r : RingRecord} (hr : r.isRinging = false) : s.RingsOn (s.setRing n r) := fun m => by
  rw [State.line_setRing]
  split
  · exact ⟨fun o p b h => (by rw [show r = _ from h] at hr; cases hr), fun _ => by subst m; rfl⟩
  · exact .refl _

theorem onLine_stops {n : Line} {f : LineState → LineState} (h : (s.ring n).isRinging = true) (h' : (f (s.line n)).ring.isRinging = false) :
    s.RingsOn (s.onLine n f) := fun m => by
  rw [State.line_onLine]
  split
  · subst m; exact .stops h h'
  · exact .refl _

theorem byFold {α : Type} {f : State → α → State} (h : ∀ (s : State) (a : α), s.RingsOn (f s a)) (ls : List α) (s : State) : s.RingsOn (ls.foldl f s) := by
  induction ls generalizing s with
  | nil => exact refl s
  | cons a ls ih => exact (h s a).trans (ih _)

end State.RingsOn

section Operations
variable (s : State)

theorem State.ringsOn_placementAttempt : s.RingsOn s.placementAttempt := by
  unfold State.placementAttempt
  split
  · split
    · rename_i n p _
      unfold State.issueClaim
      split
      · rename_i o _
        exact (State.RingsOn.setRing (n := n) (r := .claiming { o with deferred := true } p) rfl).trans .still
      all_goals exact .refl s
    · exact .refl s
  · exact .refl s

theorem State.ringsOn_freeToken : s.RingsOn s.freeToken := (State.RingsOn.still (t := s.setToken .free)).trans (State.ringsOn_placementAttempt _)

theorem State.ringsOn_revalidate : s.RingsOn s.revalidate := by
  unfold State.revalidate State.replaceClaim
  split
  · split
    · exact .refl s
    · split
      · split
        · exact .refl s
        · split
          · exact State.RingsOn.setRing rfl
          · exact (State.RingsOn.setRing rfl).trans (State.ringsOn_freeToken _)
      all_goals exact .refl s
  all_goals exact .refl s

theorem State.ringsOn_shedLine (n : Line) : s.RingsOn (s.shedLine n) := by
  unfold State.shedLine
  split
  · rename_i o q b hn
    rw [State.setRing_onLine]
    have hstops : s.RingsOn (s.onLine n fun l => { l.immediateFeed s.params.relay with ring := .pending o }) :=
      .onLine_stops (by rw [hn]; rfl) rfl
    exact hstops.trans .still
  all_goals exact .refl s

theorem State.ringsOn_overloadCheck : s.RingsOn s.overloadCheck := by
  unfold State.overloadCheck
  split
  · split
    · exact .refl s
    · rename_i n rest _
      have hshed := State.RingsOn.byFold State.ringsOn_shedLine (n :: rest) s
      have hformed : ((n :: rest).foldl State.shedLine s).RingsOn ((n :: rest).foldl State.shedLine s).recomputeOwn := .still
      exact (hshed.trans hformed).trans (State.ringsOn_placementAttempt _)
  · exact .refl s

theorem State.ringsOn_viewChange (b : Bool) : s.RingsOn (s.viewChange b) := by
  have hplaced : s.RingsOn (s.setTable (s.table.recompute s.params.ring.budget)).placementAttempt :=
    (State.RingsOn.still (t := s.setTable _)).trans (State.ringsOn_placementAttempt _)
  unfold State.viewChange
  dsimp only
  split
  · exact (hplaced.trans (State.ringsOn_revalidate _)).trans (State.ringsOn_overloadCheck _)
  · exact hplaced.trans (State.ringsOn_overloadCheck _)

theorem State.ringsOn_ownLinesChanged : s.RingsOn s.ownLinesChanged := by
  unfold State.ownLinesChanged
  split
  · exact .refl s
  · exact (State.RingsOn.still (t := s.setTable _)).trans (State.ringsOn_viewChange _ _)

theorem State.ringsOn_endRingWork (n : Line) : s.RingsOn (s.endRingWork n) := by
  have hended : s.RingsOn ((s.setRing n .idle).leaveAccepted n) := (State.RingsOn.setRing (n := n) (r := .idle) rfl).trans .still
  unfold State.endRingWork
  split
  · exact .refl s
  · exact hended
  · unfold State.endClaim
    dsimp only
    split
    · exact hended.trans .still
    · exact hended.trans (State.ringsOn_freeToken _)
  · rename_i o q b hn
    unfold State.releaseLine
    rw [State.setRing_onLine]
    have hstops : s.RingsOn (s.onLine n fun l => { l.immediateFeed s.params.relay with ring := .idle }) := .onLine_stops (by rw [hn]; rfl) rfl
    exact (hstops.trans .still).trans (State.ringsOn_ownLinesChanged _)

theorem State.ringsOn_examineOrder (n : Line) : s.RingsOn (s.examineOrder n) := by
  unfold State.examineOrder State.expire State.defer
  split
  · exact .refl s
  · split
    · split
      · exact .refl s
      · exact (s.ringsOn_endRingWork n).trans .still
    · split
      · split
        · split
          · exact .refl s
          · rename_i o _ _
            exact (State.RingsOn.setRing (n := n) (r := .pending { o with deferred := true }) rfl).trans .still
        all_goals exact .refl s
      · exact .refl s

theorem State.ringsOn_countCycle : s.RingsOn s.countCycle := by
  have hraised : s.RingsOn (s.mapLines fun l => { l with ring := l.ring.mapOrder fun o => { o with elapsed := o.elapsed + 1 } }) := fun m => by
    rw [State.line_mapLines]; exact .mapOrder _ _
  unfold State.countCycle
  exact (hraised.trans (State.RingsOn.byFold State.ringsOn_examineOrder _ _)).trans (State.ringsOn_placementAttempt _)

theorem State.ringsOn_join : s.RingsOn s.join :=
  ((State.RingsOn.still (t := s.setLink .joined 2)).trans (State.ringsOn_placementAttempt _)).trans (State.ringsOn_overloadCheck _)

theorem State.ringsOn_countPeriod : s.RingsOn s.countPeriod := by
  unfold State.countPeriod State.rejoin
  split
  · split
    · exact s.ringsOn_join
    · exact .still
  · split
    · exact (State.RingsOn.still (t := s.setBus _)).trans (State.ringsOn_join _)
    · exact .still
  all_goals exact .refl s

theorem State.ringsOn_ageView : s.RingsOn s.ageView := by
  unfold State.ageView
  dsimp only
  split
  · exact (State.RingsOn.still (t := s.setTable _)).trans (State.ringsOn_viewChange _ _)
  · exact (State.RingsOn.still (t := s.setTable _)).trans (State.ringsOn_overloadCheck _)

/-- Only the directing of relays moves the relays of a line that rings on. -/
theorem State.ringsOn_slotTask (j k : Slot) {x : SlotTask} (hx : x ≠ .direct) : s.RingsOn (s.slotTask j k x) := by
  cases x with
  | direct => exact absurd rfl hx
  | count => rw [State.slotTask_count]; exact s.ringsOn_countCycle
  | age => rw [State.slotTask_age]; exact s.ringsOn_ageView
  | refresh => rw [State.slotTask_refresh]; exact .still
  | link => rw [State.slotTask_link]; exact s.ringsOn_countPeriod

end Operations

/-! ### The directing of relays -/

/-- The request that a boundary brings a line ringing by this mask (R16). -/
def LineState.directed (q : RelayParams) (z : Bool) (j k : Slot) (p : Placement) (fresh : Bool) (l : LineState) : LineState :=
  let wasOn := !fresh && SlotSet.holds p.mask j
  let isOn := SlotSet.holds p.mask k
  if !wasOn && isOn then l.ringRequest q z else if wasOn && !isOn then l.syncedFeed q z else l

theorem LineState.classBoundary_of_ringing (q : RelayParams) (z : Bool) (j k : Slot) {l : LineState} {o : Order} {p : Placement} {b : Bool}
    (hl : l.ring = .ringing o p b) : l.classBoundary q z j k = LineState.directed q z j k p b { l with ring := .ringing o p false } := by
  unfold LineState.classBoundary
  rw [hl]
  rfl

theorem LineState.classBoundary_of_silent (q : RelayParams) (z : Bool) (j k : Slot) {l : LineState} (hl : l.ring.isRinging = false) :
    l.classBoundary q z j k = l := by
  unfold LineState.classBoundary
  split
  · rename_i h; rw [h] at hl; cases hl
  all_goals rfl

theorem LineState.directed_relaysDirected (s : State) (p : Placement) (fresh : Bool) (new : Slot) (l : LineState) :
    RelaysDirected s p fresh new l (l.directed s.params.relay s.cadence.zcLost s.cadence.slot new p fresh) := by
  unfold LineState.directed RelaysDirected SlotSet.holds
  cases fresh <;> cases p.mask.getLsbD s.cadence.slot.val <;> cases p.mask.getLsbD new.val <;>
    simp [LineState.ringRequest_ringRequested, LineState.syncedFeed_feedRequestedSynced]

theorem LineState.directed_ring (q : RelayParams) (z : Bool) (j k : Slot) (p : Placement) (b : Bool) (l : LineState) :
    (l.directed q z j k p b).ring = l.ring := by
  unfold LineState.directed
  dsimp only
  (repeat' split) <;> simp

/-- A request depends on the relays and the trip run alone. -/
theorem LineState.directed_congr (q : RelayParams) (z : Bool) (j k : Slot) (p : Placement) (b : Bool) {l l' : LineState}
    (hrelay : l'.relay = l.relay) (hsense : l'.sense = l.sense) :
    (l'.directed q z j k p b).relay = (l.directed q z j k p b).relay ∧ (l'.directed q z j k p b).sense = (l.directed q z j k p b).sense := by
  obtain ⟨ring, relay, sense, hook, tone, lost⟩ := l
  obtain ⟨ring', relay', sense', hook', tone', lost'⟩ := l'
  cases hrelay
  cases hsense
  unfold LineState.directed
  dsimp only
  split
  · unfold LineState.ringRequest LineState.beginCloseWait LineState.closeRing LineState.openFeed
    cases relay.position <;> dsimp only <;> (repeat' split) <;> exact ⟨rfl, rfl⟩
  · split
    · unfold LineState.syncedFeed LineState.immediateFeed LineState.closeFeed LineState.openRing
      cases hpos : relay.position <;> dsimp only <;> (repeat' split) <;> simp_all
    · exact ⟨rfl, rfl⟩

/-! ### Boundaries inside the cycle -/

/-- A boundary inside the cycle directs the relays and lets a refresh fall due; the two touch different parts, so that their order does not matter. -/
theorem State.boundary_inside (hphase : s.phase = .running) {k : Slot} (hk : k ≠ 0) :
    s.boundary k = ((s.setCadence { s.cadence with slot := k, slotTimer := 0, past := false }).directRelays s.cadence.slot k).refreshFallsDue k := by
  have htasks : (s.setCadence { s.cadence with slot := k, slotTimer := 0, past := false }).slotTasks k = [.direct, .refresh] := by
    simp [State.slotTasks, State.running, hphase, hk]
  have hcommute : ∀ t : State, (t.refreshFallsDue k).directRelays s.cadence.slot k = (t.directRelays s.cadence.slot k).refreshFallsDue k := fun t => by
    unfold State.refreshFallsDue
    split
    · rename_i h; rw [if_pos (by simpa [State.address] using h)]; rfl
    · rename_i h; rw [if_neg (by simpa [State.address] using h)]
  have horders : ∀ i, permute i [SlotTask.direct, .refresh] = [.direct, .refresh] ∨ permute i [SlotTask.direct, .refresh] = [.refresh, .direct] := fun i => by
    rw [permute, permute_singleton]
    rcases i % ([SlotTask.refresh].length + 1) with _ | _ | _
    · exact .inl rfl
    · exact .inr rfl
    · exact .inr rfl
  unfold State.boundary State.slotStart
  rw [htasks]
  rcases horders (s.setCadence { s.cadence with slot := k, slotTimer := 0, past := false }).order.slot with h | h <;> rw [h]
  · rfl
  · exact hcommute _

theorem State.refreshFallsDue_due (s : State) (k : Slot) : (k.val = s.address % 8 → RefreshDue s (s.refreshFallsDue k)) ∧
    (k.val ≠ s.address % 8 → s.refreshFallsDue k = s) := by
  unfold State.refreshFallsDue
  refine ⟨fun h => ?_, fun h => if_neg h⟩
  rw [if_pos h]
  unfold RefreshDue State.refreshInTransmission
  cases s.asm.refresh <;> cases s.bus.attempt <;> simp [RefreshState.onward]

/-- The tasks beside the directing of relays leave lines that ring on, parameters and the zero-cross mark. -/
theorem State.ringsOn_slotTasks (j k : Slot) {ls : List SlotTask} (hls : ∀ y ∈ ls, y ≠ .direct) (s : State) :
    s.RingsOn (ls.foldl (State.slotTask j k) s) ∧ (ls.foldl (State.slotTask j k) s).params = s.params ∧
      (ls.foldl (State.slotTask j k) s).cadence = s.cadence := by
  induction ls generalizing s with
  | nil => exact ⟨.refl s, rfl, rfl⟩
  | cons y ls ih =>
    obtain ⟨h1, h2, h3⟩ := ih (fun z hz => hls z (List.mem_cons_of_mem y hz)) (s.slotTask j k y)
    exact ⟨(s.ringsOn_slotTask j k (hls y List.mem_cons_self)).trans h1, by simpa using h2, by simpa using h3⟩

/-- Settles O12: relays are directed by one task alone, whatever the order of the tasks. -/
theorem boundaryDirectsRelays : Obligations.BoundaryDirectsRelays := by
  refine ⟨fun s hphase h7 => ?_, fun c s hphase hc => ?_⟩
  · have hnext : s.cadence.slot + 1 ≠ 0 := fun h => h7 ((Slot.next_eq_zero_iff _).1 h)
    have hboundary := State.boundary_inside hphase hnext
    have hdue := State.refreshFallsDue_due
      ((s.setCadence { s.cadence with slot := s.cadence.slot + 1, slotTimer := 0, past := false }).directRelays s.cadence.slot (s.cadence.slot + 1))
      (s.cadence.slot + 1)
    have hline : ∀ n, (s.boundary (s.cadence.slot + 1)).line n =
        (s.line n).classBoundary s.params.relay s.cadence.zcLost s.cadence.slot (s.cadence.slot + 1) := fun n => by
      rw [hboundary]
      simp [State.directRelays]
    refine ⟨_, State.run_slotEnd (by rw [hphase]; simp), ?_, fun h => ?_, fun h => ?_, fun n => ⟨fun hn => ?_, fun o p fresh hn => ?_⟩⟩
    · rw [hboundary]
      unfold State.refreshFallsDue
      split <;> rfl
    · rw [hboundary]; exact hdue.1 h
    · rw [hboundary, hdue.2 h]; rfl
    · rw [hline]; exact LineState.classBoundary_of_silent _ _ _ _ hn
    · rw [hline, LineState.classBoundary_of_ringing _ _ _ _ hn]
      exact LineState.directed_relaysDirected s p fresh _ _
  · obtain ⟨x, hlost, hexec⟩ := exec_cycleStart hphase hc
    refine ⟨_, hexec, fun n => ?_⟩
    obtain ⟨pre, post, hsplit⟩ := List.append_of_mem (mem_cycleTasks s .direct)
    have hnodup := cycleTasks_nodup s
    rw [hsplit] at hnodup ⊢
    have hpre : ∀ y ∈ pre, y ≠ SlotTask.direct := fun y hy he => (List.nodup_append.1 hnodup).2.2 y hy _ List.mem_cons_self he
    have hpost : ∀ y ∈ post, y ≠ SlotTask.direct := fun y hy he => (List.nodup_cons.1 (List.nodup_append.1 hnodup).2.1).1 (he ▸ hy)
    rw [List.foldl_append, List.foldl_cons]
    generalize hu : pre.foldl (State.slotTask s.cadence.slot 0) (s.setCadence x) = u
    obtain ⟨hbefore, hparams, hcadence⟩ : (s.setCadence x).RingsOn u ∧ u.params = s.params ∧ u.cadence = x := by
      rw [← hu]
      exact State.ringsOn_slotTasks s.cadence.slot 0 hpre (s.setCadence x)
    obtain ⟨hafter, -, -⟩ := State.ringsOn_slotTasks s.cadence.slot 0 hpost (State.slotTask s.cadence.slot 0 u .direct)
    generalize post.foldl (State.slotTask s.cadence.slot 0) (State.slotTask s.cadence.slot 0 u .direct) = t at hafter
    have hdirected : (State.slotTask s.cadence.slot 0 u .direct).line n =
        (u.line n).classBoundary s.params.relay s.cadence.zcLost s.cadence.slot 0 := by
      rw [State.slotTask_direct, State.directRelays, State.line_mapLines, hparams, hcadence, hlost]
    have hb := hbefore n
    have ha := hafter n
    rw [hdirected] at ha
    refine ⟨fun hn => ?_, fun o o' p p' fresh fresh' hn hn' => ?_⟩
    · have hsilent := hb.silent hn
      rw [LineState.classBoundary_of_silent _ _ _ _ hsilent] at ha
      exact (ha.quiet hsilent).trans (hb.quiet hn)
    · obtain ⟨⟨o₂, h₂⟩, hrelay₂, hsense₂⟩ := ha.rings o' p' fresh' hn'
      cases hring : (u.line n).ring with
      | ringing o₁ p₁ b₁ =>
        rw [LineState.classBoundary_of_ringing _ _ _ _ hring] at h₂ hrelay₂ hsense₂
        rw [LineState.directed_ring] at h₂
        cases h₂
        obtain ⟨⟨o₀, h₀⟩, hrelay₁, hsense₁⟩ := hb.rings o₂ p' b₁ hring
        obtain ⟨-, rfl, rfl⟩ := RingRecord.ringing.inj ((show s.ring n = _ from h₀).symm.trans hn)
        obtain ⟨hr, hs⟩ := LineState.directed_congr s.params.relay s.cadence.zcLost s.cadence.slot 0 p' b₁ (l := s.line n)
          (l' := { u.line n with ring := .ringing o₂ p' false }) hrelay₁ hsense₁
        exact ⟨rfl, rfl, _, LineState.directed_relaysDirected s p' b₁ 0 _, hrelay₂.trans hr, hsense₂.trans hs⟩
      | _ =>
        rw [LineState.classBoundary_of_silent _ _ _ _ (by rw [hring]; rfl), hring] at h₂
        cases h₂

end Sys2Proof.Machine
end

section
/-! SUPPORT. What can become of one line's relays in a command, and that no command takes them from one closed relay straight to the other: O18. -/

namespace Sys2Proof.Machine

variable {s t : State}

/-- A property of relay records that every change of relays keeps, but for a dead time reached. -/
structure RelayClosed (p : RelayParams) (P : RelayRecord → Prop) : Prop where
  feedNow : ∀ l : LineState, P l.relay → P (l.immediateFeed p).relay
  directed : ∀ (l : LineState) (z : Bool) (j k : Slot), P l.relay → P (l.classBoundary p z j k).relay
  switched : ∀ l : LineState, P l.relay → P (l.switchRing p).relay
  window : ∀ r : RelayRecord, P r → P r.afterWindow
  started : ∀ r : RelayRecord, P r → P { r with deadTimer := 0, deadRunning := true }

/-- One line keeps such a property. -/
theorem RelayClosed.moved {p : RelayParams} {P : RelayRecord → Prop} (hP : RelayClosed p P) (hp : s.params.relay = p) (g : s.Moved t) {m : Line}
    (h : P (s.line m).relay) : P (t.line m).relay := by
  refine g.keeps (P := fun l => P l.relay) (fun l l' hmove hl => ?_) h
  rw [hp] at hmove
  cases hmove with
  | shed _ => exact hP.feedNow l hl
  | release _ => exact hP.feedNow l hl
  | direct z j k => exact hP.directed l z j k hl
  | dial => simpa using hl
  | _ => exact hl

/-- Line `m`'s relays have the property, and the relay parameters are those it was closed for. -/
structure State.RelayHas (p : RelayParams) (P : RelayRecord → Prop) (m : Line) (s : State) : Prop where
  params : s.params.relay = p
  relay : P (s.line m).relay

section Commands
variable {p : RelayParams} {P : RelayRecord → Prop} (hP : RelayClosed p P) {m : Line} (h : s.RelayHas p P m)
include h

theorem State.RelayHas.still (hparams : t.params = s.params := by simp) (hrelay : (t.line m).relay = (s.line m).relay := by simp) : t.RelayHas p P m :=
  ⟨by rw [hparams]; exact h.params, by rw [hrelay]; exact h.relay⟩

theorem State.RelayHas.onLine {n : Line} {f : LineState → LineState} (hf : P (s.line n).relay → P (f (s.line n)).relay) : (s.onLine n f).RelayHas p P m := by
  refine ⟨h.params, ?_⟩
  rw [State.line_onLine]
  split
  · subst m; exact hf h.relay
  · exact h.relay

theorem State.RelayHas.mapLines {f : LineState → LineState} (hf : ∀ l : LineState, P l.relay → P (f l).relay) : (s.mapLines f).RelayHas p P m :=
  ⟨h.params, by rw [State.line_mapLines]; exact hf _ h.relay⟩

theorem State.RelayHas.foldl {α : Type} {f : State → α → State} (hf : ∀ (t : State) (a : α), t.RelayHas p P m → (f t a).RelayHas p P m) (ls : List α) :
    (ls.foldl f s).RelayHas p P m := by
  induction ls generalizing s with
  | nil => exact h
  | cons a ls ih => exact ih (hf s a h)

include hP

theorem State.RelayHas.moved (g : s.Moved t) : t.RelayHas p P m := ⟨by rw [g.params]; exact h.params, hP.moved h.params g h.relay⟩

theorem State.RelayHas.countCycle : s.countCycle.RelayHas p P m := by
  have hraised : (s.mapLines fun l => { l with ring := l.ring.mapOrder fun o => { o with elapsed := o.elapsed + 1 } }).RelayHas p P m :=
    h.mapLines fun _ hl => hl
  unfold State.countCycle
  exact hraised.moved hP ((State.Moved.byFold State.moved_examineOrder _ _).trans (State.moved_placementAttempt _))

theorem State.RelayHas.boundary (k : Slot) : (s.boundary k).RelayHas p P m := by
  have hmoved : (s.setCadence { s.cadence with slot := k, slotTimer := 0, past := false }).RelayHas p P m := h.still
  unfold State.boundary State.slotStart
  refine hmoved.foldl (fun t x ht => ?_) _
  by_cases hx : x = .count
  · subst hx
    rw [State.slotTask_count]
    exact ht.countCycle hP
  · exact ht.moved hP (t.moved_slotTask _ _ hx)

theorem State.RelayHas.takeTrip (n : Line) : (s.takeTrip n).RelayHas p P m := by
  unfold State.takeTrip
  split
  · exact h
  · exact State.RelayHas.onLine (h.moved hP ((s.moved_endRingWork n).trans (State.moved_handEvent _ _ _))) id

theorem State.RelayHas.handTrip (n : Line) : (s.handTrip n).RelayHas p P m := by
  unfold State.handTrip
  exact State.RelayHas.takeTrip hP (h.onLine id) n

theorem State.RelayHas.trySeize (n : Line) : (s.trySeize n).RelayHas p P m := by
  unfold State.trySeize State.confirmSeizure
  split
  · exact h.still
  · dsimp only
    split
    · exact h.still
    · exact State.RelayHas.takeTrip hP h.still n

theorem State.RelayHas.superviseWindow (n : Line) (w : Nat) (raw : Option Loop) : (s.superviseWindow n w raw).RelayHas p P m := by
  have hentered : (s.onHook n fun h => { h.advance w with raw := h.raw.enter raw }).RelayHas p P m := h.still
  unfold State.superviseWindow
  split
  · exact h
  · dsimp only
    split
    · split
      · exact hentered.still
      · exact hentered
    · split
      · exact hentered.still
      · rename_i hclosed
        split
        · have htry := State.RelayHas.trySeize hP hentered n
          unfold State.trySeize at htry
          rwa [hclosed] at htry
        · exact hentered
    · exact hentered.still
    · exact hentered.still

theorem State.RelayHas.windowEndOf (w : Nat) (n : Line) : (s.windowEndOf w n).RelayHas p P m := by
  have hsensed : (s.setLine n ((s.line n).senseWindow s.params w)).RelayHas p P m :=
    h.onLine (f := fun l => l.senseWindow s.params w) fun hl => hP.window _ hl
  have hpassed := State.RelayHas.superviseWindow hP hsensed n w
    (rawLoop s.params.threshold (s.line n).relay.windowClass (readingOf (s.line n).sense.counter w))
  have turned : ∀ {t : State} (b : Bool), t.RelayHas p P m → (t.turnLeak n b).RelayHas p P m := fun b ht => ht.still
  unfold State.windowEndOf
  dsimp only
  split
  · refine turned _ ?_
    split
    · exact State.RelayHas.handTrip hP hpassed n
    · exact hpassed
  · split
    · exact State.RelayHas.handTrip hP hpassed n
    · exact hpassed

theorem State.RelayHas.takeMode (w : Notice) (n : Line) : (State.takeMode w s n).RelayHas p P m := by
  unfold State.takeMode
  split
  · exact h.onLine fun hl => by unfold LineState.modeFree LineState.unpark; split <;> exact hl
  · split
    · exact h.onLine fun hl => by unfold LineState.modeInCall; split <;> exact hl
    · exact h.moved hP (State.moved_offerReport _ _)
  · split
    · exact h
    · exact State.RelayHas.onLine (h.moved hP (s.moved_endRingWork n)) id

theorem State.RelayHas.takeOrder (k : OrderKind) (w : Notice) {take : State → Line → State} (ht : ∀ n, (take s n).RelayHas p P m) :
    (State.takeOrder k w take s).RelayHas p P m := by
  unfold State.takeOrder
  split
  · split
    · exact ht _
    · exact h.moved hP (State.moved_offerReport _ _)
  · exact h

omit hP in
theorem State.RelayHas.ordered {act : State → State} (hact : ∀ t : State, t.RelayHas p P m → (act t).RelayHas p P m) : (s.ordered act).RelayHas p P m :=
  ite_keeps (P := State.RelayHas p P m) (fun _ => hact _ h.still) fun _ => h

theorem State.RelayHas.received {act : State → State} (hact : ∀ t : State, t.Moved (act t)) : (s.received act).RelayHas p P m :=
  ite_keeps (P := State.RelayHas p P m) (fun _ => State.RelayHas.moved hP h.still (hact _)) fun _ => h

/-- Every command but the resets and a dead time reached keeps the property. -/
theorem State.RelayHas.run (c : Instr) (hreset : ∀ a l8 cfgp, c ≠ .reset a l8 cfgp) (hheld : c ≠ .resetAsserted) (hring : ∀ n, c ≠ .deadTimeToRing n)
    (hfeed : ∀ n, c ≠ .deadTimeToFeed n) : P ((s.run c).line m).relay := by
  have done {t : State} (ht : t.RelayHas p P m) : P (t.line m).relay := ht.relay
  have cond {c : Prop} [Decidable c] {t : State} (ht : t.RelayHas p P m) : P ((if c then t else s).line m).relay :=
    done (ite_keeps (P := State.RelayHas p P m) (fun _ => ht) fun _ => h)
  have moved {c : Prop} [Decidable c] {t : State} (ht : s.Moved t) : P ((if c then t else s).line m).relay := cond (h.moved hP ht)
  have switched {t : State} (ht : t.RelayHas p P m) : (t.mapLines (LineState.switchRing s.params.relay)).RelayHas p P m :=
    ht.mapLines fun l hl => h.params ▸ hP.switched l hl
  cases c with
  | reset a l8 cfgp => exact absurd rfl (hreset a l8 cfgp)
  | resetAsserted => exact absurd rfl hheld
  | endOfLoading a =>
    refine ite_keeps (P := fun t => P (t.line m).relay) (fun _ => ?_) fun _ => h.relay
    rw [State.beginWork_line]
    split
    · exact hP.started _ (by simpa using h.relay)
    · simpa using h.relay
  | slotEnd => exact cond (h.boundary hP _)
  | cycleMarker =>
    refine ite_keeps (P := fun t => P (t.line m).relay) (c := s.active = true) (fun _ => ?_) fun _ => h.relay
    have htaken : (s.setCadence s.cadence.markerTaken).RelayHas p P m := h.still rfl rfl
    split
    · exact (htaken.boundary hP 0).relay
    · exact htaken.relay
    · exact (htaken.boundary hP 0).relay
  | markerWindowOpens => exact cond h.still
  | markerWindowCloses =>
    exact ite_keeps (P := fun t => P (t.line m).relay) (fun _ => ite_keeps (P := fun t => P (t.line m).relay) (fun _ => h.relay) fun _ => h.relay)
      fun _ => h.relay
  | markerLost => exact cond h.still
  | zeroCrossMark => exact cond (switched h.still)
  | zcLost => exact cond (switched h.still)
  | deadTimeToRing n => exact absurd rfl (hring n)
  | deadTimeToFeed n => exact absurd rfl (hfeed n)
  | zcWaitTimeout n => exact cond (h.onLine fun hl => h.params ▸ hP.switched _ hl)
  | ringExpiry n => exact cond (State.RelayHas.moved hP (h.onLine id) (State.moved_expire _ _))
  | ringDeferral n =>
    show P (State.line (match s.ring n with | .pending o => _ | .idle | .claiming _ _ | .ringing _ _ _ => s) m).relay
    split
    · exact cond (State.RelayHas.moved hP (h.onLine id) (State.moved_defer _ _))
    all_goals exact h.relay
  | entryAgedOut a => exact moved ((State.Moved.setPeer (by simp)).trans (State.moved_viewChange _ _))
  | listenPeriodEnd => exact moved s.moved_join
  | islandedPeriodEnd => exact moved s.moved_rejoin
  | windowEnd =>
    have hbegun : (s.setSense { dither := s.sense.dither + 1, windowTimer := 0 }).RelayHas p P m := h.still
    exact cond (hbegun.foldl (fun _ n ht => ht.windowEndOf hP _ n) _)
  | ringTrip n => exact cond (h.handTrip hP n)
  | leakOn n => exact cond h.still
  | leakOff n => exact cond h.still
  | seizeConfirm n => exact cond (h.trySeize hP n)
  | glitchLimitReached n => exact cond h.still
  | clear n => exact cond h.still
  | interdigitMake n => exact cond h.still
  | permanentLoop n => exact cond h.still
  | stutterAdvance n => exact cond h.still
  | attemptStart =>
    refine ite_keeps (P := fun t => P (t.line m).relay) (c := s.mayAttempt = true) (fun _ => ?_) fun _ => h.relay
    have hprepared := h.moved hP s.moved_prepareNotice
    split
    · exact hprepared.still.relay
    · exact hprepared.relay
  | arbitrationLoss b => exact moved (s.moved_loseAttempt.trans (State.Moved.setBus _ _))
  | clash => exact moved s.moved_clashAttempt
  | islanding =>
    refine ite_keeps (P := fun t => P (t.line m).relay) (c := (s.running && (s.bus.link == .listening || s.bus.link == .joined)) = true)
      (fun _ => ?_) fun _ => h.relay
    split
    · exact (h.moved hP (((s.moved_attemptFailed _).trans (State.moved_discard _)).trans (State.moved_island _))).relay
    · exact (h.moved hP s.moved_island).relay
  | ownNoticeCompletion =>
    show P (State.line (match s.bus.attempt with | some a => _ | none => s) m).relay
    split
    · exact moved (s.moved_completeAttempt _)
    · exact h.relay
  | claimReceived w => exact (h.received hP fun t => t.moved_peerNotice _ _ _ _).relay
  | releaseReceived w => exact (h.received hP fun t => t.moved_peerNotice _ _ _ _).relay
  | refreshReceived w => exact (h.received hP fun t => t.moved_peerNotice _ _ _ _).relay
  | ringOrder w => exact (h.ordered fun t ht => ht.takeOrder hP _ _ fun n => ht.still).relay
  | cancel w => exact (h.ordered fun t ht => ht.takeOrder hP _ _ fun n => ht.moved hP (t.moved_endRingWork n)).relay
  | toneOrder w => exact (h.ordered fun t ht => ht.takeOrder hP _ _ fun n => ht.still).relay
  | modeOrder w => exact (h.ordered fun t ht => ht.takeOrder hP _ _ fun n => ht.takeMode hP w n).relay
  | query w => exact (h.ordered fun t ht => ht.takeOrder hP _ _ fun n => ht.still).relay
  | reportNoticeHeard k w => exact (h.received hP fun t => State.Moved.refl t).relay
  | noticeInvalid => exact (h.received hP fun t => State.Moved.setBus t _).relay
  | receiveFramingError => exact cond h.still
  | receiverIdle => exact cond h.still
  | busHeld => exact cond h.still
  | busHeldClear => exact cond h.still
  | startEdge d b =>
    refine ite_keeps (P := fun t => P (t.line m).relay) (c := (s.running && !s.bus.busHeld && s.bus.byte.isNone) = true) (fun _ => ?_) fun _ => h.relay
    have hedge : s.edgeTaken.RelayHas p P m := h.still
    split
    · exact ite_keeps (P := fun t => P (t.line m).relay) (fun _ => hedge.still.relay) fun _ => hedge.relay
    · exact (hedge.moved hP (State.moved_edgeInNotice _ _ _)).relay
    · exact h.relay
    · exact h.relay
  | sensePulseEdge n => exact cond h.still

end Commands

/-! ### From one closed relay -/

/-- A boundary leaves the relays as they are, or as a ring request or a synced feed request does. -/
theorem LineState.classBoundary_requests {p : RelayParams} {P : RelayRecord → Prop} {l : LineState} {z : Bool} {j k : Slot} (h : P l.relay)
    (hring : P (l.ringRequest p z).relay) (hfeed : P (l.syncedFeed p z).relay) : P (l.classBoundary p z j k).relay := by
  cases hl : l.ring with
  | ringing o q b =>
    rw [LineState.classBoundary_of_ringing _ _ _ _ hl,
      (LineState.directed_congr p z j k q b (l := l) (l' := { l with ring := .ringing o q false }) rfl rfl).1]
    unfold LineState.directed
    dsimp only
    split
    · exact hring
    · split
      · exact hfeed
      · exact h
  | _ => rwa [LineState.classBoundary_of_silent _ _ _ _ (by rw [hl]; rfl)]

/-- The feed relay was closed when the command began, and the ring relay has not closed since. -/
def RelayRecord.FromFeed (r : RelayRecord) : Prop := r.position = .feed ∨ (r.position = .toRing ∧ r.lastOpened = .feed)

/-- The ring relay was closed when the command began, and the feed relay has not closed since. -/
def RelayRecord.FromRing (r : RelayRecord) : Prop :=
  r.position = .ring ∨ ((r.position = .toFeed ∨ r.position = .ringWait) ∧ r.lastOpened = .ring ∧ r.deadTimer = 0)

theorem LineState.immediateFeed_fromFeed (p : RelayParams) {l : LineState} (h : l.relay.FromFeed) : (l.immediateFeed p).relay.FromFeed := by
  rcases h with h | ⟨h, hlast⟩
  · simp [LineState.immediateFeed, RelayRecord.FromFeed, h]
  · simp [LineState.immediateFeed, LineState.closeFeed, RelayRecord.mayCloseFeed, RelayRecord.FromFeed, h, hlast]

theorem LineState.immediateFeed_fromRing {p : RelayParams} (hp : 1 ≤ p.deadTime) {l : LineState} (h : l.relay.FromRing) :
    (l.immediateFeed p).relay.FromRing := by
  rcases h with h | ⟨h | h, hlast, hdead⟩
  · simp [LineState.immediateFeed, LineState.openRing, RelayRecord.FromRing, h]
  · simp [LineState.immediateFeed, RelayRecord.FromRing, h, hlast, hdead]
  · have hnot : l.relay.mayCloseFeed p.deadTime = false := by simp [RelayRecord.mayCloseFeed, hlast, hdead]; omega
    simp [LineState.immediateFeed, LineState.closeFeed, hnot, RelayRecord.FromRing, h, hlast, hdead]

theorem RelayRecord.fromFeed_closed (p : RelayParams) : RelayClosed p RelayRecord.FromFeed where
  feedNow _ h := LineState.immediateFeed_fromFeed p h
  directed l z j k h := by
    refine LineState.classBoundary_requests h ?_ ?_
    · rcases h with hpos | ⟨hpos, hlast⟩
      · simp [LineState.ringRequest, LineState.openFeed, RelayRecord.FromFeed, hpos]
      · simp [LineState.ringRequest, RelayRecord.FromFeed, hpos, hlast]
    · have hfeed := LineState.immediateFeed_fromFeed p h
      rcases h with hpos | ⟨hpos, hlast⟩
      · simp [LineState.syncedFeed, RelayRecord.FromFeed, hpos]
      · simpa [LineState.syncedFeed, hpos] using hfeed
  switched l h := by
    rcases h with hpos | ⟨hpos, hlast⟩
    · simp [LineState.switchRing, RelayRecord.FromFeed, hpos]
    · simp [LineState.switchRing, RelayRecord.FromFeed, hpos, hlast]
  window _ h := h
  started _ h := h

theorem RelayRecord.fromRing_closed {p : RelayParams} (hp : 1 ≤ p.deadTime) : RelayClosed p RelayRecord.FromRing where
  feedNow _ h := LineState.immediateFeed_fromRing hp h
  directed l z j k h := by
    refine LineState.classBoundary_requests h ?_ ?_
    · rcases h with hpos | ⟨hpos | hpos, hlast, hdead⟩
      · simp only [LineState.ringRequest, hpos]
        split <;> exact .inl (by simp [hpos])
      · cases z <;>
          simp [LineState.ringRequest, LineState.beginCloseWait, LineState.closeRing, RelayRecord.mayCloseRing, RelayRecord.FromRing, hpos, hlast, hdead]
      · simp [LineState.ringRequest, RelayRecord.FromRing, hpos, hlast, hdead]
    · have hfeed := LineState.immediateFeed_fromRing hp h
      rcases h with hpos | ⟨hpos | hpos, hlast, hdead⟩
      · simp only [LineState.syncedFeed, hpos]
        split
        · exact .inl hpos
        · split
          · simp [LineState.openRing, RelayRecord.FromRing]
          · exact .inl (by simp)
      · simp [LineState.syncedFeed, RelayRecord.FromRing, hpos, hlast, hdead]
      · simpa [LineState.syncedFeed, hpos] using hfeed
  switched l h := by
    rcases h with hpos | ⟨hpos | hpos, hlast, hdead⟩
    · simp only [LineState.switchRing, hpos]
      split
      · simp [LineState.openRing, RelayRecord.FromRing]
      · exact .inl hpos
    · simp [LineState.switchRing, RelayRecord.FromRing, hpos, hlast, hdead]
    · simp [LineState.switchRing, LineState.closeRing, RelayRecord.mayCloseRing, RelayRecord.FromRing, hpos, hlast]
  window _ h := h
  started r h := by
    rcases h with h | ⟨h, hlast, -⟩
    · exact .inl h
    · exact .inr ⟨h, hlast, rfl⟩

/-- A dead time is reached on a line with both relays open alone. -/
theorem State.deadTime_closed {P : RelayRecord → Prop} {n m : Line} (hserved : P (s.line m).relay)
    (hclosed : (s.line m).relay.position = .feed ∨ (s.line m).relay.position = .ring) :
    P ((s.run (.deadTimeToRing n)).line m).relay ∧ P ((s.run (.deadTimeToFeed n)).line m).relay := by
  have other {x : Position} (hx : (s.line m).relay.position ≠ x) (f : LineState → LineState) :
      P ((if (s.serves n && (s.line n).relay.position == x) = true then s.onLine n f else s).line m).relay := by
    split
    · rename_i hc
      have hne : m ≠ n := by rintro rfl; simp [hx] at hc
      rwa [State.line_onLine, if_neg hne]
    · exact hserved
  exact ⟨other (by rcases hclosed with h | h <;> simp [h]) _, other (by rcases hclosed with h | h <;> simp [h]) _⟩

/-- Settles O18: from a closed relay a command comes as far as both open, and a dead time reached moves only a line that had both open before. -/
theorem noCommandMakesBeforeBreak : Obligations.NoCommandMakesBeforeBreak := by
  intro c s t n hdead hexec
  rw [State.exec_run] at hexec
  cases hexec
  have hreached {P : RelayRecord → Prop} (hP : RelayClosed s.params.relay P) (h : P (s.line n).relay)
      (hclosed : (s.line n).relay.position = .feed ∨ (s.line n).relay.position = .ring) :
      P ((s.run c).line n).relay ∨ ((s.run c).line n).relay.position = .toFeed := by
    cases c with
    | reset a l8 cfgp => exact .inr (congrArg (fun l => l.relay.position) (State.atReset_line _ _ _ _ _ n))
    | resetAsserted => exact .inr (congrArg (fun l => l.relay.position) (State.atReset_line _ _ _ _ _ n))
    | deadTimeToRing k => exact .inl (State.deadTime_closed h hclosed).1
    | deadTimeToFeed k => exact .inl (State.deadTime_closed h hclosed).2
    | _ => exact .inl (State.RelayHas.run hP ⟨rfl, h⟩ _ (by simp) (by simp) (by simp) (by simp))
  refine ⟨fun hfeed => ?_, fun hring => ?_⟩
  · have hpos : (s.line n).relay.position = .feed := by simpa [State.feedClosed] using hfeed
    rcases hreached (RelayRecord.fromFeed_closed _) (.inl hpos) (.inl hpos) with (h | ⟨h, -⟩) | h <;> simp [State.ringClosed, h]
  · have hpos : (s.line n).relay.position = .ring := by simpa [State.ringClosed] using hring
    rcases hreached (RelayRecord.fromRing_closed hdead) (.inl hpos) (.inr hpos) with (h | ⟨h | h, -⟩) | h <;> simp [State.feedClosed, h]

end Sys2Proof.Machine
end

section
/-! SUPPORT. Placement attempts and view changes: O21, O22. -/

namespace Sys2Proof.Machine

open Sys2Proof.Claims

variable {s t : State}

/-! ### The placement attempt (R44, R45) -/

theorem State.pendingPlacement_none {n : Line} : s.pendingPlacement n = none ↔ CannotBePlaced s n := by
  unfold State.pendingPlacement CannotBePlaced
  cases s.ring n <;> simp [placed, State.placementOf]

theorem State.firstPlaceable_none {ls : List Line} (h : ∀ n ∈ ls, CannotBePlaced s n) : s.firstPlaceable ls = none := by
  induction ls with
  | nil => rfl
  | cons n ls ih =>
    unfold State.firstPlaceable
    rw [State.pendingPlacement_none.2 (h n List.mem_cons_self)]
    exact ih fun m hm => h m (List.mem_cons_of_mem n hm)

theorem State.firstPlaceable_first {before after : List Line} {n : Line} {o : Order} {p : Placement} (hbefore : ∀ m ∈ before, CannotBePlaced s m)
    (hn : s.ring n = .pending o) (hp : placed s n o = some p) : s.firstPlaceable (before ++ n :: after) = some (n, p) := by
  induction before with
  | nil =>
    have hplaced : s.pendingPlacement n = some p := by rw [State.pendingPlacement, hn]; exact hp
    rw [List.nil_append, State.firstPlaceable, hplaced]
  | cons m before ih =>
    rw [List.cons_append, State.firstPlaceable, State.pendingPlacement_none.2 (hbefore m List.mem_cons_self)]
    exact ih fun k hk => hbefore k (List.mem_cons_of_mem m hk)

theorem State.placementAttempt_of_idle (h : s.bus.link ≠ .joined ∨ s.sched.token ≠ .free) : s.placementAttempt = s := by
  unfold State.placementAttempt
  rw [if_neg]
  rintro ⟨h1, h2⟩
  exact h.elim (fun h => h h1) fun h => h h2

/-- Settles O21. -/
theorem placementAttemptClaimsFirstFit : Obligations.PlacementAttemptClaimsFirstFit := by
  intro s
  refine ⟨State.placementAttempt_of_idle, fun hnone => ?_, fun before after n o p hjoined hfree haccepted hbefore hn hp => ?_⟩
  · have hpending : ∀ n ∈ s.pendingList, CannotBePlaced s n := fun n hn => hnone n (List.mem_filter.1 hn).1
    unfold State.placementAttempt
    rw [State.firstPlaceable_none hpending]
    exact ite_self s
  · have hlist : s.pendingList = before.filter (fun m => (s.ring m).isPending) ++ n :: after.filter fun m => (s.ring m).isPending := by
      rw [State.pendingList, haccepted, List.filter_append, List.filter_cons, if_pos (by rw [hn]; rfl)]
    have hfirst := State.firstPlaceable_first (after := after.filter fun m => (s.ring m).isPending)
      (fun m (hm : m ∈ before.filter fun m => (s.ring m).isPending) => hbefore m (List.mem_filter.1 hm).1) hn hp
    unfold State.placementAttempt
    rw [if_pos ⟨hjoined, hfree⟩, hlist, hfirst]
    simp only [State.issueClaim, hn]
    rfl

/-! ### What the view derives from its entries (R27 to R29) -/

/-- The smallest of a value and some others. -/
theorem foldl_min_spec (ls : List Nat) (b : Nat) : ls.foldl min b ≤ b ∧ (∀ x ∈ ls, ls.foldl min b ≤ x) ∧ (ls.foldl min b = b ∨ ls.foldl min b ∈ ls) := by
  induction ls generalizing b with
  | nil => simp
  | cons a ls ih =>
    obtain ⟨h1, h2, h3⟩ := ih (min b a)
    rw [List.foldl_cons]
    refine ⟨h1.trans (Nat.min_le_left b a), fun x hx => ?_, ?_⟩
    · rcases List.mem_cons.1 hx with rfl | hx
      · exact h1.trans (Nat.min_le_right b x)
      · exact h2 x hx
    · rcases h3 with h3 | h3
      · rw [h3]
        rcases Nat.le_total b a with hba | hab
        · exact .inl (Nat.min_eq_left hba)
        · exact .inr (by rw [Nat.min_eq_right hab]; exact List.mem_cons_self)
      · exact .inr (List.mem_cons_of_mem a h3)

theorem LoadTable.mem_statedBudgets {b : LoadTable} {x : Nat} :
    x ∈ b.statedBudgets ↔ ∃ (a : PeerAddr) (e : Entry), b.peers[a.val] = some e ∧ e.budget = some x := by
  simp [LoadTable.statedBudgets, allPeers, List.mem_filterMap, Option.bind_eq_some_iff]

theorem LoadTable.sumOver_all (b : LoadTable) (k : Slot) :
    b.sumOver allPeers k = ∑ a : PeerAddr, match b.peers[a.val] with | some e => e.totals[k.val] | none => 0 := by
  unfold LoadTable.sumOver allPeers
  rw [← List.sum_toFinset _ (List.nodup_finRange 24), List.toFinset_finRange]
  rfl

/-- The table after an overload check is derived from its entries if the one before was. -/
theorem State.overloadCheck_derived (h : s.table = s.table.recompute s.params.ring.budget) :
    s.overloadCheck.table = s.overloadCheck.table.recompute s.params.ring.budget := by
  unfold State.overloadCheck
  split
  · split
    · exact h
    · have hparams := (State.shedLines_keeps (s := s) s.linesToShed).2.2.1
      rename_i n rest hls
      rw [hls] at hparams
      simp only [State.placementAttempt_keeps, State.recomputeOwn, State.setTable_table, hparams]
      rfl
  · exact h

/-! ### View changes (R30) -/

/-- The state in which a view change makes its placement attempt. -/
def State.recomputed (s : State) : State := { s with table := s.table.recompute s.params.ring.budget }

/-- A claim not in transmission whose offset fits, or none, is left by re-validation (R49). -/
theorem State.revalidate_of_fits (h : ∀ (n : Line) (o : Order) (p : Placement), s.sched.token = .held n → s.ring n = .claiming o p →
    Fits s.table.shelf s.table.budget (s.params.weight n) p.mask) : s.revalidate = s := by
  unfold State.revalidate
  split
  · rename_i n htoken
    split
    · rfl
    · split
      · rename_i o p hn
        exact if_pos ((fits_iff _ _ _ _).2 (h n o p htoken hn))
      all_goals rfl
  all_goals rfl

/-- A placement fits (R46). -/
theorem placed_fits {n : Line} {o : Order} {p : Placement} (h : placed s n o = some p) : Fits s.table.shelf s.table.budget (s.params.weight n) p.mask :=
  ((placementTakesLowestScore _ _ _ _ _).2 p h).2.1

theorem State.pendingPlacement_of_firstPlaceable {ls : List Line} {n : Line} {p : Placement} (h : s.firstPlaceable ls = some (n, p)) :
    s.pendingPlacement n = some p := by
  induction ls with
  | nil => cases h
  | cons m ls ih =>
    unfold State.firstPlaceable at h
    split at h
    · cases h; assumption
    · exact ih h

/-- A claim just issued needs no second look. -/
theorem State.revalidate_placementAttempt (h : ∀ n, s.sched.token ≠ .held n) : s.placementAttempt.revalidate = s.placementAttempt := by
  refine State.revalidate_of_fits fun n o p htoken hn => ?_
  have hsame : ∀ u : State, u = s → u.sched.token = .held n → False := fun u hu ht => h n (hu ▸ ht)
  simp only [State.placementAttempt_keeps]
  unfold State.placementAttempt at htoken hn
  split at htoken
  · rename_i hc
    rw [if_pos hc] at hn
    split at htoken
    · rename_i m q hfirst
      have hplaced := State.pendingPlacement_of_firstPlaceable hfirst
      rw [hfirst] at hn
      unfold State.pendingPlacement at hplaced
      unfold State.issueClaim at htoken hn
      split at hplaced
      · rename_i o' ho'
        simp only [ho'] at htoken hn
        cases htoken
        simp only [State.setToken_ring, State.ring_setRing_same] at hn
        cases hn
        exact placed_fits hplaced
      all_goals cases hplaced
    · exact (hsame _ rfl htoken).elim
  · exact (hsame _ rfl htoken).elim

theorem State.claimInTransmission_iff : s.claimInTransmission = true ↔ ∃ (b : Attempt) (m : Line), s.bus.attempt = some b ∧ b.sent = .claim m := by
  unfold State.claimInTransmission
  cases s.bus.attempt with
  | none => simp
  | some a => cases hsent : a.sent <;> simp [hsent]

theorem State.viewChange_eq (s : State) (b : Bool) :
    s.viewChange b = (if b = true ∨ (s.table.recompute s.params.ring.budget).budget < s.table.budget then s.recomputed.placementAttempt.revalidate
      else s.recomputed.placementAttempt).overloadCheck := by
  have hbudget : s.recomputed.placementAttempt.table.budget = (s.table.recompute s.params.ring.budget).budget := by simp [State.recomputed]
  have hcond : (b || decide (s.recomputed.placementAttempt.table.budget < s.table.budget)) = true ↔
      (b = true ∨ (s.table.recompute s.params.ring.budget).budget < s.table.budget) := by rw [hbudget]; simp
  unfold State.viewChange
  exact congrArg State.overloadCheck (if_congr hcond rfl rfl)

theorem State.viewChange_derived (s : State) (b : Bool) : (s.viewChange b).table = (s.viewChange b).table.recompute s.params.ring.budget := by
  rw [State.viewChange_eq]
  split
  · have h := State.overloadCheck_derived (s := s.recomputed.placementAttempt.revalidate) (by simp [State.recomputed]; rfl)
    simpa [State.recomputed] using h
  · have h := State.overloadCheck_derived (s := s.recomputed.placementAttempt) (by simp [State.recomputed]; rfl)
    simpa [State.recomputed] using h

/-- A claim is held: the placement attempt of a view change does nothing. -/
theorem State.placementAttempt_of_held {n : Line} (h : s.sched.token = .held n) : s.placementAttempt = s :=
  State.placementAttempt_of_idle (.inr (by rw [h]; simp))

/-- A held claim not in transmission whose offset no longer fits is placed afresh (R50). -/
theorem State.revalidate_of_not_fits {n : Line} {o : Order} {p : Placement} (htoken : s.sched.token = .held n) (hn : s.ring n = .claiming o p)
    (hfree : s.claimInTransmission = false) (hfits : ¬ Fits s.table.shelf s.table.budget (s.params.weight n) p.mask) : s.revalidate = s.replaceClaim n o := by
  have hnot : fits s.table.shelf s.table.budget (s.params.weight n) p.mask = false := Bool.eq_false_iff.2 fun h => hfits ((fits_iff _ _ _ _).1 h)
  unfold State.revalidate
  rw [htoken]
  simp only [hfree, hn, hnot]
  rfl

theorem State.revalidate_of_transmission (h : s.claimInTransmission = true) : s.revalidate = s := by
  unfold State.revalidate
  split
  · rw [if_pos h]
  all_goals rfl

/-- Settles O22: the derived quantities from the law of recomputation, the held claim by the cases of re-validation. -/
theorem viewChangeRecomputesTheView : Obligations.ViewChangeRecomputesTheView := by
  intro s byPeer
  have hv := ViewChanged.viewChange s byPeer
  have hderived := s.viewChange_derived byPeer
  have hwhole := s.viewChange_eq byPeer
  refine ⟨_, rfl, hv.only, hv.loops, hv.peers, hv.accepted, hv.core, fun k => ?_, ?_, fun a e b ha hb => ?_, ?_, ?_, fun hnot => ?_,
    fun n o p htoken hn => ?_⟩
  · refine Eq.trans ?_ (congrArg (fun x => (s.viewChange byPeer).table.own[k.val] + x) (LoadTable.sumOver_all _ k))
    conv_lhs => rw [hderived]
    simp [LoadTable.recompute, LoadTable.shelfTotals]
  · rw [hderived]
    exact (foldl_min_spec _ _).1
  · rw [hderived]
    exact (foldl_min_spec _ _).2.1 b (LoadTable.mem_statedBudgets.2 ⟨a, e, ha, hb⟩)
  · rw [hderived]
    exact (foldl_min_spec _ _).2.2.imp id LoadTable.mem_statedBudgets.1
  · conv_lhs => rw [hderived]
    simp only [LoadTable.recompute, LoadTable.budgetMismatch, List.any_eq_true, LoadTable.mem_statedBudgets, bne_iff_ne]
    constructor
    · rintro ⟨b, ⟨a, e, ha, hb⟩, hne⟩; exact ⟨a, e, b, ha, hb, hne⟩
    · rintro ⟨a, e, b, ha, hb, hne⟩; exact ⟨b, ⟨a, e, ha, hb⟩, hne⟩
  · rw [hwhole, State.revalidate_placementAttempt (s := s.recomputed) hnot, ite_self]
    rfl
  · have hheld : s.recomputed.placementAttempt = s.recomputed := State.placementAttempt_of_held htoken
    rw [hheld] at hwhole
    have hstands : s.recomputed.revalidate = s.recomputed → s.viewChange byPeer = s.recomputed.overloadCheck := fun h => by rw [hwhole, h, ite_self]
    refine ⟨fun hsent => ?_, fun hown hbudget => ?_, fun hfits => ?_, fun hfree htest hfits => ?_⟩
    · exact hstands (State.revalidate_of_transmission (State.claimInTransmission_iff.2 hsent))
    · have hkept : ¬ (byPeer = true ∨ (s.table.recompute s.params.ring.budget).budget < s.table.budget) := by
        rintro (h | h)
        · rw [hown] at h; cases h
        · exact absurd h (Nat.not_lt.2 hbudget)
      rw [hwhole, if_neg hkept]
      rfl
    · refine hstands (State.revalidate_of_fits fun n' o' p' htoken' hn' => ?_)
      cases htoken.symm.trans htoken'
      cases hn.symm.trans hn'
      exact hfits
    · have hidle : s.recomputed.claimInTransmission = false := Bool.eq_false_iff.2 fun h => by
        obtain ⟨b, m, hb, hsent⟩ := State.claimInTransmission_iff.1 h
        exact hfree b m hb hsent
      rw [hwhole, if_pos htest, State.revalidate_of_not_fits (s := s.recomputed) htoken hn hidle hfits]
      unfold State.replaceClaim
      refine ⟨fun q hq => ?_, fun hnone => ?_⟩
      · rw [show s.recomputed.placementOf n o = some q from hq]
        rfl
      · rw [show s.recomputed.placementOf n o = none from hnone]
        rfl

end Sys2Proof.Machine
end

section
/-! SUPPORT. Orders: the checks they pass, and RING, CANCEL, expiry, deferral and trips: O24 to O28. -/

namespace Sys2Proof.Machine

open Sys2Proof.Claims

variable {s t : State}

/-! ### The state in which an order is taken -/

theorem inUse_eq (s : State) (n : Line) : s.inUse n = decide (n.val < 4 ∨ s.straps.l8 = true) := by
  have hn := n.isLt
  unfold State.inUse State.lineCount
  cases s.straps.l8 <;> simp [hn]

section Heard
variable (s : State)

@[simp] theorem heard_line (n : Line) : (Heard s).line n = s.line n := by unfold Heard; split <;> rfl
@[simp] theorem heard_ring (n : Line) : (Heard s).ring n = s.ring n := by unfold Heard; split <;> rfl
@[simp] theorem heard_params : (Heard s).params = s.params := by unfold Heard; split <;> rfl
@[simp] theorem heard_straps : (Heard s).straps = s.straps := by unfold Heard; split <;> rfl
@[simp] theorem heard_phase : (Heard s).phase = s.phase := by unfold Heard; split <;> rfl
@[simp] theorem heard_sched : (Heard s).sched = s.sched := by unfold Heard; split <;> rfl
@[simp] theorem heard_table : (Heard s).table = s.table := by unfold Heard; split <;> rfl
@[simp] theorem heard_asm : (Heard s).asm = s.asm := by unfold Heard; split <;> rfl
@[simp] theorem heard_link : (Heard s).bus.link = s.bus.link := by unfold Heard; split <;> rfl
@[simp] theorem heard_address : (Heard s).address = s.address := by simp [State.address]
@[simp] theorem heard_inUse (n : Line) : (Heard s).inUse n = s.inUse n := by simp [inUse_eq]

end Heard

/-- What an order of each kind does on its line. -/
def takeOf (kind : OrderKind) (w : Notice) : State → Line → State :=
  match kind with
  | .ring => State.takeRing w
  | .cancel => State.endRingWork
  | .tone => State.takeTone w
  | .mode => State.takeMode w
  | .query => fun t n => t.offerReport (.state n false)

theorem exec_orderCommand (h : Hearing s) (kind : OrderKind) (w : Notice) :
    exec (orderCommand kind w) s = .next (State.takeOrder kind w (takeOf kind w) (Heard s)) := by
  cases kind <;> exact congrArg Host.Outcome.next (State.ordered_eq h _)

/-- An order for the own station that names a line in use is run for that line (R158). -/
theorem exec_orderCommand_taken (h : Hearing s) (kind : OrderKind) {w : Notice} {n : Line} (h1 : 48 ≤ w.sender.toNat) (h2 : w.sender.toNat ≤ 55)
    (hhead : w.payload.head?.map BitVec.toNat = some s.address) (hlength : w.payload.length = kind.length) (hfields : fieldsOk kind w = true)
    (hn : field w 1 = n.val) (huse : s.inUse n = true) : exec (orderCommand kind w) s = .next (takeOf kind w (Heard s) n) := by
  rw [exec_orderCommand h, State.takeOrder_eq h1 h2 (by simpa using hhead) hlength hfields hn (by simpa using huse)]

/-! ### The checks (R157, R158) -/

theorem orderLength_eq (kind : OrderKind) : orderLength kind = kind.length := by cases kind <;> rfl

theorem fieldsOk_iff (kind : OrderKind) (w : Notice) : fieldsOk kind w = true ↔ orderFieldsOk kind w := by
  cases kind <;> simp [fieldsOk, orderFieldsOk, field]

theorem orderForUs_iff (w : Notice) : s.orderForUs w = true ↔
    48 ≤ w.sender.toNat ∧ w.sender.toNat ≤ 55 ∧ ∃ b : Byte, w.payload.head? = some b ∧ b.toNat = s.address := by
  simp [State.orderForUs, Notice.fromControlStation, and_assoc]

/-- The line byte of an order of the right length stands in its payload. -/
theorem lineByte_of_length {kind : OrderKind} {w : Notice} (h : w.payload.length = kind.length) : lineByte w = w.payload.getD 1 0#8 := by
  have hlong : 1 < w.payload.length := by rw [h]; cases kind <;> decide
  unfold lineByte
  rw [List.getD_eq_getElem _ _ hlong, List.getD_eq_getElem _ _ hlong]

/-- Settles O25: the checks of R157 and R158, in their order. -/
theorem ordersAreCheckedForTargetFormAndLine : Obligations.OrdersAreCheckedForTargetFormAndLine := by
  intro s kind w hhearing
  refine ⟨fun hforeign => ?_, fun h1 h2 htarget => ?_⟩
  · rw [exec_orderCommand hhearing]
    have hnot : ¬ (Heard s).orderForUs w = true := by
      rw [orderForUs_iff]
      rintro ⟨h1, h2, b, hb, ha⟩
      rw [heard_address] at ha
      rcases hforeign with h | h | h | ⟨c, hc, h⟩
      · omega
      · omega
      · rw [h] at hb; cases hb
      · rw [hc] at hb; cases hb; exact h ha
    exact congrArg Host.Outcome.next (if_neg hnot)
  · have hours : (Heard s).orderForUs w = true := (orderForUs_iff w).2 ⟨h1, h2, by simpa using htarget⟩
    have hrefused (r : Reason) (hcheck : (Heard s).checkOrder kind w = .error r) :
        exec (orderCommand kind w) s = .next ((Heard s).refuse kind w r) := by
      rw [exec_orderCommand hhearing, State.takeOrder, if_pos hours, hcheck]
    refine ⟨fun hbad => ⟨_, hrefused .badOrder ?_, State.offerReport_offered _ _⟩, fun hlength hfields hbad => ⟨_, hrefused .badLine ?_, ?_⟩⟩
    · refine if_neg fun ⟨hl, hf⟩ => ?_
      rw [← orderLength_eq] at hl
      exact hbad.elim (fun h => h hl) fun h => h ((fieldsOk_iff kind w).1 hf)
    · have hform : w.payload.length = kind.length ∧ fieldsOk kind w = true := ⟨by rw [hlength, orderLength_eq], (fieldsOk_iff kind w).2 hfields⟩
      unfold State.checkOrder
      rw [if_pos hform]
      split
      · rename_i h8
        rw [if_neg]
        have hfield : 8 ≤ field w 1 ∨ (4 ≤ field w 1 ∧ s.straps.l8 = false) := hbad
        rw [heard_inUse, inUse_eq]
        rcases hfield with h | ⟨h, hl8⟩
        · omega
        · simp [hl8, Nat.not_lt.2 h]
      · rfl
    · rw [← lineByte_of_length (hlength.trans (orderLength_eq kind))]
      exact State.offerReport_offered _ _

/-! ### RING (R43, R158, R159) -/

/-- Settles O24: the checks of R159 in their order. -/
theorem ringOrderIsTakenByItsChecks : Obligations.RingOrderIsTakenByItsChecks := by
  intro s w n k limit hserves hhearing h1 h2 hlimit hpayload
  have hk : ((BitVec.ofNat 8 k.val).toNat) = k.val := by simp; omega
  have hl : ((BitVec.ofNat 8 limit).toNat) = limit := by simp; omega
  have hn : ((BitVec.ofNat 8 n.val).toNat) = n.val := by simp; omega
  have haddress : (BitVec.ofNat 8 s.address).toNat = s.address := by
    have := s.straps.address.isLt
    simp [State.address]; omega
  have hpattern : Fin.ofNat 8 (field w 2) = k := by
    have hfield : field w 2 = k.val := by simp only [field, hpayload]; exact hk
    rw [hfield]; exact Fin.ext (Nat.mod_eq_of_lt k.isLt)
  have hfield3 : field w 3 = limit := by simp only [field, hpayload]; exact hl
  have hline : lineByte w = BitVec.ofNat 8 n.val := by simp [lineByte, hpayload]
  have htaken : exec (.ringOrder w) s = .next (State.takeRing w (Heard s) n) :=
    exec_orderCommand_taken hhearing .ring h1 h2 (by rw [hpayload]; exact congrArg some haddress) (by rw [hpayload]; rfl)
      ((fieldsOk_iff _ _).2 ⟨by rw [hpayload]; exact hk.trans_le (by omega), by rw [hpayload]; exact hl.trans_le hlimit⟩)
      (by simp only [field, hpayload]; exact hn) (State.phase_of_serves hserves).2
  have hrefused (r : Reason) (h : State.takeRing w (Heard s) n = (Heard s).refuse .ring w r) :
      ∃ t, exec (.ringOrder w) s = .next t ∧ Offered (Heard s) (.refusal (BitVec.ofNat 8 n.val) .ring r) t :=
    ⟨_, htaken.trans (congrArg Host.Outcome.next h), by rw [← hline]; exact State.offerReport_offered _ _⟩
  unfold State.takeRing at hrefused htaken
  simp only [hpattern, hfield3, heard_line, heard_params] at hrefused htaken
  refine ⟨fun hparked => hrefused _ (if_pos hparked), fun hmode hempty => hrefused _ ((if_neg hmode).trans (if_pos hempty)),
    fun hmode hempty hbusy => hrefused _ ((if_neg hmode).trans ((if_neg hempty).trans (if_pos hbusy))), fun hmode hempty hstate => ?_⟩
  have hfree : ¬ ((s.line n).hook.state = .offHook ∨ (s.line n).hook.state = .brk) := by rcases hstate with h | h <;> simp [h]
  rw [if_neg hmode, if_neg hempty, if_neg hfree] at hrefused htaken
  refine ⟨fun o ho hsame => ?_, fun o ho hother => hrefused _ ?_, fun hidle => ?_⟩
  · rw [htaken, ho]; simp [hsame]
  · rw [ho]; simp [hother]
  · rw [htaken, hidle]
    refine congrArg (fun x => Host.Outcome.next (State.placementAttempt x)) ?_
    simp [State.setRing, State.onLine, State.setSched]

/-! ### Expiry, deferral and trips -/

theorem State.setRing_setRing (s : State) (n : Line) (r r' : RingRecord) : (s.setRing n r).setRing n r' = s.setRing n r' := by
  unfold State.setRing
  rw [State.onLine_onLine]

theorem LineState.immediateFeed_withRing (p : RelayParams) (l : LineState) (r : RingRecord) :
    ({ l with ring := r } : LineState).immediateFeed p = { l.immediateFeed p with ring := r } := by
  unfold LineState.immediateFeed LineState.openRing LineState.closeFeed
  cases l.relay.position <;> dsimp only <;> split <;> rfl

theorem State.setLine_line (s : State) (n : Line) : s.setLine n (s.line n) = s := by
  unfold State.setLine State.line
  rw [Vector.set_getElem_self]

/-- Ring work ends in the same way whatever the order holds. -/
theorem State.endRingWork_mapOrder (s : State) (n : Line) (f : Order → Order) : (s.setRing n ((s.ring n).mapOrder f)).endRingWork n = s.endRingWork n := by
  have hsame : s.ring n = .idle → s.setRing n .idle = s := fun h => by
    unfold State.ring at h
    unfold State.setRing State.onLine
    rw [← h]
    exact s.setLine_line n
  unfold State.endRingWork
  rw [State.ring_setRing_same]
  cases hn : s.ring n with
  | idle => exact hsame hn
  | pending o => dsimp only [RingRecord.mapOrder]; rw [State.setRing_setRing]
  | claiming o p =>
    dsimp only [RingRecord.mapOrder]
    unfold State.endClaim
    rw [State.setRing_setRing]
    rfl
  | ringing o p b =>
    dsimp only [RingRecord.mapOrder]
    have hfeed : ((s.setRing n (.ringing (f o) p b)).onLine n (LineState.immediateFeed s.params.relay)).setRing n .idle =
        (s.onLine n (LineState.immediateFeed s.params.relay)).setRing n .idle := by
      rw [State.setRing_onLine, State.setRing_onLine, State.setRing, State.onLine_onLine]
      simp only [LineState.immediateFeed_withRing]
    unfold State.releaseLine
    exact congrArg (fun t => (((t.leaveCommits n).leaveAccepted n).oweRelease n).ownLinesChanged) hfeed

/-- Settles O27. -/
theorem ordersExpireAndReportDeferral : Obligations.OrdersExpireAndReportDeferral := by
  intro s n o hserves
  refine ⟨fun ho => ?_, fun hn hlimit hdeferred => ?_⟩
  · refine ⟨_, _, s.endRingWork_ended n, State.handEvent_handed _ n _, congrArg Host.Outcome.next ((if_pos hserves).trans ?_)⟩
    have horder : ((s.setRing n ((s.ring n).mapOrder fun o => { o with elapsed := o.limit })).ring n).order? = some { o with elapsed := o.limit } := by
      rw [State.ring_setRing_same]
      cases hr : s.ring n <;> rw [hr] at ho <;> cases ho <;> rfl
    unfold State.expire
    rw [horder, State.endRingWork_mapOrder]
  · refine ⟨_, State.handEvent_handed _ n _, ?_⟩
    show Host.Outcome.next (match s.ring n with | .pending o => _ | .idle | .claiming _ _ | .ringing _ _ _ => s) = _
    rw [hn]
    refine congrArg Host.Outcome.next ((if_pos ⟨hserves, hlimit, hdeferred⟩).trans ?_)
    unfold State.defer
    rw [State.ring_setRing_same]
    dsimp only
    rw [if_neg (by rw [hdeferred]; simp), State.setRing_setRing]
    rfl

/-- A trip as R59, R76 and R77 have it. -/
theorem State.takeTrip_tripped (s : State) {n : Line} {place : TripPlace} (h : (s.line n).tripPlace = some place) : Tripped s n place (s.takeTrip n) := by
  refine ⟨_, _, s.endRingWork_ended n, State.handEvent_handed _ n _, ?_⟩
  unfold State.takeTrip
  rw [h]
  rfl

/-- Settles O28. -/
theorem tripIsTakenByRingState : Obligations.TripIsTakenByRingState := by
  intro s n hserves
  have htrip : exec (.ringTrip n) s =
      .next ((s.setLine n { s.line n with sense := { (s.line n).sense with tripRun := 0 } }).takeTrip n) :=
    congrArg Host.Outcome.next (if_pos hserves)
  rw [htrip]
  have hplace : ((s.setLine n { s.line n with sense := { (s.line n).sense with tripRun := 0 } }).line n).tripPlace = (s.line n).tripPlace := by
    rw [State.line_setLine_same]; rfl
  refine ⟨fun hn => ?_, fun o hn => ?_, fun o p hn => ?_, fun o p b hn => ?_⟩
  · have hnone : (s.line n).tripPlace = none := by unfold LineState.tripPlace; rw [show (s.line n).ring = _ from hn]
    unfold State.takeTrip
    rw [hplace, hnone]
  all_goals
    refine ⟨_, State.takeTrip_tripped _ ?_, rfl⟩
    rw [hplace]
    unfold LineState.tripPlace
    rw [show (s.line n).ring = _ from hn]
  simp [State.ringClosed]

end Sys2Proof.Machine
end

section
/-! SUPPORT. A change of the own lines that leaves every slot within its allowance sheds nothing; CANCEL and the commit of a claim bring such changes: O26, O29. -/

namespace Sys2Proof.Machine

open Sys2Proof.Claims

variable {s t : State}

/-! ### Changes of the own lines that shed nothing -/

/-- The view with the own totals formed afresh is within allowance: the change of the own lines comes to a placement attempt on it. -/
theorem State.RingLags.ownLinesChanged_quiet (h : s.RingLags) (hwithin : s.bus.link = .joined → ∀ k, s.recomputeOwn.overAllowance k = none) :
    s.ownLinesChanged = if s.ownTotals = s.table.own then s else s.recomputeOwn.placementAttempt := by
  unfold State.ownLinesChanged
  split
  · rfl
  · have hbudget : s.table.budget = s.table.effectiveBudget s.params.ring.budget := congrArg LoadTable.budget h.derived
    have hkept : ¬ (false = true ∨ (({ s.table with own := s.ownTotals } : LoadTable).recompute s.params.ring.budget).budget < s.table.budget) := by
      rw [hbudget]
      exact fun hc => hc.elim (fun h => by cases h) fun h => Nat.lt_irrefl _ h
    have hover : ∀ k, s.bus.link = .joined → s.recomputeOwn.placementAttempt.overAllowance k = none := fun k hj => by
      rw [State.overAllowance_congr (s := s.recomputeOwn) (by simp) (by simp)]; exact hwithin hj k
    refine (State.viewChange_eq _ _).trans ((congrArg State.overloadCheck (if_neg hkept)).trans ?_)
    show s.recomputeOwn.placementAttempt.overloadCheck = _
    unfold State.overloadCheck
    split
    · rename_i hj
      rw [State.linesToShed_of_relieved fun k => hover k (by simpa using hj)]
    · rfl

/-- Own totals that have only fallen leave every slot within its allowance. -/
theorem State.RingLags.fallen_within (h : s.RingLags) (hle : ∀ k : Slot, s.ownTotals[k.val] ≤ s.table.own[k.val]) (hj : s.bus.link = .joined) (k : Slot) :
    s.recomputeOwn.overAllowance k = none := by
  have hbudget : s.table.budget = s.table.effectiveBudget s.params.ring.budget := congrArg LoadTable.budget h.derived
  have hshelf : s.table.shelf[k.val] = s.table.own[k.val] + s.table.sumOver allPeers k := by
    conv_lhs => rw [h.derived]
    simp [LoadTable.recompute, LoadTable.shelfTotals]
  refine State.overAllowance_relieved (s := s) ?_ ?_ ?_ (hle k) fun allowed hallowed => ?_
  · rw [hbudget]; rfl
  · unfold State.allowance State.address
    rw [hbudget]; rfl
  · rw [hshelf]
    simp only [State.recomputeOwn, State.setTable_table, LoadTable.recompute, LoadTable.shelfTotals, Vector.getElem_ofFn]
    exact Nat.add_le_add_right (hle k) _
  · rw [h.within hj k] at hallowed; cases hallowed

/-- Reports and events-lost flags stand. -/
structure State.ReportsKept (s t : State) : Prop where
  asm : t.asm.queue = s.asm.queue
  lost : ∀ m, (t.line m).eventsLost = (s.line m).eventsLost

theorem State.ReportsKept.trans {u : State} (h : s.ReportsKept t) (g : t.ReportsKept u) : s.ReportsKept u :=
  ⟨g.asm.trans h.asm, fun m => (g.lost m).trans (h.lost m)⟩

theorem State.ReportsKept.still (hasm : t.asm.queue = s.asm.queue := by simp) (hlost : ∀ m, (t.line m).eventsLost = (s.line m).eventsLost := by simp) :
    s.ReportsKept t := ⟨hasm, hlost⟩

/-- A RINGING line is released, the own totals having still to follow (R57). -/
def State.silenced (s : State) (n : Line) : State :=
  ((((s.onLine n (LineState.immediateFeed s.params.relay)).setRing n .idle).leaveCommits n).leaveAccepted n).oweRelease n

/-- With sound lists and view the release of a line sheds nothing. -/
theorem State.RingSound.releaseLine_quiet (h : s.RingSound) {n : Line} {o : Order} {q : Placement} {b : Bool} (hn : s.ring n = .ringing o q b) :
    s.releaseLine n = s.silenced n ∨ s.releaseLine n = (s.silenced n).recomputeOwn.placementAttempt := by
  have hlags : (s.silenced n).RingLags := h.lags (h.sched.release hn)
  have hfallen : ∀ k : Slot, (s.silenced n).ownTotals[k.val] ≤ s.table.own[k.val] := fun k => by
    rw [h.view.own, State.ownTotals_masks, State.ownTotals_masks]
    refine Finset.sum_le_sum fun m _ => ?_
    simp only [State.silenced, State.oweRelease_ring, State.leaveAccepted_ring, State.leaveCommits_ring, State.ring_setRing, State.ring_onLine]
    by_cases hm : m = n
    · simp [hm, RingRecord.ringingMask, maskLoad]
    · simp [hm]
  have hquiet := hlags.ownLinesChanged_quiet (hlags.fallen_within hfallen)
  by_cases hown : (s.silenced n).ownTotals = (s.silenced n).table.own
  · exact .inl (hquiet.trans (if_pos hown))
  · exact .inr (hquiet.trans (if_neg hown))

/-- With sound lists and view the end of ring work reports nothing. -/
theorem State.RingSound.endRingWork_reportsKept (h : s.RingSound) (n : Line) : s.ReportsKept (s.endRingWork n) := by
  unfold State.endRingWork
  split
  · exact .still
  · exact .still
  · unfold State.endClaim
    dsimp only
    split
    · exact .still
    · exact .still
  · rename_i o q b hn
    have hreleased : s.ReportsKept (s.silenced n) := by
      unfold State.silenced
      exact .still
    rcases h.releaseLine_quiet hn with hquiet | hquiet
    · rw [hquiet]; exact hreleased
    · rw [hquiet]; exact hreleased.trans .still

/-- Settles O26. -/
theorem cancelEndsRingWork : Obligations.CancelEndsRingWork := by
  intro s w n hserves hhearing h1 h2 hpayload
  have hn : (BitVec.ofNat 8 n.val).toNat = n.val := by simp; omega
  have haddress : (BitVec.ofNat 8 s.address).toNat = s.address := by
    have := s.straps.address.isLt
    simp [State.address]; omega
  have htaken : exec (.cancel w) s = .next ((Heard s).endRingWork n) :=
    exec_orderCommand_taken hhearing .cancel h1 h2 (by rw [hpayload]; exact congrArg some haddress) (by rw [hpayload]; rfl) rfl
      (by simp only [field, hpayload]; exact hn) (State.phase_of_serves hserves).2
  refine ⟨_, htaken, State.endRingWork_ended _ n, fun hsched hview hwithin => ?_⟩
  have hsound : (Heard s).RingSound := State.RingSame.sound .still ⟨hsched, hview, hwithin⟩
  have hkept := hsound.endRingWork_reportsKept n
  exact ⟨by simpa using hkept.asm, fun m => by simpa using hkept.lost m⟩

end Sys2Proof.Machine
end

section
/-! SUPPORT. Peer notices, the completion of an own notice, and the ends of the link's periods: O29 to O34. -/

namespace Sys2Proof.Machine

open Sys2Proof.Claims

variable {s t : State}

/-! ### Peer notices (R19 to R21, R157) -/

theorem totalsOk_iff (t : Totals) : totalsOk t = true ↔ TotalsInRange t := by
  simp [totalsOk, TotalsInRange, allSlots]

theorem State.peerOf_own {w : Notice} (h : 24 ≤ w.sender.toNat ∨ w.sender.toNat = s.address) : s.peerOf w = none := by
  unfold State.peerOf
  rcases h with h | h
  · rw [dif_neg (Nat.not_lt.2 h)]
  · split <;> simp [h]

theorem State.peerOf_peer {w : Notice} {a : PeerAddr} (ha : w.sender.toNat = a.val) (hne : a.val ≠ s.address) : s.peerOf w = some a := by
  unfold State.peerOf
  rw [dif_pos (ha ▸ a.isLt), if_neg (ha ▸ hne)]
  exact congrArg some (Fin.ext ha)

/-- A peer notice that passes the checks of R157 is applied. -/
theorem State.peerNotice_applied {w : Notice} {a : PeerAddr} {length totalsAt : Nat} {budgetAt : Option Nat} (ha : w.sender.toNat = a.val)
    (hne : a.val ≠ s.address) (hlength : w.payload.length = length) (htotals : TotalsInRange (carriedTotals w.payload totalsAt))
    (hbudget : (budgetAt.map (field w)).all budgetOk = true) :
    s.peerNotice w length totalsAt budgetAt = s.applyEntry a (carriedTotals w.payload totalsAt) (budgetAt.map (field w)) := by
  unfold State.peerNotice
  rw [State.peerOf_peer ha hne]
  exact if_pos ⟨hlength, (totalsOk_iff _).2 htotals, hbudget⟩

/-- A peer notice that fails a check of R157 is counted in error. -/
theorem State.peerNotice_counted {w : Notice} {length totalsAt : Nat} {budgetAt : Option Nat} (h24 : w.sender.toNat < 24)
    (hne : w.sender.toNat ≠ s.address) (hbad : ¬ (w.payload.length = length ∧ TotalsInRange (carriedTotals w.payload totalsAt) ∧
      (budgetAt.map (field w)).all budgetOk = true)) : s.peerNotice w length totalsAt budgetAt = s.countError := by
  unfold State.peerNotice
  rw [State.peerOf_peer (a := ⟨w.sender.toNat, h24⟩) rfl hne]
  exact if_neg fun ⟨hl, ht, hb⟩ => hbad ⟨hl, (totalsOk_iff _).1 ht, hb⟩

theorem State.peerNotice_ignored {w : Notice} (h : 24 ≤ w.sender.toNat ∨ w.sender.toNat = s.address) (i j : Nat) (b : Option Nat) :
    s.peerNotice w i j b = s := by
  unfold State.peerNotice
  rw [State.peerOf_own h]

/-- Settles O31. -/
theorem peerNoticesAreAppliedToTheView : Obligations.PeerNoticesAreAppliedToTheView := by
  intro s w a hphase
  refine ⟨fun hsome => ?_, fun hreceiving ha hne => ⟨fun hlength htotals => ?_, fun hlength htotals => ?_, fun hlength htotals hlow hhigh => ?_⟩⟩
  · exact congrArg Host.Outcome.next (if_pos (by simp [State.running, hphase, hsome]))
  · exact congrArg Host.Outcome.next ((State.received_eq hreceiving _).trans (State.peerNotice_applied ha hne hlength htotals rfl))
  · exact congrArg Host.Outcome.next ((State.received_eq hreceiving _).trans (State.peerNotice_applied ha hne hlength htotals rfl))
  · exact congrArg Host.Outcome.next ((State.received_eq hreceiving _).trans
      (State.peerNotice_applied ha hne hlength htotals (by simpa [budgetOk, field] using And.intro hlow hhigh)))

/-- Settles O32. -/
theorem unfitPeerNoticesAreNotApplied : Obligations.UnfitPeerNoticesAreNotApplied := by
  intro s w hreceiving
  refine ⟨fun h24 hne => ⟨fun hbad => ?_, fun hbad => ?_, fun hbad => ?_⟩, fun hown => ⟨?_, ?_, ?_⟩⟩
  · exact congrArg Host.Outcome.next ((State.received_eq hreceiving _).trans (State.peerNotice_counted h24 hne fun ⟨hl, ht, _⟩ =>
      hbad.elim (fun h => h hl) fun h => h ht))
  · exact congrArg Host.Outcome.next ((State.received_eq hreceiving _).trans (State.peerNotice_counted h24 hne fun ⟨hl, ht, _⟩ =>
      hbad.elim (fun h => h hl) fun h => h ht))
  · refine congrArg Host.Outcome.next ((State.received_eq hreceiving _).trans (State.peerNotice_counted h24 hne fun ⟨hl, ht, hb⟩ => ?_))
    have hrange : 1 ≤ (w.payload.getD 8 0#8).toNat ∧ (w.payload.getD 8 0#8).toNat ≤ 48 := by simpa [budgetOk, field] using hb
    rcases hbad with h | h | h | h
    · exact h hl
    · exact h ht
    · omega
    · omega
  all_goals exact congrArg Host.Outcome.next ((State.received_eq hreceiving _).trans (State.peerNotice_ignored (s := NoticeOver s) hown _ _ _))

/-! ### The completion of an own notice (R135, R149 to R153) -/

/-- The state in which the thing sent is discharged. -/
def State.completing (s : State) : State :=
  { s with bus := { s.bus with attempt := none, clashes := 0, ownLast := true, rx := .idle, buffer := [], byte := none, idle := 12, idleSamples := 0 } }

theorem exec_ownNoticeCompletion {a : Attempt} (hphase : s.phase = .running) (ha : s.bus.attempt = some a) :
    exec .ownNoticeCompletion s = .next ((s.completing.discharge a.sent).takeAllDigits false) := by
  refine congrArg Host.Outcome.next ?_
  simp only [ha, State.running, hphase, beq_self_eq_true, if_true]
  rfl

/-- Settles O30. -/
theorem completionDischargesWhatWasSent : Obligations.CompletionDischargesWhatWasSent := by
  intro s a hphase ha
  refine ⟨fun carried hsent => ?_, fun m n hsent htoken => ?_, fun hsent => ?_, fun hsent => ?_⟩
  all_goals rw [exec_ownNoticeCompletion hphase ha, hsent]
  · rfl
  · have hclaim : s.completing.claimCompleted = (s.completing.oweRelease n).freeToken := by
      unfold State.claimCompleted
      rw [show s.completing.sched.token = .spent n from htoken]
    exact congrArg (fun u : State => Host.Outcome.next (u.takeAllDigits false)) hclaim
  · rfl
  · rfl

/-! ### The link's periods (R63, R137, R138) -/

/-- Settles O34. -/
theorem islandingDropsTheClaim : Obligations.IslandingDropsTheClaim := by
  intro s hphase hlink hattempt
  have hexec : exec .islanding s = .next ((s.setBus { s.bus with link := .islanded, period := 0, clashes := 0 }).dropClaim) := by
    refine congrArg Host.Outcome.next ?_
    have hmay : (s.running && (s.bus.link == .listening || s.bus.link == .joined)) = true := by
      rcases hlink with h | h <;> simp [State.running, hphase, h]
    rw [if_pos hmay, hattempt]
    unfold State.island
    rcases hlink with h | h <;> rw [h]
  refine ⟨fun n o p htoken hn => ?_, fun htoken => ?_⟩
  all_goals
    rw [hexec]
    unfold State.dropClaim
    simp only [State.setBus, htoken]
  have hring : State.ring { s with bus := { s.bus with link := .islanded, period := 0, clashes := 0 } } n = .claiming o p := hn
  rw [hring]
  rfl

/-- A station that was apart and joins: ring work alone moves, and no slot is over allowance. -/
theorem State.join_joined (s : State) : RingWorkOnly s { s.join with bus := s.bus } ∧ LoopsKept s s.join ∧ OrdersKept s s.join ∧
    s.join.table.peers = s.table.peers ∧ (s.bus.link ≠ .joined → s.SchedulerOk → s.ViewOk → ∀ k, s.join.overAllowance k = none) := by
  have hchanged := ViewChanged.join s
  refine ⟨?_, hchanged.loops, hchanged.core, hchanged.peers, fun hapart hsched hview => ?_⟩
  · have honly := hchanged.only
    unfold RingWorkOnly at *
    rw [honly]
    rfl
  · exact (State.RingSound.join ⟨hsched, hview, State.withinAllowance_apart hapart⟩).within (by rw [State.join_bus])

/-- Settles O33. -/
theorem periodEndsJoinTheStation : Obligations.PeriodEndsJoinTheStation := by
  intro s hphase
  have hactive := State.active_of hphase
  refine ⟨fun hlink => ?_, fun hlink => ?_⟩
  · obtain ⟨honly, hloops, horders, hpeers, hwithin⟩ := s.join_joined
    exact ⟨s.join, congrArg Host.Outcome.next (if_pos (by simp [hactive, hlink])), s.join_bus, honly, hloops, horders, hpeers, hwithin (by simp [hlink])⟩
  · obtain ⟨honly, hloops, horders, hpeers, hwithin⟩ := State.join_joined (s.setBus { s.bus with recovered := true })
    refine ⟨s.rejoin, congrArg Host.Outcome.next (if_pos (by simp [hactive, hlink])), (State.join_bus _), ?_, hloops, horders, hpeers, fun hsched hview => ?_⟩
    · unfold RingWorkOnly at *
      exact congrArg (fun u : State => { u with bus := s.bus }) honly
    · exact hwithin (by simp [State.setBus, hlink]) (hsched.same rfl rfl fun _ => rfl) ⟨hview.own, hview.derived⟩

end Sys2Proof.Machine
end

section
/-! SUPPORT. Digits move from the stores of the lines into the report queue: O39. -/

namespace Sys2Proof.Machine

open Sys2Proof.Claims

variable {s t u : State}

/-! ### One digit -/

/-- A digit is appended to a DIGITS entry of its line. -/
def State.digitAppended (s : State) (n : Line) (d : Digit) (before after : List Report) (ds : List Digit) (b : Bool) : State :=
  { s.setLine n (DigitGone (s.line n)) with
    asm := { s.asm with queue := before ++ Report.digits n (ds ++ [d]) (b || (s.line n).hook.digitsLost) :: after } }

/-- Where the last entry of the line takes it, the digit is appended (R155). -/
theorem State.takeDigit_append {n : Line} {before after : List Report} {ds : List Digit} {b : Bool} (h : CanAppend s n before after ds b)
    (mayMake : Bool) (d : Digit) : s.takeDigit mayMake n d = some (s.digitAppended n d before after ds b) := by
  obtain ⟨hqueue, hlast, hroom, hidle⟩ := h
  have happend := appendDigit_eq_some n d (s.line n).hook.digitsLost before s.headInTransmission after ds b hlast hroom fun ⟨hb, hsent⟩ =>
    hidle ⟨hb, s.headInTransmission_iff.1 hsent⟩
  unfold State.takeDigit
  rw [hqueue]
  simp only [happend]
  rfl

/-- No entry takes the digit. -/
def NoAppend (s : State) (n : Line) : Prop := ∀ (before after : List Report) (ds : List Digit) (b : Bool), ¬ CanAppend s n before after ds b

theorem State.appendDigit_none {n : Line} (h : NoAppend s n) (d : Digit) (lost : Bool) :
    appendDigit n d lost s.headInTransmission s.asm.queue = none := by
  cases hq : appendDigit n d lost s.headInTransmission s.asm.queue with
  | none => rfl
  | some q =>
    obtain ⟨before, after, ds, b, hqueue, hlast, hroom, hidle, -⟩ := eq_of_appendDigit _ _ _ _ _ _ hq
    exact absurd ⟨hqueue, hlast, hroom, fun ⟨hb, hsent⟩ => hidle ⟨hb, s.headInTransmission_iff.2 hsent⟩⟩ (h before after ds b)

/-- Otherwise it goes into a new entry, where entries may be made and the queue has room. -/
theorem State.takeDigit_new {n : Line} (h : NoAppend s n) (hroom : s.asm.queue.length < 12) (d : Digit) :
    s.takeDigit true n d = some ((s.setLine n (DigitGone (s.line n))).pushReport (.digits n [d] (s.line n).hook.digitsLost)) := by
  have hfree : (s.freeCount != 0) = true := by simp [State.freeCount, queueSize]; omega
  unfold State.takeDigit
  simp only [State.appendDigit_none h, hfree, Bool.and_true, if_true]
  rfl

theorem State.takeDigit_stays {n : Line} (h : NoAppend s n) {mayMake : Bool} (hfull : mayMake = false ∨ 12 ≤ s.asm.queue.length) (d : Digit) :
    s.takeDigit mayMake n d = none := by
  have hno : ¬ (mayMake && s.freeCount != 0) = true := by
    rcases hfull with h | h
    · simp [h]
    · simp [State.freeCount, queueSize, Nat.sub_eq_zero_of_le h]
  unfold State.takeDigit
  simp only [State.appendDigit_none h]
  exact if_neg hno

/-- What the taking of one digit can come to. -/
theorem State.takeDigit_cases (s : State) (mayMake : Bool) (n : Line) (d : Digit) :
    (∃ before after ds b, CanAppend s n before after ds b ∧ s.takeDigit mayMake n d = some (s.digitAppended n d before after ds b)) ∨
    (NoAppend s n ∧ mayMake = true ∧ s.asm.queue.length < 12 ∧
      ∃ t, Queued (s.setLine n (DigitGone (s.line n))) (.digits n [d] (s.line n).hook.digitsLost) t ∧ s.takeDigit mayMake n d = some t) ∨
    (NoAppend s n ∧ (mayMake = false ∨ 12 ≤ s.asm.queue.length) ∧ s.takeDigit mayMake n d = none) := by
  by_cases hcan : NoAppend s n
  · by_cases hfull : mayMake = false ∨ 12 ≤ s.asm.queue.length
    · exact .inr (.inr ⟨hcan, hfull, State.takeDigit_stays hcan hfull d⟩)
    · obtain ⟨hmake, hroom⟩ := not_or.1 hfull
      have hmake : mayMake = true := by simpa using hmake
      subst hmake
      exact .inr (.inl ⟨hcan, rfl, Nat.lt_of_not_le hroom, _, State.pushReport_queued _ _ (Nat.lt_of_not_le hroom), State.takeDigit_new hcan (Nat.lt_of_not_le hroom) d⟩)
  · unfold NoAppend at hcan
    push Not at hcan
    obtain ⟨before, after, ds, b, h⟩ := hcan
    exact .inl ⟨before, after, ds, b, h, State.takeDigit_append h mayMake d⟩

/-! ### The digits in the queue -/

theorem queuedDigits_append (n : Line) (q q' : List Report) : queuedDigits n (q ++ q') = queuedDigits n q ++ queuedDigits n q' := List.flatMap_append

theorem queuedDigits_cons (n : Line) (r : Report) (q : List Report) : queuedDigits n (r :: q) = queuedDigits n [r] ++ queuedDigits n q :=
  queuedDigits_append n [r] q

theorem queuedDigits_digits (n m : Line) (ds : List Digit) (b : Bool) : queuedDigits n [.digits m ds b] = if m = n then ds else [] := List.append_nil _

/-- Entries for other lines hold no digit of the line. -/
theorem queuedDigits_of_line_ne {n : Line} {q : List Report} (h : ∀ r ∈ q, r.line? ≠ some n) : queuedDigits n q = [] := by
  refine List.flatMap_eq_nil_iff.2 fun r hr => ?_
  cases r with
  | digits m ds b => exact if_neg fun hm => h _ hr (congrArg some hm)
  | _ => rfl

/-- The entries that are no DIGITS entries. -/
def Report.isOther : Report → Bool
  | .digits _ _ _ => false
  | .event _ _ => true
  | .state _ _ => true
  | .refusal _ _ _ => true

/-- A DIGITS entry of at most 6 digits, or another entry. -/
def SixesOk (q : List Report) : Prop := ∀ (m : Line) (ds : List Digit) (b : Bool), Report.digits m ds b ∈ q → ds.length ≤ 6

/-- `t` is `s` with digits of line `n` moved from its store into the queue. -/
structure DigitsMoved (mayMake : Bool) (n : Line) (s t : State) : Prop where
  frame : t = { s with asm := { s.asm with queue := t.asm.queue }, lines := t.lines }
  order : queuedDigits n t.asm.queue ++ (t.line n).hook.digits = queuedDigits n s.asm.queue ++ (s.line n).hook.digits
  appended : mayMake = false → t.asm.queue.length = s.asm.queue.length ∧
    ∀ m : Line, t.line m = if m = n then { s.line n with hook := (t.line n).hook } else s.line m
  others : ∀ m : Line, m ≠ n → queuedDigits m t.asm.queue = queuedDigits m s.asm.queue ∧ (t.line m).hook = (s.line m).hook
  entries : t.asm.queue.filter Report.isOther = s.asm.queue.filter Report.isOther
  sixes : SixesOk s.asm.queue → SixesOk t.asm.queue

theorem DigitsMoved.refl (mayMake : Bool) (n : Line) (s : State) : DigitsMoved mayMake n s s :=
  ⟨rfl, rfl, fun _ => ⟨rfl, fun m => by split <;> simp [*]⟩, fun _ _ => ⟨rfl, rfl⟩, rfl, id⟩

theorem DigitsMoved.trans {mayMake : Bool} {n : Line} (h : DigitsMoved mayMake n s t) (g : DigitsMoved mayMake n t u) : DigitsMoved mayMake n s u where
  frame := by rw [g.frame, h.frame]
  order := g.order.trans h.order
  appended hm := by
    obtain ⟨hlength, ht⟩ := h.appended hm
    obtain ⟨glength, hu⟩ := g.appended hm
    refine ⟨glength.trans hlength, fun m => (hu m).trans ?_⟩
    split
    · rw [ht n, if_pos rfl]
    · rw [ht m, if_neg ‹_›]
  others m hm := ⟨(g.others m hm).1.trans (h.others m hm).1, (g.others m hm).2.trans (h.others m hm).2⟩
  entries := g.entries.trans h.entries
  sixes hs := g.sixes (h.sixes hs)

/-- A digit appended moves from the store to the end of what the queue holds of its line. -/
theorem DigitsMoved.append {mayMake : Bool} {n : Line} {d : Digit} {more : List Digit} {before after : List Report} {ds : List Digit} {b : Bool}
    (hdigits : (s.line n).hook.digits = d :: more) (h : CanAppend s n before after ds b) :
    DigitsMoved mayMake n s (s.digitAppended n d before after ds b) := by
  obtain ⟨hqueue, hlast, hroom, -⟩ := h
  have hline (m : Line) : (s.digitAppended n d before after ds b).line m = if m = n then DigitGone (s.line n) else s.line m := State.line_setLine s n m _
  have hnew : (s.digitAppended n d before after ds b).asm.queue = before ++ .digits n (ds ++ [d]) (b || (s.line n).hook.digitsLost) :: after := rfl
  refine ⟨rfl, ?_, fun _ => ⟨?_, fun m => ?_⟩, fun m hm => ⟨?_, ?_⟩, ?_, fun hs m es c hmem => ?_⟩
  · rw [hnew, hqueue, hline, if_pos rfl, hdigits]
    simp only [queuedDigits_append, queuedDigits_cons n _ after, queuedDigits_digits, if_true, queuedDigits_of_line_ne hlast, DigitGone, hdigits]
    simp
  · rw [hnew, hqueue]; simp
  · rw [hline, hline, if_pos rfl]
    split <;> rfl
  · rw [hnew, hqueue]
    simp only [queuedDigits_append, queuedDigits_cons m _ after, queuedDigits_digits, if_neg (Ne.symm hm)]
  · rw [hline, if_neg hm]
  · rw [hnew, hqueue]; simp [List.filter_append, Report.isOther]
  · rw [hqueue] at hs
    rw [hnew] at hmem
    rcases List.mem_append.1 hmem with hb | hmem
    · exact hs m es c (List.mem_append_left _ hb)
    · rcases List.mem_cons.1 hmem with he | ha
      · cases he; simp; omega
      · exact hs m es c (List.mem_append_right _ (List.mem_cons_of_mem _ ha))

/-- So does a digit in a new entry. -/
theorem DigitsMoved.entry {n : Line} {d : Digit} {more : List Digit} (hdigits : (s.line n).hook.digits = d :: more)
    (h : Queued (s.setLine n (DigitGone (s.line n))) (.digits n [d] (s.line n).hook.digitsLost) t) : DigitsMoved true n s t := by
  obtain ⟨hframe, hline⟩ := h
  have hnew : t.asm.queue = s.asm.queue ++ [.digits n [d] (s.line n).hook.digitsLost] := by rw [hframe]; rfl
  have hhook (m : Line) : (t.line m).hook = ((s.setLine n (DigitGone (s.line n))).line m).hook := by
    rw [hline m]; split <;> rfl
  refine ⟨?_, ?_, (fun h => by cases h), fun m hm => ⟨?_, ?_⟩, ?_, fun hs m es c hmem => ?_⟩
  · rw [hnew]; exact hframe
  · rw [hnew, hhook, State.line_setLine_same, hdigits]
    simp [queuedDigits_append, queuedDigits_digits, DigitGone, hdigits]
  · rw [hnew, queuedDigits_append, queuedDigits_digits, if_neg (Ne.symm hm), List.append_nil]
  · rw [hhook, State.line_setLine_ne _ hm]
  · rw [hnew]; simp [List.filter_append, Report.isOther]
  · rw [hnew] at hmem
    rcases List.mem_append.1 hmem with hb | hmem
    · exact hs m es c hb
    · cases List.mem_singleton.1 hmem; simp

/-! ### The whole store of a line -/

/-- One digit taken leaves the store's tail. -/
theorem State.takeDigit_tail {mayMake : Bool} {n : Line} {d e : Digit} (h : s.takeDigit mayMake n e = some t) {more : List Digit}
    (hdigits : (s.line n).hook.digits = d :: more) : (t.line n).hook.digits = more := by
  rcases s.takeDigit_cases mayMake n e with ⟨before, after, ds, b, -, ht⟩ | ⟨-, -, -, u, hq, ht⟩ | ⟨-, -, ht⟩
  · rw [ht] at h; cases h
    refine (congrArg (fun l : LineState => l.hook.digits) (State.line_setLine_same s n (DigitGone (s.line n)))).trans ?_
    simp [DigitGone, hdigits]
  · rw [ht] at h; cases h
    have hhook : (t.line n).hook = (DigitGone (s.line n)).hook := by
      rw [hq.2 n]; split <;> simp
    simp [hhook, DigitGone, hdigits]
  · rw [ht] at h; cases h

/-- The store's first digit is taken, and then the rest of the store, or nothing is. -/
theorem State.takeDigits_cons {n : Line} {d : Digit} {more : List Digit} (hdigits : (s.line n).hook.digits = d :: more) (mayMake : Bool) :
    s.takeDigits mayMake n = match s.takeDigit mayMake n d with | some t => t.takeDigits mayMake n | none => s := by
  unfold State.takeDigits
  rw [hdigits, State.takeDigitList]
  cases ht : s.takeDigit mayMake n d with
  | none => rfl
  | some t => exact congrArg (fun ds => State.takeDigitList mayMake n ds t) (State.takeDigit_tail ht hdigits).symm

theorem State.takeDigits_empty {n : Line} (hdigits : (s.line n).hook.digits = []) (mayMake : Bool) : s.takeDigits mayMake n = s := by
  unfold State.takeDigits
  rw [hdigits, State.takeDigitList]

/-- Digits move until the store is empty, or none can be taken. -/
theorem State.takeDigits_moved (mayMake : Bool) (n : Line) (ds : List Digit) : ∀ s : State, (s.line n).hook.digits = ds →
    DigitsMoved mayMake n s (s.takeDigits mayMake n) ∧
    (mayMake = true → ((s.takeDigits mayMake n).line n).hook.digits ≠ [] → 12 ≤ (s.takeDigits mayMake n).asm.queue.length) := by
  induction ds with
  | nil =>
    intro s hdigits
    rw [State.takeDigits_empty hdigits]
    exact ⟨.refl _ _ _, fun _ h => absurd hdigits h⟩
  | cons d more ih =>
    intro s hdigits
    rw [State.takeDigits_cons hdigits]
    rcases s.takeDigit_cases mayMake n d with ⟨before, after, es, b, hcan, ht⟩ | ⟨-, hmake, -, t, hq, ht⟩ | ⟨-, hfull, ht⟩
    · rw [ht]
      obtain ⟨hmoved, hrest⟩ := ih _ (State.takeDigit_tail ht hdigits)
      exact ⟨(DigitsMoved.append hdigits hcan).trans hmoved, hrest⟩
    · rw [ht]
      obtain ⟨hmoved, hrest⟩ := ih _ (State.takeDigit_tail ht hdigits)
      subst hmake
      exact ⟨(DigitsMoved.entry hdigits hq).trans hmoved, hrest⟩
    · rw [ht]
      exact ⟨.refl _ _ _, fun hmake _ => hfull.resolve_left (by simp [hmake])⟩

theorem State.digitsMoved (s : State) (mayMake : Bool) (n : Line) : DigitsMoved mayMake n s (s.takeDigits mayMake n) :=
  (State.takeDigits_moved mayMake n _ s rfl).1

/-- Digits that may only be appended change the hook record of their line and the queue alone. -/
theorem DigitsMoved.eq_of_appended {n : Line} (h : DigitsMoved false n s t) :
    t = { s.setLine n { s.line n with hook := (t.line n).hook } with asm := { s.asm with queue := t.asm.queue } } := by
  have hlines : t.lines = (s.setLine n { s.line n with hook := (t.line n).hook }).lines :=
    State.lines_ext fun m => by rw [(h.appended rfl).2 m, State.line_setLine]
  conv_lhs => rw [h.frame, hlines]
  rfl

/-- Settles O39. -/
theorem digitsMoveIntoTheQueueInOrder : Obligations.DigitsMoveIntoTheQueueInOrder := by
  refine ⟨fun s mayMake n => ?_, fun _ _ => rfl⟩
  obtain ⟨hmoved, hfull⟩ := State.takeDigits_moved mayMake n _ s rfl
  refine ⟨_, rfl, hmoved.frame, hmoved.order, hfull, fun hmake => ?_, hmoved.others, ?_, hmoved.sixes,
    fun hempty => State.takeDigits_empty hempty mayMake, fun d more hdigits => ?_⟩
  · subst hmake
    exact ⟨(hmoved.appended rfl).1, hmoved.eq_of_appended⟩
  · exact hmoved.entries
  · rw [State.takeDigits_cons hdigits]
    refine ⟨fun before after ds b hcan => ?_, fun hno => ⟨fun hmake hroom => ?_, fun hstays => ?_⟩⟩
    · rw [State.takeDigit_append hcan]
      rfl
    · subst hmake
      exact ⟨_, State.pushReport_queued _ _ hroom, by rw [State.takeDigit_new hno hroom]⟩
    · rw [State.takeDigit_stays hno hstays]

end Sys2Proof.Machine
end

section
/-! SUPPORT. Room freed in the report queue: O38; and what digits appended at the end of an own attempt leave alone. -/

namespace Sys2Proof.Machine

open Sys2Proof.Claims

variable {s t u : State}

/-! ### The digits of every line -/

/-- `t` is `s` with digits moved from the stores of lines into the queue. -/
structure DigitsFiled (mayMake : Bool) (s t : State) : Prop where
  frame : t = { s with asm := { s.asm with queue := t.asm.queue }, lines := t.lines }
  entries : t.asm.queue.filter Report.isOther = s.asm.queue.filter Report.isOther
  appended : mayMake = false → t.asm.queue.length = s.asm.queue.length ∧ ∀ m : Line, t.line m = { s.line m with hook := (t.line m).hook }

theorem DigitsMoved.filed {mayMake : Bool} {n : Line} (h : DigitsMoved mayMake n s t) : DigitsFiled mayMake s t :=
  ⟨h.frame, h.entries, fun hm => ⟨(h.appended hm).1, fun m => by
    have hline := (h.appended hm).2 m
    split at hline
    · subst m; exact hline
    · rw [hline]⟩⟩

theorem DigitsFiled.trans {mayMake : Bool} (h : DigitsFiled mayMake s t) (g : DigitsFiled mayMake t u) : DigitsFiled mayMake s u :=
  ⟨by rw [g.frame, h.frame], g.entries.trans h.entries, fun hm => ⟨(g.appended hm).1.trans (h.appended hm).1, fun m => by
    rw [(g.appended hm).2 m, (h.appended hm).2 m]⟩⟩

theorem State.takeAllDigits_filed (s : State) (mayMake : Bool) : DigitsFiled mayMake s (s.takeAllDigits mayMake) := by
  unfold State.takeAllDigits
  generalize allLines = ls
  induction ls generalizing s with
  | nil => exact ⟨rfl, rfl, fun _ => ⟨rfl, fun _ => rfl⟩⟩
  | cons n ls ih => exact (s.digitsMoved mayMake n).filed.trans (ih _)

theorem State.takeAllDigits_asm (s : State) (mayMake : Bool) :
    (s.takeAllDigits mayMake).asm = { s.asm with queue := (s.takeAllDigits mayMake).asm.queue } := by
  conv_lhs => rw [(s.takeAllDigits_filed mayMake).frame]

/-- Empty stores give no digits. -/
theorem State.takeAllDigits_empty (h : ∀ n : Line, (s.line n).hook.digits = []) (mayMake : Bool) : s.takeAllDigits mayMake = s := by
  unfold State.takeAllDigits
  generalize allLines = ls
  induction ls with
  | nil => rfl
  | cons n ls ih => rw [List.foldl_cons, State.takeDigits_empty (h n), ih]

/-! ### The room freed (R121, R153, R156) -/

theorem LineMove.not_withheld {p : RelayParams} {l l' : LineState} (h : LineMove p l l') (hl : l.tone.tone ≠ some .withheld) :
    l'.tone.tone ≠ some .withheld := by
  cases h with
  | dial => rwa [LineState.releaseTone, if_neg hl]
  | direct z j k =>
    have htone : (l.classBoundary p z j k).tone = l.tone := by simp
    rwa [htone]
  | _ => simpa using hl

/-- No line of `s` being WITHHELD, none is after moves. -/
theorem State.Moved.not_withheld (h : s.Moved t) (hs : ∀ m : Line, (s.line m).tone.tone ≠ some .withheld) (m : Line) : (t.line m).tone.tone ≠ some .withheld := by
  have hmoves := h.line m
  generalize t.line m = l at hmoves
  induction hmoves with
  | refl => exact hs m
  | tail _ hmove ih => exact hmove.not_withheld ih

/-- The queue with its head gone, and the WITHHELD lines reconsidered. -/
theorem State.reconsiderWithheld_line (s : State) (m : Line) : s.reconsiderWithheld.line m =
    if s.asm.queue.length ≤ 9 ∧ (s.line m).tone.tone = some .withheld then { s.line m with tone := { (s.line m).tone with tone := some .dial } } else s.line m := by
  unfold State.reconsiderWithheld State.freeCount queueSize
  by_cases hroom : s.asm.queue.length ≤ 9
  · rw [if_pos (by omega), State.line_mapLines]
    simp only [LineState.releaseTone, hroom, true_and]
  · rw [if_neg (by omega), if_neg fun h => hroom h.1]

theorem State.firstLost_eq_some {n : Line} (hn : (s.line n).eventsLost = true) (hfirst : ∀ m : Line, m < n → (s.line m).eventsLost = false) :
    s.firstLost = some n :=
  List.find?_eq_some_iff_getElem.2 ⟨hn, n.val, by simp [allLines], by simp [allLines], fun j hj => by
    simpa [allLines] using hfirst ⟨j, hj.trans n.isLt⟩ hj⟩

theorem State.firstLost_eq_none (h : ∀ n : Line, (s.line n).eventsLost = false) : s.firstLost = none :=
  List.find?_eq_none.2 fun n _ => by simp [h n]

/-- The room is filled by moves that make no line WITHHELD. -/
theorem State.fillRoom_not_withheld (hroom : s.asm.queue.length < 12) (hs : ∀ m : Line, (s.line m).tone.tone ≠ some .withheld) (m : Line) :
    (s.fillRoom.line m).tone.tone ≠ some .withheld := by
  unfold State.fillRoom
  split
  · refine State.Moved.not_withheld (State.moved_pushReport (s.onLine _ fun l => { l with eventsLost := false }) _ hroom) (fun k => ?_) m
    rw [State.line_onLine]
    split <;> exact hs _
  · exact State.Moved.not_withheld (State.moved_takeAllDigits _ _) hs m

theorem State.popReport_frame (s : State) : s.popReport = { s with asm := s.popReport.asm, lines := s.popReport.lines } := by
  have h := s.popReport_keeps
  generalize s.popReport = t at h ⊢
  cases s; cases t
  simp only at h ⊢
  simp only [h]

/-- An entry enters at the end of the queue, and of the lines only tones move. -/
theorem State.pushReport_eq (s : State) (r : Report) : (s.pushReport r).asm = { s.asm with queue := s.asm.queue ++ [r] } ∧
    ∀ m : Line, (s.pushReport r).line m = { s.line m with tone := ((s.pushReport r).line m).tone } := by
  refine ⟨?_, fun m => ?_⟩
  · unfold State.pushReport State.reconsiderWithheld; split <;> rfl
  · unfold State.pushReport
    rw [State.reconsiderWithheld_line]
    split <;> rfl

/-- Settles O38. -/
theorem freedRoomIsFilled : Obligations.FreedRoomIsFilled := by
  intro s r rest hqueue
  have hpop : s.popReport = ((s.setQueue rest).reconsiderWithheld).fillRoom := by
    unfold State.popReport
    rw [hqueue]; rfl
  have hv : (s.setQueue rest).reconsiderWithheld = { s with asm := { s.asm with queue := rest }, lines := (s.setQueue rest).reconsiderWithheld.lines } := by
    unfold State.reconsiderWithheld; split <;> rfl
  have hvline := State.reconsiderWithheld_line (s.setQueue rest)
  have hlost (m : Line) : ((s.setQueue rest).reconsiderWithheld.line m).eventsLost = (s.line m).eventsLost := by simp
  have hnone (h : ∀ n : Line, (s.line n).eventsLost = false) : s.popReport = (s.setQueue rest).reconsiderWithheld.takeAllDigits true := by
    rw [hpop, State.fillRoom, State.firstLost_eq_none fun n => (hlost n).trans (h n)]
  refine ⟨_, hv, hvline, ?_, fun n hn hfirst => ?_, hnone, fun hkept hempty => ?_, fun hroom n => ?_⟩
  · exact s.popReport_frame
  · have hfill : s.popReport = ((s.setQueue rest).reconsiderWithheld.onLine n fun l => { l with eventsLost := false }).pushReport (.state n true) := by
      rw [hpop, State.fillRoom, State.firstLost_eq_some ((hlost n).trans hn) fun m hm => (hlost m).trans (hfirst m hm)]
    rw [hfill]
    refine ⟨?_, ?_, fun m hm => ⟨?_, ?_⟩⟩
    · rw [(State.pushReport_eq _ _).1]; simp
    · simp
    · simp [State.line_onLine, hm]
    · simp [State.line_onLine, hm]
  · rw [hnone hkept]
    exact State.takeAllDigits_empty (fun n => by simpa using hempty n) true
  · rw [hpop]
    have hlength : (s.setQueue rest).reconsiderWithheld.asm.queue = rest := by simp
    refine State.fillRoom_not_withheld (by rw [hlength]; omega) (fun m => ?_) n
    rw [hvline m]
    split
    · simp
    · rename_i h
      exact fun hw => h ⟨hroom, hw⟩

end Sys2Proof.Machine
end

section
/-! SUPPORT. The claim's end: O29 and O35. -/

namespace Sys2Proof.Machine

open Sys2Proof.Claims

variable {s t u : State}

/-! ### The commit of a claim (R52) -/

/-- A placement attempt changes of the scheduler the token alone. -/
theorem State.placementAttempt_sched (s : State) : s.placementAttempt.sched = { s.sched with token := s.placementAttempt.sched.token } := by
  unfold State.placementAttempt State.issueClaim
  (repeat' split) <;> rfl

theorem State.placementAttempt_table (s : State) : s.placementAttempt.table = s.table := by simp

/-- A placement attempt changes no RINGING line. -/
theorem State.placementAttempt_ringing {n : Line} {o : Order} {p : Placement} {b : Bool} (hn : s.ring n = .ringing o p b) :
    s.placementAttempt.ring n = .ringing o p b := by
  unfold State.placementAttempt
  (repeat' split)
  · rename_i m q hfirst
    unfold State.issueClaim
    split
    · rename_i o' hm
      rw [State.setToken_ring, State.ring_setRing, if_neg (fun h => by subst h; rw [hn] at hm; cases hm), hn]
    all_goals exact hn
  all_goals exact hn

/-- The claim of line `n` taken into the ring work, the own totals not yet formed. -/
def State.committing (s : State) (n : Line) (o : Order) (p : Placement) : State :=
  let t := (s.setRing n (.ringing { o with rung := true } p true)).setToken .free
  t.setSched { t.sched with commits := t.sched.commits ++ [n] }

section
variable {n : Line} {o : Order} {p : Placement}

theorem State.committing_ring (m : Line) :
    (s.committing n o p).ring m = if m = n then .ringing { o with rung := true } p true else s.ring m := by
  simp [State.committing, State.ring_setRing]

/-- The commit adds the weight of its line in the slots of its mask. -/
theorem State.committing_ownTotals (hn : s.ring n = .claiming o p) (k : Slot) : (s.committing n o p).ownTotals[k.val] =
    s.ownTotals[k.val] + if p.mask.getLsbD k.val = true then s.params.weight n else 0 := by
  rw [State.ownTotals_masks, State.ownTotals_masks, ← Finset.add_sum_erase _ _ (Finset.mem_univ n), ← Finset.add_sum_erase Finset.univ _ (Finset.mem_univ n)]
  have hrest : ∑ m ∈ Finset.univ.erase n, maskLoad ((s.committing n o p).params.weight m) (RingRecord.ringingMask ((s.committing n o p).ring m)) k =
      ∑ m ∈ Finset.univ.erase n, maskLoad (s.params.weight m) (RingRecord.ringingMask (s.ring m)) k :=
    Finset.sum_congr rfl fun m hm => by
      rw [State.committing_ring, if_neg (Finset.ne_of_mem_erase hm)]; rfl
  rw [hrest, State.committing_ring, if_pos rfl, hn]
  simp only [RingRecord.ringingMask, maskLoad]
  show (if SlotSet.holds p.mask k = true then s.params.weight n else 0) + _ = 0 + _ + _
  unfold SlotSet.holds
  omega

/-- A claim that fits leaves every slot within its allowance. -/
theorem State.committing_within (h : s.RingSound) (hn : s.ring n = .claiming o p) (hfits : Fits s.table.shelf s.table.budget (s.params.weight n) p.mask)
    (hj : s.bus.link = .joined) (k : Slot) : (s.committing n o p).recomputeOwn.overAllowance k = none := by
  have hown : s.table.own[k.val] = s.ownTotals[k.val] := by rw [h.view.own]
  have hnew := State.committing_ownTotals hn k
  have hshelf : (s.committing n o p).recomputeOwn.table.shelf[k.val] = (s.committing n o p).ownTotals[k.val] + s.table.sumOver allPeers k := by
    simp only [State.recomputeOwn, State.setTable_table, LoadTable.recompute, LoadTable.shelfTotals, Vector.getElem_ofFn]
    rfl
  have hbudget : (s.committing n o p).recomputeOwn.table.budget = s.table.budget := h.view.budget.symm
  by_cases hk : p.mask.getLsbD k.val = true
  · have hfit := hfits k hk
    rw [h.view.shelf k] at hfit
    rw [if_pos hk] at hnew
    unfold State.overAllowance
    rw [if_neg]
    rintro ⟨hover, -⟩
    rw [hbudget, hshelf, hnew] at hover
    omega
  · rw [if_neg hk, Nat.add_zero, ← hown] at hnew
    refine State.overAllowance_relieved (s := s) hbudget ?_ ?_ (Nat.le_of_eq hnew) fun allowed hallowed => ?_
    · unfold State.allowance
      rw [hbudget]; rfl
    · rw [hshelf, hnew, h.view.shelf k]
    · rw [h.within hj k] at hallowed; cases hallowed

/-- The own entry after a commit that fits, before the placement attempt that follows. -/
theorem State.RingSound.commit_eq (h : s.RingSound) (hn : s.ring n = .claiming o p) (hfits : Fits s.table.shelf s.table.budget (s.params.weight n) p.mask) :
    ∃ v : State, s.commit n = v.placementAttempt.handEvent n (.ringPlaced p.offset) ∧ v.ring n = .ringing { o with rung := true } p true ∧
      v.sched.commits = s.sched.commits ++ [n] ∧ v.sched.accepted = s.sched.accepted ∧ v.table.own = (s.committing n o p).ownTotals ∧
      v.table.peers = s.table.peers ∧ v.asm = s.asm ∧ (v.line n).eventsLost = (s.line n).eventsLost ∧ v.bus = s.bus := by
  have hlags : (s.committing n o p).RingLags := h.lags (h.sched.commitRing hn _ _)
  have hcommit : s.commit n = ((s.committing n o p).ownLinesChanged.placementAttempt).handEvent n (.ringPlaced p.offset) := by
    unfold State.commit
    rw [hn]; rfl
  have hring : (s.committing n o p).ring n = .ringing { o with rung := true } p true := by rw [State.committing_ring, if_pos rfl]
  have hlost : ((s.committing n o p).line n).eventsLost = (s.line n).eventsLost := by simp [State.committing]
  refine ⟨(s.committing n o p).ownLinesChanged, hcommit, ?_⟩
  rw [hlags.ownLinesChanged_quiet fun hj k => State.committing_within h hn hfits hj k]
  split
  · rename_i hsame
    exact ⟨hring, rfl, rfl, hsame.symm, rfl, rfl, hlost, rfl⟩
  · have hkeeps := State.placementAttempt_sched (s.committing n o p).recomputeOwn
    refine ⟨State.placementAttempt_ringing hring, ?_, ?_, ?_, ?_, by simp [State.committing], by simpa using hlost, by simp [State.committing]⟩
    · rw [hkeeps]; rfl
    · rw [hkeeps]; rfl
    · rw [State.placementAttempt_table]; rfl
    · rw [State.placementAttempt_table]; rfl

end

/-- An event that the queue takes is in it. -/
theorem State.mem_handEvent {n : Line} {e : Event} (hlost : (s.line n).eventsLost = false) (hroom : s.asm.queue.length < 12) :
    Report.event n e ∈ (s.handEvent n e).asm.queue := by
  obtain ⟨hframe, -⟩ := (State.handEvent_handed s n e).2.2 hlost hroom
  rw [hframe]
  exact List.mem_append_right _ (List.mem_singleton.2 rfl)

/-- An event in the queue stays there while digits are appended. -/
theorem DigitsFiled.mem_event {mayMake : Bool} (h : DigitsFiled mayMake s t) {n : Line} {e : Event} (hmem : Report.event n e ∈ s.asm.queue) :
    Report.event n e ∈ t.asm.queue := by
  have hkept : Report.event n e ∈ t.asm.queue.filter Report.isOther := by
    rw [h.entries]
    exact List.mem_filter.2 ⟨hmem, rfl⟩
  exact (List.mem_filter.1 hkept).1

/-- What the commit of a claim that fits comes to, digits appended. -/
theorem State.RingSound.commit_committed (h : s.RingSound) {n : Line} {o : Order} {p : Placement} (hn : s.ring n = .claiming o p)
    (hfits : Fits s.table.shelf s.table.budget (s.params.weight n) p.mask) :
    let t := (s.commit n).takeAllDigits false
    t.ring n = .ringing { o with rung := true } p true ∧ t.sched.commits = s.sched.commits ++ [n] ∧ t.sched.accepted = s.sched.accepted ∧
      t.sched.token ≠ .held n ∧
      (∀ k : Slot, t.table.own[k.val] = s.table.own[k.val] + if p.mask.getLsbD k.val = true then s.params.weight n else 0) ∧
      t.table.peers = s.table.peers ∧ t.asm.releaseMask = s.asm.releaseMask ∧
      ((s.line n).eventsLost = false → s.asm.queue.length < 12 → .event n (.ringPlaced p.offset) ∈ t.asm.queue) ∧ t.bus = s.bus := by
  intro t
  obtain ⟨v, hcommit, hring, hcommits, haccepted, hown, hpeers, hasm, hlost, hbus⟩ := h.commit_eq hn hfits
  have hfiled : DigitsFiled false (s.commit n) t := State.takeAllDigits_filed _ false
  have hasmAt : v.placementAttempt.asm = s.asm := by rw [← hasm]; simp
  have hringAt : (s.commit n).ring n = .ringing { o with rung := true } p true := by
    rw [hcommit, State.ring_handEvent]
    exact State.placementAttempt_ringing hring
  have hsched : t.sched = v.placementAttempt.sched := by simp [t, hcommit]
  have htable : t.table = v.table := by simp [t, hcommit]
  have hframe : t.asm.releaseMask = (s.commit n).asm.releaseMask := by rw [hfiled.frame]
  refine ⟨?_, ?_, ?_, ?_, fun k => ?_, ?_, ?_, fun hkept hroom => hfiled.mem_event ?_, ?_⟩
  · rw [← hringAt]
    simp [State.ring, t]
  · rw [hsched, State.placementAttempt_sched]
    exact hcommits
  · rw [hsched, State.placementAttempt_sched]
    exact haccepted
  · have hnot := (h.commit n).sched.not_held (n := n) (by rw [hringAt]; rfl)
    simpa [t] using hnot
  · rw [htable, hown, State.committing_ownTotals hn, h.view.own]
  · rw [htable, hpeers]
  · rw [hframe, hcommit, State.handEvent_releaseMask, hasmAt]
  · rw [hcommit]
    refine State.mem_handEvent ?_ (by rw [hasmAt]; exact hroom)
    rw [← hkept, ← hlost]
    simp
  · rw [← hbus]
    simp [t, hcommit]

theorem State.completing_ringSame (s : State) : s.RingSame s.completing := .still rfl rfl rfl rfl rfl rfl fun _ => rfl

/-- Settles O29. -/
theorem completedClaimIsCommitted : Obligations.CompletedClaimIsCommitted := by
  intro s n m a o p hphase hsched hview hwithin ha hsent hn hfits
  have hsound : s.completing.RingSound := s.completing_ringSame.sound ⟨hsched, hview, hwithin⟩
  have hheld : s.completing.sched.token = .held n := (hsched.heldIff n).2 (by rw [hn]; rfl)
  have hclaim : s.completing.claimCompleted = s.completing.commit n := by
    unfold State.claimCompleted
    rw [hheld]
  have hdone : exec .ownNoticeCompletion s = .next ((s.completing.commit n).takeAllDigits false) := by
    rw [exec_ownNoticeCompletion hphase ha, hsent]
    exact congrArg (fun u : State => Host.Outcome.next (u.takeAllDigits false)) hclaim
  exact ⟨_, hdone, hsound.commit_committed hn hfits⟩

end Sys2Proof.Machine
end

section
/-! SUPPORT. Attempts that end undischarged: O35. -/

namespace Sys2Proof.Machine

open Sys2Proof.Claims

variable {s t u : State}

/-- `t` is `s` with the attempt at this notice over undischarged (R149). -/
structure Undischarged (sent : Sent) (s t : State) : Prop where
  releaseMask : t.asm.releaseMask = s.asm.releaseMask
  refresh : t.asm.refresh = s.asm.refresh
  queue : t.asm.queue.length = s.asm.queue.length
  due : t.asm.dueInAttempt = (s.asm.dueInAttempt && sent != .refresh)
  table : t.table = s.table
  parts : ∀ n : Line, (t.line n).relay = (s.line n).relay ∧ (t.line n).sense = (s.line n).sense
  orders : OrdersKept s t

/-- The token is SPENT and the notice in transmission a claim. -/
def SpentOn (s : State) (sent : Sent) : Prop := ∃ n m : Line, s.sched.token = .spent n ∧ sent = .claim m

/-- The token freed, and the placement attempt that this brings. -/
def State.freed (s : State) : State := ((s.setBus { s.bus with attempt := none }).setToken .free).placementAttempt

/-- What the end of an attempt does before digits are appended. -/
def State.failedCore (s : State) (sent : Sent) : State :=
  match sent with
  | .refresh => (s.setBus { s.bus with attempt := none }).setAsm { s.asm with dueInAttempt := false }
  | .claim _ => (s.setBus { s.bus with attempt := none }).claimNotCarried
  | .release _ | .report => s.setBus { s.bus with attempt := none }

theorem State.attemptFailed_eq (s : State) (sent : Sent) : s.attemptFailed sent = (s.failedCore sent).takeAllDigits false := by
  cases sent <;> rfl

/-- A SPENT claim is dropped. -/
theorem State.failedCore_spent {sent : Sent} (h : SpentOn s sent) : s.failedCore sent = s.freed := by
  obtain ⟨n, m, htoken, rfl⟩ := h
  show State.claimNotCarried _ = _
  unfold State.claimNotCarried
  simp only [State.setBus_sched, htoken]
  rfl

/-- Otherwise nothing of the ring work moves. -/
theorem State.failedCore_not_spent {sent : Sent} (h : ¬ SpentOn s sent) : s.failedCore sent =
    (s.setBus { s.bus with attempt := none }).setAsm { s.asm with dueInAttempt := s.asm.dueInAttempt && sent != .refresh } := by
  have hsame {x : Sent} (hx : (x != .refresh) = true) :
      s.setBus { s.bus with attempt := none } =
        (s.setBus { s.bus with attempt := none }).setAsm { s.asm with dueInAttempt := s.asm.dueInAttempt && x != .refresh } := by
    rw [hx, Bool.and_true]; rfl
  cases sent with
  | refresh =>
    rw [show (Sent.refresh != .refresh) = false from rfl, Bool.and_false]; rfl
  | release c => exact hsame rfl
  | report => exact hsame rfl
  | claim m =>
    have hkept : (s.setBus { s.bus with attempt := none }).claimNotCarried = s.setBus { s.bus with attempt := none } := by
      unfold State.claimNotCarried
      split
      · rename_i n htoken
        exact absurd ⟨n, m, htoken, rfl⟩ h
      all_goals rfl
    exact hkept.trans (hsame rfl)

/-- The state in which a failed attempt's digits are appended. -/
theorem State.failedCore_undischarged (s : State) (sent : Sent) : Undischarged sent s (s.failedCore sent) := by
  by_cases h : SpentOn s sent
  · obtain ⟨n, m, htoken, rfl⟩ := id h
    rw [State.failedCore_spent h]
    refine ⟨?_, ?_, ?_, ?_, ?_, fun k => ?_, fun k => ?_⟩
    · simp [State.freed]
    · simp [State.freed]
    · simp [State.freed]
    · rw [show (Sent.claim m != .refresh) = true from rfl, Bool.and_true]
      simp [State.freed]
    · simp [State.freed]
    · simp [State.freed]
    · exact State.core_placementAttempt _ k
  · rw [State.failedCore_not_spent h]
    exact ⟨rfl, rfl, rfl, rfl, rfl, fun _ => ⟨rfl, rfl⟩, fun _ => rfl⟩

theorem Undischarged.congr {sent : Sent} (h : Undischarged sent s t) (hasm : u.asm = { t.asm with queue := u.asm.queue })
    (hqueue : u.asm.queue.length = t.asm.queue.length) (htable : u.table = t.table)
    (hparts : ∀ n : Line, (u.line n).relay = (t.line n).relay ∧ (u.line n).sense = (t.line n).sense) (horders : OrdersKept t u) : Undischarged sent s u :=
  ⟨by rw [hasm]; exact h.releaseMask, by rw [hasm]; exact h.refresh, hqueue.trans h.queue, by rw [hasm]; exact h.due, htable.trans h.table,
    fun n => ⟨(hparts n).1.trans (h.parts n).1, (hparts n).2.trans (h.parts n).2⟩, fun n => (horders n).trans (h.orders n)⟩

theorem Undischarged.setBus {sent : Sent} (h : Undischarged sent s t) (b : Bus) : Undischarged sent s (t.setBus b) :=
  h.congr rfl rfl rfl (fun _ => ⟨rfl, rfl⟩) fun _ => rfl

theorem State.attemptFailed_undischarged (s : State) (sent : Sent) : Undischarged sent s (s.attemptFailed sent) := by
  rw [State.attemptFailed_eq]
  have hfiled := (s.failedCore sent).takeAllDigits_filed false
  exact (s.failedCore_undischarged sent).congr (State.takeAllDigits_asm _ _) (hfiled.appended rfl).1 (by simp) (fun n => by simp)
    fun n => by simp [State.ring]

/-- A SPENT claim dropped frees the token; nothing else of the ring work moves. -/
theorem State.attemptFailed_ring (s : State) (sent : Sent) :
    (¬ SpentOn s sent → (s.attemptFailed sent).sched = s.sched ∧ ∀ n : Line, (s.attemptFailed sent).ring n = s.ring n) ∧
    (SpentOn s sent → (s.attemptFailed sent).sched = s.freed.sched ∧ ∀ n : Line, (s.attemptFailed sent).ring n = s.freed.ring n) := by
  refine ⟨fun h => ?_, fun h => ?_⟩
  · rw [State.attemptFailed_eq, State.failedCore_not_spent h]
    exact ⟨by simp, fun n => by simp [State.ring]⟩
  · rw [State.attemptFailed_eq, State.failedCore_spent h]
    exact ⟨by simp, fun n => by simp [State.ring]⟩

/-! ### Islanding (R63, R136) -/

/-- Dropping a claim keeps every order. -/
theorem State.core_dropClaim (s : State) (m : Line) : (s.dropClaim.line m).ring.core = (s.line m).ring.core := by
  unfold State.dropClaim
  split
  · rename_i n _
    split
    · rename_i o p hn
      exact (ViewChanged.setRing s n (.pending o) (by rw [hn]; rfl)).core m
    all_goals rfl
  all_goals rfl

theorem State.dropClaim_undischarged {sent : Sent} (h : Undischarged sent s t) : Undischarged sent s t.dropClaim :=
  h.congr (by simp) (by simp) (by simp) (fun n => by simp) (fun n => State.core_dropClaim t n)

/-- No claim is held once one is dropped, and a token that is not SPENT is FREE. -/
theorem State.dropClaim_token (s : State) : (∀ n : Line, s.dropClaim.sched.token ≠ .held n) ∧ (¬ (∃ n, s.sched.token = .spent n) → s.dropClaim.sched.token = .free) := by
  unfold State.dropClaim
  split
  · refine ⟨fun n => ?_, fun _ => ?_⟩
    all_goals split <;> simp
  · rename_i h; exact ⟨fun n => by simp [h], fun _ => h⟩
  · rename_i n h; exact ⟨fun n => by simp [h], fun hno => absurd ⟨n, h⟩ hno⟩

/-- A dropped SPENT claim leaves the token FREE or, where the placement attempt made a claim, HELD. -/
theorem State.freed_not_spent (s : State) : ¬ ∃ n, s.freed.sched.token = .spent n := by
  rintro ⟨n, hn⟩
  unfold State.freed State.placementAttempt State.issueClaim at hn
  (repeat' split at hn) <;> cases hn

/-! ### The three ends of an attempt -/

/-- The receiver discards what is on the wire. -/
@[irreducible] def State.failed (s : State) (sent : Sent) : State := (s.attemptFailed sent).discard

theorem State.failed_undischarged (s : State) (sent : Sent) : Undischarged sent s (s.failed sent) := by
  unfold State.failed
  exact (s.attemptFailed_undischarged sent).setBus _

theorem State.failed_ring (s : State) (sent : Sent) :
    (¬ SpentOn s sent → (s.failed sent).sched = s.sched ∧ ∀ n : Line, (s.failed sent).ring n = s.ring n) ∧
    (SpentOn s sent → (s.failed sent).sched = s.freed.sched ∧ ∀ n : Line, (s.failed sent).ring n = s.freed.ring n) := by
  have h := s.attemptFailed_ring sent
  unfold State.failed
  generalize s.attemptFailed sent = f at h ⊢
  exact h

/-- The bus of a station that discards after its attempt. -/
def Bus.discarding (b : Bus) : Bus :=
  { b with attempt := none, rx := .discarding, buffer := [], byte := none, idle := b.recessive / 16, idleSamples := b.recessive % 16 }

theorem State.failed_bus (s : State) (sent : Sent) : (s.failed sent).bus = s.bus.discarding := by
  unfold State.failed State.discard
  simp only [State.setBus_bus, State.attemptFailed_bus]
  rfl

/-- The station that an attempt's end makes ISLANDED. -/
theorem State.failed_island {sent : Sent} (hlink : s.bus.link = .joined ∨ s.bus.link = .listening) :
    Undischarged sent s (s.failed sent).island ∧
    ((∀ n : Line, (s.failed sent).island.sched.token ≠ .held n) ∧ (SpentOn s sent → (s.failed sent).island.sched.token = .free)) ∧
    (s.failed sent).island.bus = { s.bus.discarding with clashes := 0, link := .islanded, period := 0 } := by
  have hlink' : (s.failed sent).bus.link = .joined ∨ (s.failed sent).bus.link = .listening := by rw [State.failed_bus]; exact hlink
  have hisland : (s.failed sent).island = ((s.failed sent).setBus { (s.failed sent).bus with link := .islanded, period := 0, clashes := 0 }).dropClaim := by
    unfold State.island
    rcases hlink' with h | h <;> rw [h]
  have hunder : Undischarged sent s ((s.failed sent).setBus { (s.failed sent).bus with link := .islanded, period := 0, clashes := 0 }) :=
    (s.failed_undischarged sent).setBus _
  refine ⟨by rw [hisland]; exact State.dropClaim_undischarged hunder, ?_, ?_⟩
  · rw [hisland]
    obtain ⟨hheld, hfree⟩ := State.dropClaim_token ((s.failed sent).setBus { (s.failed sent).bus with link := .islanded, period := 0, clashes := 0 })
    refine ⟨hheld, fun hspent => hfree ?_⟩
    have hsched : (s.failed sent).sched = s.freed.sched := ((s.failed_ring sent).2 hspent).1
    rw [State.setBus_sched, hsched]
    exact s.freed_not_spent
  · rw [State.island_bus, if_pos hlink', State.failed_bus]

/-- Settles O35. -/
theorem clashAndLossDischargeNothing : Obligations.ClashAndLossDischargeNothing := by
  intro s a hphase ha
  have hkept {t : State} (h : Undischarged a.sent s t) : t.asm.releaseMask = s.asm.releaseMask ∧ t.asm.refresh = s.asm.refresh ∧
      t.asm.queue.length = s.asm.queue.length ∧ t.asm.dueInAttempt = (s.asm.dueInAttempt && a.sent != .refresh) ∧
      t.table = s.table ∧ (∀ n : Line, (t.line n).relay = (s.line n).relay ∧ (t.line n).sense = (s.line n).sense) ∧ OrdersKept s t :=
    ⟨h.releaseMask, h.refresh, h.queue, h.due, h.table, h.parts, h.orders⟩
  have hclash : exec .clash s = .next (s.failed a.sent).countClash := by
    refine congrArg Host.Outcome.next ?_
    rw [if_pos (by simp [State.running, hphase])]
    unfold State.clashAttempt State.failed
    rw [ha]
  have hclashes : (s.failed a.sent).bus.clashes = s.bus.clashes := by rw [State.failed_bus]; rfl
  have hring := s.failed_ring a.sent
  refine ⟨fun hfew => ⟨_, hclash, ?_⟩, fun hmany hlink => ⟨_, hclash, ?_⟩, fun hlink => ⟨(s.failed a.sent).island, ?_, ?_⟩,
    fun winner => ⟨(s.attemptFailed a.sent).setBus { (s.attemptFailed a.sent).bus with
      rx := .receiving, buffer := [winner], byte := none, idle := 0, idleSamples := 0 }, ?_, ?_⟩⟩
  · have hcount : (s.failed a.sent).countClash = (s.failed a.sent).setBus { (s.failed a.sent).bus with clashes := s.bus.clashes + 1 } := by
      unfold State.countClash
      rw [hclashes, if_neg (by omega)]
    rw [hcount]
    refine ⟨hkept ((s.failed_undischarged a.sent).setBus _), hring, ?_⟩
    rw [State.setBus_bus, State.failed_bus]
    rfl
  · have hcount : (s.failed a.sent).countClash = (s.failed a.sent).island := by
      unfold State.countClash
      rw [hclashes, if_pos hmany]
    rw [hcount]
    obtain ⟨hunder, htoken, hbus⟩ := State.failed_island (sent := a.sent) hlink
    exact ⟨hkept hunder, htoken, hbus⟩
  · refine congrArg Host.Outcome.next ?_
    rw [if_pos (by rcases hlink with h | h <;> simp [State.running, hphase, h]), ha]
    unfold State.failed
    rfl
  · obtain ⟨hunder, htoken, hbus⟩ := State.failed_island (sent := a.sent) hlink
    exact ⟨hkept hunder, htoken, hbus⟩
  · refine congrArg Host.Outcome.next ?_
    rw [if_pos (by simp [State.running, hphase, ha])]
    unfold State.loseAttempt
    rw [ha]
  · have hunder := s.attemptFailed_undischarged a.sent
    have hlost := s.attemptFailed_ring a.sent
    have hbus := s.attemptFailed_bus a.sent
    generalize s.attemptFailed a.sent = f at hunder hlost hbus ⊢
    refine ⟨hkept (hunder.setBus _), hlost, ?_⟩
    rw [State.setBus_bus, hbus]

end Sys2Proof.Machine
end

section
/-! SUPPORT. What the station sends: O36. -/

namespace Sys2Proof.Machine

open Sys2Proof.Claims

variable {s t u : State}

/-! ### Payloads (R164) -/

theorem codeData_bytes (e : Event) : [BitVec.ofNat 8 e.codeData.1, BitVec.ofNat 8 e.codeData.2] = eventBytes e := by
  cases e with
  | ringTripped place => cases place <;> rfl
  | ringExpired rang => cases rang <;> rfl
  | _ => rfl

theorem digitNibble_wire (d : Digit) : BitVec.ofNat 4 (digitNibble d) = wireDigit d := by
  unfold digitNibble wireDigit
  split <;> rfl

/-- Digits packed from the front are the digits taken in pairs by their places. -/
theorem packDigits_eq : ∀ ds : List Digit, packDigits ds = digitBytes ds
  | [] => rfl
  | [d] => by simp [packDigits, digitBytes, nibbles, digitNibble_wire]
  | d :: e :: rest => by
    have hlength : ((d :: e :: rest).length + 1) / 2 = (rest.length + 1) / 2 + 1 := by simp only [List.length_cons]; omega
    rw [packDigits, packDigits_eq rest]
    unfold digitBytes
    rw [hlength, List.range_succ_eq_map, List.map_cons, List.map_map]
    refine congrArg₂ List.cons (by simp [nibbles, digitNibble_wire]) (List.map_congr_left fun j _ => ?_)
    simp [Nat.mul_add, Nat.mul_succ]

/-- The reading of a history entry, high byte first. -/
theorem Reading.bytes_eq (r : Reading) : r.bytes = historyBytes r := by
  have hhigh : (BitVec.ofNat 12 r.value).extractLsb' 8 4 = BitVec.ofNat 4 (r.value / 256) := by
    apply BitVec.eq_of_toNat_eq
    simp only [BitVec.extractLsb'_toNat, BitVec.toNat_ofNat, Nat.shiftRight_eq_div_pow]
    omega
  have hlow : (BitVec.ofNat 12 r.value).extractLsb' 0 8 = BitVec.ofNat 8 r.value := by
    apply BitVec.eq_of_toNat_eq
    simp only [BitVec.extractLsb'_toNat, BitVec.toNat_ofNat, Nat.shiftRight_eq_div_pow]
    omega
  show [BitVec.ofBool r.blanked ++ BitVec.ofBool r.saturated ++ 0#2 ++ (BitVec.ofNat 12 r.value).extractLsb' 8 4,
    (BitVec.ofNat 12 r.value).extractLsb' 0 8] = _
  rw [hhigh, hlow]; rfl

theorem LineState.stateByte_eq (l : LineState) : l.hook.state.code ++ l.ring.code ++ toneCode l.tone.tone ++ l.hook.mode.code = stateByte l := by
  rfl

theorem toList_four {α : Type} (v : Vector α 4) : v.toList = [v[0], v[1], v[2], v[3]] := by
  obtain ⟨⟨ls⟩, hls⟩ := v
  match ls, hls with
  | [a, b, c, d], _ => rfl

/-- The content of a report, byte by byte. -/
theorem State.reportContent_eq (s : State) (r : Report) : s.reportContent r = reportBytes s r := by
  cases r with
  | event n e => exact congrArg (fun bs => ((8 : BitVec 4), BitVec.ofNat 8 n.val :: bs)) (codeData_bytes e)
  | digits n ds lost => exact congrArg (fun bs => ((9 : BitVec 4), BitVec.ofNat 8 n.val :: (BitVec.ofBool lost ++ BitVec.ofNat 7 ds.length : Byte) :: bs)) (packDigits_eq ds)
  | state n lost =>
    simp only [State.reportContent, LineState.statePayload, LineState.stateByte_eq, toList_four, List.flatMap_cons, List.flatMap_nil, Reading.bytes_eq,
      List.append_nil, ← List.append_assoc]
    rfl
  | refusal b k r => cases k <;> cases r <;> rfl

/-! ### The choice (R148) -/

theorem State.mayAttempt_of (h : MayBegin s) : s.mayAttempt = true := by
  obtain ⟨hphase, hlink, hheld, hattempt, hrx, hbyte⟩ := h
  rcases hlink with hlink | hlink <;> simp [State.mayAttempt, State.running, hphase, hlink, hheld, hattempt, hrx, hbyte]

/-- The attempt at the row chosen in the prepared state. -/
theorem exec_attemptStart (h : MayBegin s) :
    exec .attemptStart s = .next (match s.prepareNotice.chooseRow with | some w => s.prepareNotice.beginAttempt w | none => s.prepareNotice) :=
  congrArg Host.Outcome.next (if_pos (State.mayAttempt_of h))

theorem State.heldClaim_none (h : ∀ n : Line, s.sched.token ≠ .held n) : s.heldClaim = none := by
  unfold State.heldClaim
  split
  · rename_i n hn; exact absurd hn (h n)
  · rfl
  · rfl

/-- A notice that is no refresh goes out as chosen. -/
theorem exec_attemptStart_of_row (h : MayBegin s) {w : Outgoing} {t : State} (ht : (if s.asm.releaseMask ≠ 0#8 then s else s.revalidate) = t)
    (hrow : t.chooseRow = some w) (hw : w.sent ≠ .refresh) : exec .attemptStart s = .next (t.beginAttempt w) := by
  have hprepare : s.prepareNotice = t := by
    unfold State.prepareNotice
    simp only [ht, hrow, if_neg hw]
  rw [exec_attemptStart h, hprepare, hrow]

/-- A refresh goes out with LINK DEGRADED decided first (R145). -/
theorem exec_attemptStart_of_refresh (h : MayBegin s) {cls : BitVec 2} (hmask : s.asm.releaseMask = 0#8) (hnot : ∀ n : Line, s.sched.token ≠ .held n)
    (hrow : ∀ b : Bus, (s.setBus b).chooseRow = some ((s.setBus b).refreshNotice cls)) :
    exec .attemptStart s = .next (Begun (Decided s) .refresh cls 2 (refreshBytes (Decided s))) := by
  have hstands : s.revalidate = s := State.revalidate_of_fits fun n o p htoken => absurd htoken (hnot n)
  have hprepare : s.prepareNotice = Decided s := by
    unfold State.prepareNotice
    rw [if_neg (not_not.2 hmask), hstands]
    simp only [show s.chooseRow = some (s.refreshNotice cls) from hrow s.bus]
    rfl
  rw [exec_attemptStart h, hprepare, show (Decided s).chooseRow = some ((Decided s).refreshNotice cls) from hrow _]
  rfl

/-- The line that a placement attempt takes can be placed. -/
theorem State.firstPlaceable_placed {ls : List Line} {n : Line} {p : Placement} (h : s.firstPlaceable ls = some (n, p)) : s.pendingPlacement n = some p := by
  induction ls with
  | nil => cases h
  | cons m ls ih =>
    unfold State.firstPlaceable at h
    split at h
    · rename_i q hq
      cases h; exact hq
    · exact ih h

/-- A placement attempt takes no line that cannot be placed. -/
theorem State.placementAttempt_of_unplaced {n : Line} (hcannot : CannotBePlaced s n) (hnot : s.sched.token ≠ .held n) :
    s.placementAttempt.ring n = s.ring n ∧ s.placementAttempt.sched.token ≠ .held n := by
  unfold State.placementAttempt
  (repeat' split)
  · rename_i m q hfirst
    have hne : n ≠ m := fun h => by
      subst h
      have hplaced := State.firstPlaceable_placed hfirst
      rw [State.pendingPlacement_none.2 hcannot] at hplaced
      cases hplaced
    unfold State.issueClaim
    split
    · rw [State.setToken_ring, State.ring_setRing, if_neg hne]
      exact ⟨rfl, by simp [Ne.symm hne]⟩
    all_goals exact ⟨rfl, hnot⟩
  all_goals exact ⟨rfl, hnot⟩

/-- A claim that is chosen is that of the token's line. -/
theorem State.chooseRow_claim {w : Outgoing} {n : Line} (h : s.chooseRow = some w) (hw : w.sent = .claim n) : s.sched.token = .held n := by
  unfold State.chooseRow at h
  split at h
  · cases h; cases hw
  · split at h
    · rename_i w' hheld
      cases h
      unfold State.heldClaim at hheld
      split at hheld
      · rename_i m htoken
        split at hheld
        · cases hheld; cases hw; exact htoken
        all_goals cases hheld
      all_goals cases hheld
    · split at h
      · cases h; cases hw
      · unfold State.reportOrDue at h
        split at h
        · cases h; cases hw
        · split at h
          · cases h; cases hw
          · cases h

theorem State.chooseRow_held {n : Line} {o : Order} {p : Placement} (hmask : s.asm.releaseMask = 0#8) (htoken : s.sched.token = .held n)
    (hn : s.ring n = .claiming o p) : s.chooseRow = some { sent := .claim n, cls := 1, kind := 0, payload := s.claimPayload n o p } := by
  unfold State.chooseRow State.heldClaim
  simp [hmask, htoken, hn]

theorem State.chooseRow_unheld (hmask : s.asm.releaseMask = 0#8) (hnot : ∀ n : Line, s.sched.token ≠ .held n) :
    s.chooseRow = if s.asm.refresh = .escalated then some (s.refreshNotice 1) else s.reportOrDue := by
  unfold State.chooseRow
  rw [if_neg (not_not.2 hmask), State.heldClaim_none hnot]

theorem noAttempt_of_mayBegin (h : MayBegin s) : s.bus.attempt = none := by
  obtain ⟨-, -, -, hattempt, -⟩ := h
  exact hattempt

/-- Where no release is owed, the state of the choice is that of the re-validation but for LINK DEGRADED. -/
theorem State.prepareNotice_of_unmasked (hmask : s.asm.releaseMask = 0#8) :
    ∃ b : Bus, s.prepareNotice = s.revalidate.setBus b ∧ b.attempt = s.revalidate.bus.attempt := by
  unfold State.prepareNotice
  rw [if_neg (not_not.2 hmask)]
  dsimp only
  split
  · split
    · exact ⟨_, rfl, rfl⟩
    · exact ⟨s.revalidate.bus, rfl, rfl⟩
  · exact ⟨s.revalidate.bus, rfl, rfl⟩

/-- A claim that no longer fits and cannot be placed afresh goes back to PENDING, and no claim of its line is sent. -/
theorem exec_attemptStart_unplaced (h : MayBegin s) {n : Line} {o : Order} (hmask : s.asm.releaseMask = 0#8)
    (hrevalidated : s.revalidate = s.replaceClaim n o) (hplaced : placed s n o = none) :
    ∃ t : State, exec .attemptStart s = .next t ∧ t.ring n = .pending o ∧ t.sched.token ≠ .held n ∧ ∀ b : Attempt, t.bus.attempt = some b → b.sent ≠ .claim n := by
  have hback : s.revalidate = (((s.setRing n (.pending o)).setToken .free)).placementAttempt := by
    rw [hrevalidated, State.replaceClaim, show s.placementOf n o = none from hplaced]
    rfl
  obtain ⟨hring, htoken⟩ := State.placementAttempt_of_unplaced (s := (s.setRing n (.pending o)).setToken .free) (n := n)
    (fun o' ho' => by
      rw [State.setToken_ring, State.ring_setRing, if_pos rfl] at ho'
      cases ho'
      exact hplaced)
    (by simp)
  rw [← hback, State.setToken_ring, State.ring_setRing, if_pos rfl] at hring
  rw [← hback] at htoken
  have hattempt : s.revalidate.bus.attempt = none := by simpa using noAttempt_of_mayBegin h
  obtain ⟨b, hprepare, hb⟩ := State.prepareNotice_of_unmasked hmask
  rw [exec_attemptStart h, hprepare]
  cases hrow : (s.revalidate.setBus b).chooseRow with
  | none => exact ⟨_, rfl, hring, htoken, fun c hc => by
      rw [State.setBus_bus, hb, hattempt] at hc; cases hc⟩
  | some w => exact ⟨_, rfl, hring, htoken, fun c hc hsent => by
      cases hc
      exact htoken (State.chooseRow_claim (s := s.revalidate.setBus b) hrow hsent)⟩

/-- Settles O36. -/
theorem attemptSendsTheFirstNoticePresent : Obligations.AttemptSendsTheFirstNoticePresent := by
  intro s h
  refine ⟨fun hmask => ?_, fun n o p hmask htoken hn => ?_, fun hmask hnot => ⟨fun hescalated => ?_, fun hcalm r rest hqueue => ?_, fun hdue hqueue => ?_, fun hnone hqueue => ?_⟩⟩
  · refine exec_attemptStart_of_row h (if_pos hmask) (if_pos hmask) (fun hw => by cases hw)
  · have hfree : s.claimInTransmission = false := by simp [State.claimInTransmission, noAttempt_of_mayBegin h]
    refine ⟨fun hfits => ?_, fun q hfits hplaced => ?_, fun hfits hplaced => ?_⟩
    · have hstands : s.revalidate = s := State.revalidate_of_fits fun n' o' p' htoken' hn' => by
        cases htoken.symm.trans htoken'
        cases hn.symm.trans hn'
        exact hfits
      exact exec_attemptStart_of_row h ((if_neg (not_not.2 hmask)).trans hstands) (State.chooseRow_held hmask htoken hn) (fun hw => by cases hw)
    · have hafresh : s.revalidate = s.setLine n { s.line n with ring := .claiming o q } := by
        rw [State.revalidate_of_not_fits htoken hn hfree hfits, State.replaceClaim, show s.placementOf n o = some q from hplaced]
        rfl
      have hring : (s.setLine n { s.line n with ring := .claiming o q }).ring n = .claiming o q := by
        unfold State.ring
        exact congrArg LineState.ring (State.line_setLine_same s n _)
      exact exec_attemptStart_of_row h ((if_neg (not_not.2 hmask)).trans hafresh) (State.chooseRow_held hmask htoken hring) (fun hw => by cases hw)
    · exact exec_attemptStart_unplaced h hmask (State.revalidate_of_not_fits htoken hn hfree hfits) hplaced
  · refine exec_attemptStart_of_refresh h hmask hnot fun b => ?_
    rw [State.chooseRow_unheld (s := s.setBus b) hmask hnot]
    exact if_pos hescalated
  · have hstands : s.revalidate = s := State.revalidate_of_fits fun n o p htoken => absurd htoken (hnot n)
    have hrow : s.chooseRow = some { sent := .report, cls := 2, kind := (s.reportContent r).1, payload := (s.reportContent r).2 } := by
      rw [State.chooseRow_unheld hmask hnot, if_neg hcalm, State.reportOrDue, hqueue]
    rw [exec_attemptStart_of_row h ((if_neg (not_not.2 hmask)).trans hstands) hrow (fun hw => by cases hw), ← State.reportContent_eq]
    rfl
  · refine exec_attemptStart_of_refresh h hmask hnot fun b => ?_
    rw [State.chooseRow_unheld (s := s.setBus b) hmask hnot, if_neg (by rw [State.setBus_asm, hdue]; decide), State.reportOrDue]
    simp [hqueue, hdue]
  · have hstands : s.revalidate = s := State.revalidate_of_fits fun n o p htoken => absurd htoken (hnot n)
    have hrow : s.chooseRow = none := by
      rw [State.chooseRow_unheld hmask hnot, if_neg (by rw [hnone]; decide), State.reportOrDue, hqueue]
      simp [hnone]
    have hprepare : s.prepareNotice = s := by
      unfold State.prepareNotice
      rw [if_neg (not_not.2 hmask), hstands]
      simp only [hrow]
    rw [exec_attemptStart h, hprepare, hrow]

end Sys2Proof.Machine
end

section
/-! SUPPORT. Hook supervision and tone by command: O42, O44 to O48; and the reading: O40. -/

namespace Sys2Proof.Machine

open Sys2Proof.Claims

variable {s t u : State}

/-! ### Readings (R85) -/

/-- The quotient rounded to the nearest, a half up. -/
theorem rounded_spec (c : Nat) {w : Nat} (hw : 0 < w) :
    64 * c < 2 * w * ((64 * c + w) / (2 * w)) + w ∧ 2 * w * ((64 * c + w) / (2 * w)) ≤ 64 * c + w := by
  have hdiv := Nat.div_add_mod (64 * c + w) (2 * w)
  have hmod := Nat.mod_lt (64 * c + w) (show 0 < 2 * w by omega)
  generalize 2 * w * ((64 * c + w) / (2 * w)) = q at hdiv ⊢
  omega

/-- Settles O40. -/
theorem readingScalesTheCount : Obligations.ReadingScalesTheCount := by
  intro c w hw hc
  have hscaled : c ≠ 4095 → readingOf c w = min 4095 ((64 * c + w) / (2 * w)) := fun h => if_neg h
  refine ⟨?_, fun h => if_pos h, fun h => ⟨_, (rounded_spec c hw).1, (rounded_spec c hw).2, hscaled h⟩, fun h32 => ?_, ?_, by decide⟩
  · by_cases h : c = 4095
    · exact (if_pos h).le
    · rw [hscaled h]; exact Nat.min_le_left _ _
  · by_cases h : c = 4095
    · rw [show readingOf c w = 4095 from if_pos h, h]
    · rw [hscaled h, h32]; omega
  · have hzero : w / (2 * w) = 0 := Nat.div_eq_of_lt (by omega)
    simp [readingOf, readingMax, hzero]

/-! ### Leak flags and pulses (R92 to R96) -/

/-- Settles O42. -/
theorem leakFlagsTurnAndPulsesCount : Obligations.LeakFlagsTurnAndPulsesCount := by
  intro s n
  refine ⟨fun hserves hstate hidle hmode => ⟨fun hflag => ⟨_, ?_, State.handEvent_handed _ _ _⟩, fun hflag => ⟨_, ?_, State.handEvent_handed _ _ _⟩⟩,
    fun hserves => congrArg Host.Outcome.next (if_pos hserves), fun hout => congrArg Host.Outcome.next (if_neg ?_)⟩
  · have heligible : (s.line n).leakEligible = true := by simp [LineState.leakEligible, hstate, hmode, show (s.line n).ring = .idle from hidle, RingRecord.isIdle]
    refine (congrArg Host.Outcome.next (if_pos (by simp [hserves, heligible, hflag]))).trans ?_
    rfl
  · have heligible : (s.line n).leakEligible = true := by simp [LineState.leakEligible, hstate, hmode, show (s.line n).ring = .idle from hidle, RingRecord.isIdle]
    refine (congrArg Host.Outcome.next (if_pos (by simp [hserves, heligible, hflag]))).trans ?_
    rfl
  · simp [State.serves, hout]

/-! ### The debounced loop -/

theorem LineState.loop_opened {l : LineState} (h : Majority l.hook.raw .opened) : l.loop = .opened := (RawStates.majority_iff_debounced _ _).1 h

theorem LineState.loop_closed {l : LineState} (h : Majority l.hook.raw .closed) : l.loop = .closed := (RawStates.majority_iff_debounced _ _).1 h

/-! ### Seizures (R101, R102) -/

/-- Three entries are free where 9 or fewer are in use. -/
theorem State.freeCount_three (s : State) : 3 ≤ s.freeCount ↔ s.asm.queue.length ≤ 9 := by
  unfold State.freeCount queueSize; omega

/-- A confirmed seizure of a line without ring work. -/
theorem State.confirmSeizure_idle {n : Line} (hidle : s.ring n = .idle) : ∃ u : State,
    Handed (s.setLine n { s.line n with hook := { (s.line n).hook with state := .offHook, seizeTimer := none } }) n .seize u ∧
    s.confirmSeizure n = u.setLine n { u.line n with
      hook := { (u.line n).hook with dialTimer := some 0 }
      tone := { tone := if u.asm.queue.length ≤ 9 then some .dial else some .withheld, suspended := none, dialled := false } } := by
  refine ⟨_, State.handEvent_handed _ n _, ?_⟩
  unfold State.confirmSeizure
  rw [hidle]
  refine (if_pos rfl).trans ?_
  show State.toneAtSeizure (State.onHook (State.handEvent (s.setLine n { s.line n with hook := { (s.line n).hook with state := .offHook, seizeTimer := none } })
    n .seize) n _) n = _
  generalize State.handEvent (s.setLine n { s.line n with hook := { (s.line n).hook with state := .offHook, seizeTimer := none } }) n .seize = u
  have hfree : 3 ≤ (u.onHook n fun h => { h with dialTimer := some 0 }).freeCount ↔ u.asm.queue.length ≤ 9 := u.freeCount_three
  unfold State.toneAtSeizure State.onTone
  simp only [hfree, apply_ite some]
  exact State.onLine_onLine _ n _ _

/-- A confirmed seizure of a line with ring work is a trip. -/
theorem State.confirmSeizure_trip {n : Line} {place : TripPlace} (hplace : (s.line n).tripPlace = some place) :
    Tripped (s.setLine n { s.line n with hook := { (s.line n).hook with state := .offHook, seizeTimer := none } }) n place (s.confirmSeizure n) := by
  have hbusy : (s.ring n).isIdle = false := by
    unfold LineState.tripPlace at hplace
    unfold State.ring
    cases hr : (s.line n).ring <;> simp [hr, RingRecord.isIdle] at hplace ⊢
  unfold State.confirmSeizure
  rw [hbusy]
  refine State.takeTrip_tripped _ ?_
  rw [← hplace, State.line_setLine_same]
  rfl

/-- Settles O45. -/
theorem seizureFailsOrIsConfirmed : Obligations.SeizureFailsOrIsConfirmed := by
  intro s n hserves hstate
  have hexec : exec (.seizeConfirm n) s = .next (s.trySeize n) := congrArg Host.Outcome.next (if_pos (by simp [hserves, hstate]))
  have hclosed (h : Majority (s.line n).hook.raw .closed) : exec (.seizeConfirm n) s = .next (s.confirmSeizure n) := by
    rw [hexec]
    unfold State.trySeize
    rw [LineState.loop_closed h]
  refine ⟨fun hopen => ?_, fun hclose hidle => ?_, fun hclose => ⟨fun o hn => ?_, fun o p hn => ?_, fun o p b hn => ?_⟩⟩
  · rw [hexec]
    unfold State.trySeize
    rw [LineState.loop_opened hopen]
    rfl
  · obtain ⟨u, hhanded, hconfirm⟩ := State.confirmSeizure_idle hidle
    exact ⟨u, hhanded, by rw [hclosed hclose, hconfirm]⟩
  all_goals
    refine ⟨_, State.confirmSeizure_trip ?_, hclosed hclose⟩
    unfold LineState.tripPlace
    rw [show (s.line n).ring = _ from hn]
  simp [State.ringClosed]

/-! ### Breaks and clears (R104, R106, R122) -/

theorem ToneRecord.suspend_eq (t : ToneRecord) : t.suspend = { t with tone := none, suspended := if t.tone = none then t.suspended else t.tone } := by
  obtain ⟨tone, suspended, dialled⟩ := t
  cases tone <;> rfl

/-- A clear declared, by the debounced loop. -/
theorem State.declareClear_handed (s : State) (n : Line) : ∃ u : State,
    Handed (s.setLine n { s.line n with
      hook := { (s.line n).hook with state := .onHook, mode := .free, pulses := 0, makeTimer := none, breakTimer := none, dialTimer := none }
      tone := { tone := none, suspended := none, dialled := false } }) n .clear u ∧
    s.declareClear n = match (s.line n).loop with
      | .opened => u
      | .closed => u.setLine n { u.line n with hook := { (u.line n).hook with state := .seizing, seizeTimer := some 0 } } := by
  refine ⟨_, State.handEvent_handed _ n _, ?_⟩
  unfold State.declareClear
  cases (s.line n).loop <;> rfl

/-- Settles O46. -/
theorem breaksStopToneAndClear : Obligations.BreaksStopToneAndClear := by
  intro s n hserves hstate
  refine ⟨fun d hd hnot => ?_, ?_⟩
  · refine (congrArg Host.Outcome.next (if_pos (by simp [hserves, hstate, hnot]))).trans ?_
    unfold State.tellGlitchLimit State.onTone State.onHook
    rw [State.onLine_onLine, State.onLine_onLine]
    simp only [ToneRecord.suspend_eq, State.onLine, hd, Option.getD_some]
    rfl
  · have hexec : exec (.clear n) s = .next (s.declareClear n) := congrArg Host.Outcome.next (if_pos (by simp [hserves, hstate]))
    obtain ⟨u, hhanded, hclear⟩ := s.declareClear_handed n
    refine ⟨u, hhanded, fun hopen => ?_, fun hclose => ?_⟩
    · rw [hexec, hclear, LineState.loop_opened hopen]
    · rw [hexec, hclear, LineState.loop_closed hclose]

/-! ### Trains (R107, R108) -/

theorem State.completeTrain_completed (s : State) (n : Line) : TrainCompleted s n (s.completeTrain n) := by
  have hdigit (h : (s.line n).hook.pulses ≤ 10) : s.completeTrain n =
      (s.onLine n fun l => ({ l with hook := { l.hook with pulses := 0, makeTimer := none } }).storeDigit (Fin.ofNat 10 (s.line n).hook.pulses)).takeDigits true n := by
    unfold State.completeTrain
    refine (if_pos h).trans (congrArg (fun u : State => u.takeDigits true n) ?_)
    exact State.onLine_onLine _ n _ _
  refine ⟨fun hdigits hroom => ?_, fun hdigits hfull => ?_, fun herror => ?_⟩
  · rw [hdigit hdigits]
    simp only [State.onLine, LineState.storeDigit, storeSize, hroom, if_true]
  · rw [hdigit hdigits]
    simp only [State.onLine, LineState.storeDigit, storeSize, Nat.not_lt.2 hfull, if_false]
  · unfold State.completeTrain
    rw [if_neg (by omega)]
    exact State.handEvent_handed _ n _

/-- A break that begins at a glitch limit of 1 ms or more is not told it at once. -/
theorem State.beginBreak_untold (s : State) (n : Line) (h : 1 ≤ s.params.timing.glitch) : s.beginBreak n =
    s.setLine n { s.line n with hook := { (s.line n).hook with state := .brk, breakTimer := some 0, glitchTold := false } } := by
  unfold State.beginBreak State.testGlitchLimit
  simp only [State.onHook, State.line_onLine_same]
  refine if_neg fun ⟨hlimit, _⟩ => ?_
  have hlimit : 8 * s.params.timing.glitch ≤ 0 := hlimit
  omega

/-- Settles O47. -/
theorem trainsCompleteAsDigits : Obligations.TrainsCompleteAsDigits := by
  intro s n hserves hstate hpulses
  have hexec : exec (.interdigitMake n) s = .next (s.offHookWindow n true) :=
    congrArg Host.Outcome.next (if_pos (by simp [hserves, hstate, HookRecord.inTrain, hpulses]))
  refine ⟨s.completeTrain n, s.completeTrain_completed n, fun hclose => ?_, fun hopen hlimit => ?_⟩
  · rw [hexec]
    unfold State.offHookWindow
    rw [LineState.loop_closed hclose]
    rfl
  · rw [hexec]
    unfold State.offHookWindow
    rw [LineState.loop_opened hopen]
    exact congrArg Host.Outcome.next (State.beginBreak_untold _ n (by simpa using hlimit))

/-! ### Dial tone and stutter (R111, R125) -/

/-- Settles O48. -/
theorem dialToneAndStutterTimersAct : Obligations.DialToneAndStutterTimersAct := by
  intro s n hserves
  refine ⟨fun htimer => ⟨_, State.handEvent_handed _ n _, ?_⟩, fun k d htone => ?_⟩
  · refine (congrArg Host.Outcome.next (if_pos (by simp [hserves, Option.isSome_iff_ne_none, htimer]))).trans ?_
    rfl
  · refine (congrArg Host.Outcome.next (if_pos hserves)).trans ?_
    simp only [State.onTone, State.onLine, htone]
    rfl

end Sys2Proof.Machine
end

section
/-! SUPPORT. Orders for tone, mode and state, and the receiver's own events: O49 to O52. -/

namespace Sys2Proof.Machine

open Sys2Proof.Claims

variable {s t u : State}

/-! ### Orders for tone and mode (R114, R126) -/

/-- A tone or mode order that is well formed is run for its line. -/
theorem exec_threeByteOrder {w : Notice} {n : Line} {k : Fin 3} (hserves : s.serves n = true) (hhearing : Hearing s) (kind : OrderKind)
    (hkind : kind = .tone ∨ kind = .mode) (h1 : 48 ≤ w.sender.toNat) (h2 : w.sender.toNat ≤ 55)
    (hpayload : w.payload = [BitVec.ofNat 8 s.address, BitVec.ofNat 8 n.val, BitVec.ofNat 8 k.val]) :
    exec (orderCommand kind w) s = .next (takeOf kind w (Heard s) n) ∧ field w 2 = k.val := by
  have hk : ((BitVec.ofNat 8 k.val).toNat) = k.val := by simp; omega
  have hn : ((BitVec.ofNat 8 n.val).toNat) = n.val := by simp; omega
  have haddress : (BitVec.ofNat 8 s.address).toNat = s.address := by
    have := s.straps.address.isLt
    simp [State.address]; omega
  have hfield : field w 2 = k.val := by simp only [field, hpayload]; exact hk
  have hfields : fieldsOk kind w = true := by
    rcases hkind with rfl | rfl <;> exact decide_eq_true (by rw [hfield]; omega)
  refine ⟨exec_orderCommand_taken hhearing kind h1 h2 (by rw [hpayload]; exact congrArg some haddress) ?_ hfields (by simp only [field, hpayload]; exact hn)
    (State.phase_of_serves hserves).2, hfield⟩
  rcases hkind with rfl | rfl <;> rw [hpayload] <;> rfl

/-- A refusal of such an order names its line. -/
theorem State.refuse_offered (s : State) {w : Notice} {a b c : Byte} (hpayload : w.payload = [a, b, c]) (kind : OrderKind) (r : Reason) :
    Offered s (.refusal b kind r) (s.refuse kind w r) := by
  have hline : lineByte w = b := by simp [lineByte, hpayload]
  rw [← hline]
  exact State.offerReport_offered _ _

theorem LineState.takesTone_iff (l : LineState) : l.takesTone = true ↔ (l.hook.state = .offHook ∨ l.hook.state = .brk) ∧ l.hook.mode ≠ .parked := by
  simp [LineState.takesTone]

/-- Settles O49. -/
theorem toneOrderSetsTheTone : Obligations.ToneOrderSetsTheTone := by
  intro s w n k hserves hhearing h1 h2 hpayload
  obtain ⟨htaken, hfield⟩ := exec_threeByteOrder hserves hhearing .tone (.inl rfl) h1 h2 hpayload
  have hexec : exec (.toneOrder w) s = .next (State.takeTone w (Heard s) n) := htaken
  refine ⟨fun hno => ⟨(Heard s).refuse .tone w .badState, ?_, State.refuse_offered _ hpayload _ _⟩, fun hoff hmode => ?_⟩
  · rw [hexec]
    refine congrArg Host.Outcome.next (if_neg ?_)
    rw [heard_line, LineState.takesTone_iff]
    rintro ⟨hoff, hmode⟩
    exact hno.elim (fun h => h hoff) hmode
  · have htakes : ((Heard s).line n).takesTone = true := by rw [heard_line]; exact (LineState.takesTone_iff _).2 ⟨hoff, hmode⟩
    unfold State.takeTone at hexec
    rw [if_pos htakes, hfield] at hexec
    rw [← heard_line]
    refine ⟨fun hk => ?_, fun hk => ?_, fun hk => ?_⟩
    all_goals
      subst hk
      rw [hexec]
    · rfl
    · exact congrArg Host.Outcome.next (State.onLine_onLine _ n _ _)
    · rfl

/-- Settles O50. -/
theorem modeOrderSetsTheMode : Obligations.ModeOrderSetsTheMode := by
  intro s w n k hserves hhearing h1 h2 hpayload
  obtain ⟨htaken, hfield⟩ := exec_threeByteOrder hserves hhearing .mode (.inr rfl) h1 h2 hpayload
  have hexec : exec (.modeOrder w) s = .next (State.takeMode w (Heard s) n) := htaken
  have hmode : ((Heard s).line n).hook.mode = (s.line n).hook.mode := by rw [heard_line]
  have hstate : ((Heard s).line n).hook.state = (s.line n).hook.state := by rw [heard_line]
  have hfree (h : k = 0) : exec (.modeOrder w) s = .next ((Heard s).setLine n (s.line n).modeFree) := by
    rw [hexec, ← heard_line]
    unfold State.takeMode
    rw [hfield, h]
    rfl
  have hincall (h : k = 1) (hoff : (s.line n).hook.state = .offHook ∨ (s.line n).hook.state = .brk) :
      exec (.modeOrder w) s = .next ((Heard s).setLine n (s.line n).modeInCall) := by
    rw [hexec, ← heard_line]
    unfold State.takeMode
    rw [hfield, h]
    exact congrArg Host.Outcome.next (if_pos (by rw [hstate]; exact hoff))
  have hsame : (Heard s).setLine n (s.line n) = Heard s := by
    rw [← heard_line]; exact State.setLine_line _ n
  refine ⟨fun h hm => ?_, fun h hm => ?_, fun h hm => ?_, fun h hoff => ?_, fun h hoff hm => ?_, fun h hoff hm => ?_, fun h hm => ?_, fun h hm => ?_⟩
  · rw [hfree h, LineState.modeFree, hm]
    exact congrArg Host.Outcome.next hsame
  · rw [hfree h, LineState.modeFree, hm]
  · rw [hfree h, LineState.modeFree, hm]
    rfl
  · refine ⟨(Heard s).refuse .mode w .badState, ?_, State.refuse_offered _ hpayload _ _⟩
    rw [hexec]
    unfold State.takeMode
    rw [hfield, h]
    exact congrArg Host.Outcome.next (if_neg (by rw [hstate]; exact hoff))
  · rw [hincall h hoff, LineState.modeInCall, hm]
    rfl
  · rw [hincall h hoff, LineState.modeInCall, hm]
    exact congrArg Host.Outcome.next hsame
  · rw [hexec]
    unfold State.takeMode
    rw [hfield, h]
    exact congrArg Host.Outcome.next (if_pos (by rw [hmode]; exact hm))
  · refine ⟨_, State.endRingWork_ended _ n, ?_⟩
    rw [hexec]
    unfold State.takeMode
    rw [hfield, h]
    exact congrArg Host.Outcome.next (if_neg (by rw [hmode]; exact hm))

/-! ### Queries and notices passed over (R143, R157, R160) -/

/-- Settles O51. -/
theorem queryIsAnsweredAndReportsIgnored : Obligations.QueryIsAnsweredAndReportsIgnored := by
  intro s w
  refine ⟨fun n hhearing huse h1 h2 hpayload => ⟨_, ?_, State.offerReport_offered _ _⟩, fun hreceiving => ⟨fun kind => ?_, ?_⟩⟩
  · have hn : ((BitVec.ofNat 8 n.val).toNat) = n.val := by simp; omega
    have haddress : (BitVec.ofNat 8 s.address).toNat = s.address := by
      have := s.straps.address.isLt
      simp [State.address]; omega
    exact exec_orderCommand_taken hhearing .query h1 h2 (by rw [hpayload]; exact congrArg some haddress) (by rw [hpayload]; rfl) rfl
      (by simp only [field, hpayload]; exact hn) huse
  · exact congrArg Host.Outcome.next (State.received_eq hreceiving id)
  · exact congrArg Host.Outcome.next (State.received_eq hreceiving State.countError)

/-! ### Errors, idle gaps and the held bus (R131, R140, R142) -/

/-- The sixteenth dominant sample in a row makes a bit time of the run. -/
theorem State.countDominant_bit (h : 15 ≤ s.bus.dominantSamples) : s.countDominant true =
    (let t : State := { s with bus := { s.bus with dominantSamples := 0, dominantRun := min 20 (s.bus.dominantRun + 1) } }
     if 20 ≤ t.bus.dominantRun ∧ t.bus.busHeld = false then t.run .busHeld else t) :=
  if_neg (show ¬ s.bus.dominantSamples + 1 < 16 by omega)

/-- Settles O52. -/
theorem receiverErrorsAndHeldBus : Obligations.ReceiverErrorsAndHeldBus := by
  intro s hphase
  have hrunning : s.running = true := by simp [State.running, hphase]
  refine ⟨fun hreceiving => ?_, fun hrx hheld => ?_, fun hattempt => ?_, fun hheld => ?_, ?_, fun hfew => ?_, fun hmany => ⟨fun hrun => ?_, fun hrun hheld => ?_, fun hrun hheld => ?_⟩⟩
  · exact congrArg Host.Outcome.next (if_pos (State.receives_of hreceiving))
  · exact congrArg Host.Outcome.next (if_pos (by rcases hrx with h | h <;> simp [hrunning, h, hheld]))
  · exact congrArg Host.Outcome.next (if_pos (by simp [hrunning, hattempt]))
  · exact congrArg Host.Outcome.next (if_pos (by simp [hrunning, hheld]))
  · rfl
  · exact if_pos (show s.bus.dominantSamples + 1 < 16 by omega)
  · rw [State.countDominant_bit hmany, show min 20 (s.bus.dominantRun + 1) = s.bus.dominantRun + 1 by omega]
    exact if_neg fun ⟨h, _⟩ => absurd (show 20 ≤ s.bus.dominantRun + 1 from h) (by omega)
  · rw [State.countDominant_bit hmany, show min 20 (s.bus.dominantRun + 1) = 20 by omega, if_pos ⟨Nat.le_refl 20, hheld⟩]
    exact State.exec_run _ _
  · rw [State.countDominant_bit hmany, show min 20 (s.bus.dominantRun + 1) = 20 by omega]
    exact if_neg fun ⟨_, h⟩ => absurd (hheld.symm.trans h) (by decide)

end Sys2Proof.Machine
end

section
/-! SUPPORT. Breaks classed by their length: O44. -/

namespace Sys2Proof.Machine

open Sys2Proof.Claims

variable {s t u : State}

/-- The suspended tone after a break without an event (R123). -/
theorem ToneRecord.breakWithoutEvent_eq (x : ToneRecord) : x.breakWithoutEvent =
    { x with tone := if x.suspended = none ∨ x.dialled = true then x.tone else x.suspended, suspended := none } := by
  obtain ⟨tone, suspended, dialled⟩ := x
  cases suspended <;> cases dialled <;> rfl

/-- A break that is no event ends. -/
theorem State.endBreak_nothing {n : Line} {d : Nat}
    (h : breakClass s.params.timing d = .glitch ∨ (breakClass s.params.timing d = .ambiguous ∧ (s.line n).hook.pulses = 0)) :
    s.endBreak n d = s.onLine n fun l => { l with tone := l.tone.breakWithoutEvent, hook := { l.hook with state := .offHook, breakTimer := none } } := by
  unfold State.endBreak
  rcases h with h | ⟨h, hp⟩
  · rw [h]
    exact State.onLine_onLine _ n _ _
  · rw [h]
    have hno : (s.line n).hook.inTrain = false := by simp [HookRecord.inTrain, hp]
    simp only [hno, Bool.false_eq_true, if_false]
    exact State.onLine_onLine _ n _ _

/-- A break that counts as a pulse ends. -/
theorem State.endBreak_pulse {n : Line} {d : Nat}
    (h : breakClass s.params.timing d = .pulse ∨ (breakClass s.params.timing d = .ambiguous ∧ (s.line n).hook.pulses ≠ 0)) :
    s.endBreak n d = s.onLine n fun l =>
      { l with tone := { l.tone with suspended := none }, hook := { l.hook.countPulse with state := .offHook, breakTimer := none } } := by
  have hpulse : (((s.onHook n HookRecord.countPulse).onTone n ToneRecord.breakWithEvent).onHook n fun h => { h with state := .offHook, breakTimer := none }) =
      s.onLine n fun l => { l with tone := { l.tone with suspended := none }, hook := { l.hook.countPulse with state := .offHook, breakTimer := none } } := by
    unfold State.onHook State.onTone
    rw [State.onLine_onLine, State.onLine_onLine]
    rfl
  unfold State.endBreak
  rcases h with h | ⟨h, hp⟩
  · rw [h]
    exact hpulse
  · rw [h]
    simp only [HookRecord.inTrain, bne_iff_ne.2 hp, if_true]
    exact hpulse

theorem State.handEvent_hook (s : State) (n m : Line) (e : Event) : ((s.handEvent n e).line m).hook = (s.line m).hook := by simp

/-- Handing an event may make a WITHHELD line DIAL; suspended tones stand. -/
theorem State.handEvent_suspended (s : State) (n m : Line) (e : Event) : ((s.handEvent n e).line m).tone.suspended = (s.line m).tone.suspended := by
  unfold State.handEvent
  split
  · rfl
  · split
    · rw [State.line_onLine]; split <;> simp [*]
    · unfold State.pushReport
      rw [State.reconsiderWithheld_line]
      split <;> rfl

/-- A flash completes the train first. -/
theorem State.takeFlash_train (s : State) (n : Line) : ∃ u v : State,
    ((s.line n).hook.pulses = 0 → u = s) ∧ ((s.line n).hook.pulses ≠ 0 → TrainCompleted s n u) ∧
    u = (if (s.line n).hook.inTrain = true then s.completeTrain n else s) ∧
    v = (u.setLine n { u.line n with tone := { (u.line n).tone with suspended := none } }).handEvent n .flash ∧
    (s.takeFlash n).onHook n (fun h => { h with state := .offHook, breakTimer := none }) = v.setLine n { v.line n with
      hook := { (v.line n).hook with state := .offHook, breakTimer := none, dialTimer := none, pulses := 0, makeTimer := none }
      tone := if s.params.flashMode n = .recall then { (v.line n).tone with tone := some (.recall (.burst 0) 0), suspended := none }
        else (v.line n).tone } := by
  refine ⟨_, _, fun hp => if_neg (by simp [HookRecord.inTrain, hp]), fun hp => ?_, rfl, rfl, ?_⟩
  · rw [if_pos (by simp [HookRecord.inTrain, hp])]
    exact s.completeTrain_completed n
  · unfold State.takeFlash
    cases s.params.flashMode n
    · show State.onHook (State.onHook _ n _) n _ = _
      unfold State.onHook
      rw [State.onLine_onLine]
      rfl
    · show State.onHook (State.onTone (State.onHook _ n _) n _) n _ = _
      unfold State.onHook
      rw [State.onTone, State.onLine_onLine, State.onLine_onLine]
      rfl

/-- The hook record of another line stands through a train's completion before a flash, and that of the line keeps its mode. -/
theorem State.trainFirst_hook (s : State) (n : Line) : let u := if (s.line n).hook.inTrain = true then s.completeTrain n else s
    (u.line n).hook.mode = (s.line n).hook.mode ∧ ∀ m : Line, m ≠ n → (u.line m).hook = (s.line m).hook := by
  intro u
  unfold u
  split
  · obtain ⟨hmode, -⟩ := s.completeTrain_hook n
    exact ⟨hmode, fun m hm => s.completeTrain_hook_ne n m hm⟩
  · exact ⟨rfl, fun _ _ => rfl⟩

section Class
variable {p : TimingParams} {d : Nat}

theorem breakClass_glitch (h : d < 8 * p.glitch) : breakClass p d = .glitch := if_pos h

theorem breakClass_pulse (h1 : 8 * p.glitch ≤ d) (h2 : d ≤ 8 * p.pulseMax) : breakClass p d = .pulse :=
  (if_neg (Nat.not_lt.2 h1)).trans (if_pos h2)

theorem breakClass_ambiguous (h0 : 8 * p.glitch ≤ d) (h1 : 8 * p.pulseMax < d) (h2 : d < 8 * p.flashMin) : breakClass p d = .ambiguous :=
  (if_neg (Nat.not_lt.2 h0)).trans ((if_neg (Nat.not_le.2 h1)).trans (if_pos h2))

theorem breakClass_flash (h0 : 8 * p.glitch ≤ d) (h1 : 8 * p.pulseMax < d) (h2 : 8 * p.flashMin ≤ d) : breakClass p d = .flash :=
  (if_neg (Nat.not_lt.2 h0)).trans ((if_neg (Nat.not_le.2 h1)).trans (if_neg (Nat.not_lt.2 h2)))

end Class

/-- A break that is a flash ends as one. -/
theorem State.endBreak_flash {n : Line} {d : Nat} (h : breakClass s.params.timing d = .flash) :
    s.endBreak n d = (s.takeFlash n).onHook n fun h => { h with state := .offHook, breakTimer := none } := by
  unfold State.endBreak
  rw [h]

/-- What every end of a break does: OFF-HOOK, the break timer stopped, no other line's hook record touched. -/
theorem State.endBreak_ends (s : State) (n : Line) (d : Nat) : ((s.endBreak n d).line n).hook.state = .offHook ∧
    ((s.endBreak n d).line n).hook.breakTimer = none ∧ ∀ m : Line, m ≠ n → ((s.endBreak n d).line m).hook = (s.line m).hook := by
  have hnothing (h : breakClass s.params.timing d = .glitch ∨ (breakClass s.params.timing d = .ambiguous ∧ (s.line n).hook.pulses = 0)) :
      ((s.endBreak n d).line n).hook.state = .offHook ∧ ((s.endBreak n d).line n).hook.breakTimer = none ∧
        ∀ m : Line, m ≠ n → ((s.endBreak n d).line m).hook = (s.line m).hook := by
    rw [State.endBreak_nothing h]
    exact ⟨by rw [State.line_onLine_same], by rw [State.line_onLine_same], fun m hm => by rw [State.line_onLine_ne _ hm]⟩
  have hpulse (h : breakClass s.params.timing d = .pulse ∨ (breakClass s.params.timing d = .ambiguous ∧ (s.line n).hook.pulses ≠ 0)) :
      ((s.endBreak n d).line n).hook.state = .offHook ∧ ((s.endBreak n d).line n).hook.breakTimer = none ∧
        ∀ m : Line, m ≠ n → ((s.endBreak n d).line m).hook = (s.line m).hook := by
    rw [State.endBreak_pulse h]
    exact ⟨by rw [State.line_onLine_same], by rw [State.line_onLine_same], fun m hm => by rw [State.line_onLine_ne _ hm]⟩
  cases hclass : breakClass s.params.timing d with
  | glitch => exact hnothing (.inl hclass)
  | pulse => exact hpulse (.inl hclass)
  | ambiguous =>
    by_cases hp : (s.line n).hook.pulses = 0
    · exact hnothing (.inr ⟨hclass, hp⟩)
    · exact hpulse (.inr ⟨hclass, hp⟩)
  | flash =>
    obtain ⟨u, v, -, -, hu, hv, ht⟩ := s.takeFlash_train n
    rw [State.endBreak_flash hclass, ht]
    refine ⟨by rw [State.line_setLine_same], by rw [State.line_setLine_same], fun m hm => ?_⟩
    obtain ⟨-, hothers⟩ := s.trainFirst_hook n
    have hhook : (v.line m).hook = (u.line m).hook := by
      rw [hv, State.handEvent_hook, State.line_setLine_ne _ hm]
    rw [State.line_setLine_ne _ hm, hhook, hu]
    exact hothers m hm

/-- Settles O44. -/
theorem breaksAreClassedByLength : Obligations.BreaksAreClassedByLength := by
  intro s n d h T x given hlow hmid
  obtain ⟨hstate, htimer, hothers⟩ := s.endBreak_ends n d
  refine ⟨_, rfl, hstate, htimer, hothers, fun hd => ?_, fun h1 h2 => ?_, fun h1 h2 hp => ?_, fun h1 h2 hp => ?_, fun h1 => ?_⟩
  · rw [State.endBreak_nothing (.inl (breakClass_glitch hd)), State.line_onLine_same]
    exact ⟨rfl, rfl, rfl, ToneRecord.breakWithoutEvent_eq _⟩
  · rw [State.endBreak_pulse (.inl (breakClass_pulse h1 h2)), State.line_onLine_same]
    exact ⟨rfl, rfl, rfl, rfl⟩
  · rw [State.endBreak_pulse (.inr ⟨breakClass_ambiguous (p := T) (by omega) h1 h2, hp⟩), State.line_onLine_same]
    exact ⟨rfl, rfl, rfl, rfl⟩
  · rw [State.endBreak_nothing (.inr ⟨breakClass_ambiguous (p := T) (by omega) h1 h2, hp⟩), State.line_onLine_same]
    exact ⟨hp, rfl, rfl, ToneRecord.breakWithoutEvent_eq _⟩
  · obtain ⟨u, v, hnone, htrain, hu, hv, ht⟩ := s.takeFlash_train n
    obtain ⟨hmode, -⟩ := s.trainFirst_hook n
    have hhook : (v.line n).hook = (u.line n).hook := by
      rw [hv, State.handEvent_hook, State.line_setLine_same]
    have hsuspended : (v.line n).tone.suspended = none := by
      rw [hv, State.handEvent_suspended, State.line_setLine_same]
    rw [State.endBreak_flash (breakClass_flash (p := T) (by omega) (by omega) h1), ht, State.line_setLine_same]
    refine ⟨rfl, rfl, rfl, ?_, ?_, fun hrecall => ?_, fun hp hkept hroom => ?_, u, v, hnone, htrain, ?_, rfl⟩
    · dsimp only
      rw [hhook, hu]
      exact hmode
    · dsimp only
      split
      · rfl
      · exact hsuspended
    · dsimp only
      rw [if_pos hrecall]
    · show v.asm.queue = _
      have hroom' : (u.setLine n { u.line n with tone := { (u.line n).tone with suspended := none } }).asm.queue.length < 12 := by
        rw [hnone hp]; exact hroom
      have hkept' : ((u.setLine n { u.line n with tone := { (u.line n).tone with suspended := none } }).line n).eventsLost = false := by
        rw [State.line_setLine_same, hnone hp]; exact hkept
      obtain ⟨hframe, -⟩ := (State.handEvent_handed _ n .flash).2.2 hkept' hroom'
      rw [hv, hframe, hnone hp]
      rfl
    · rw [hv]
      exact State.handEvent_handed _ _ _

end Sys2Proof.Machine
end

section
/-! SUPPORT. Commands whose event cannot occur: O54. -/

namespace Sys2Proof.Machine

open Sys2Proof.Claims

variable {s t u : State}

theorem State.active_held (h : s.phase = .held) : s.active = false := by simp [State.active, h]

theorem State.running_false (h : s.phase ≠ .running) : s.running = false := by simpa [State.running] using h

theorem State.serves_false {n : Line} (h : s.phase ≠ .running ∨ s.inUse n = false) : s.serves n = false := by
  unfold State.serves
  rcases h with h | h
  · rw [State.running_false h, Bool.false_and]
  · rw [h, Bool.and_false]

/-! ### Lines without the state of an event -/

/-- A line that is not served takes no command. -/
theorem exec_of_not_serves {n : Line} (h : s.serves n = false) {c : Instr}
    (hc : c ∈ [Instr.deadTimeToRing n, .deadTimeToFeed n, .zcWaitTimeout n, .ringExpiry n, .ringDeferral n, .ringTrip n, .leakOn n, .leakOff n, .seizeConfirm n,
      .glitchLimitReached n, .clear n, .interdigitMake n, .permanentLoop n, .stutterAdvance n, .sensePulseEdge n]) : exec c s = .next s := by
  have hguard (b : Bool) : ¬ (s.serves n && b) = true := by simp [h]
  have hguard2 (b c : Bool) : ¬ (s.serves n && b && c) = true := by simp [h]
  have hno : ¬ s.serves n = true := by simp [h]
  simp only [List.mem_cons, List.not_mem_nil, or_false] at hc
  rcases hc with rfl | rfl | rfl | rfl | rfl | rfl | rfl | rfl | rfl | rfl | rfl | rfl | rfl | rfl | rfl
  · exact congrArg Host.Outcome.next (if_neg (hguard _))
  · exact congrArg Host.Outcome.next (if_neg (hguard _))
  · exact congrArg Host.Outcome.next (if_neg (hguard _))
  · exact congrArg Host.Outcome.next (if_neg hno)
  · refine congrArg Host.Outcome.next ?_
    split
    · exact if_neg fun ⟨hs, _⟩ => hno hs
    all_goals rfl
  · exact congrArg Host.Outcome.next (if_neg hno)
  · exact congrArg Host.Outcome.next (if_neg (hguard2 _ _))
  · exact congrArg Host.Outcome.next (if_neg (hguard2 _ _))
  · exact congrArg Host.Outcome.next (if_neg (hguard _))
  · exact congrArg Host.Outcome.next (if_neg (hguard2 _ _))
  · exact congrArg Host.Outcome.next (if_neg (hguard _))
  · exact congrArg Host.Outcome.next (if_neg (hguard2 _ _))
  · exact congrArg Host.Outcome.next (if_neg (hguard _))
  · exact congrArg Host.Outcome.next (if_neg hno)
  · exact congrArg Host.Outcome.next (if_neg hno)

/-- An expiry of an IDLE line. -/
theorem exec_ringExpiry_idle {n : Line} (h : s.ring n = .idle) : exec (.ringExpiry n) s = .next s := by
  refine congrArg Host.Outcome.next (ite_eq_right_iff.2 fun _ => ?_)
  have hsame : s.setRing n ((s.ring n).mapOrder fun o => { o with elapsed := o.limit }) = s := by
    rw [h]
    show s.setLine n { s.line n with ring := .idle } = s
    rw [← show (s.line n).ring = .idle from h]
    exact State.setLine_line s n
  rw [hsame]
  unfold State.expire
  rw [h]
  rfl

/-- A deferral that is not due. -/
theorem exec_ringDeferral_undue {n : Line}
    (h : (s.ring n).isPending = false ∨ (∃ o : Order, s.ring n = .pending o ∧ (o.deferred = true ∨ o.limit ≤ 8))) : exec (.ringDeferral n) s = .next s := by
  refine congrArg Host.Outcome.next ?_
  split
  · rename_i o ho
    refine if_neg fun ⟨_, hlimit, hnot⟩ => ?_
    have hlimit : 8 < o.limit := hlimit
    rcases h with h | ⟨o', ho', h⟩
    · rw [ho] at h; cases h
    · rw [ho] at ho'; cases ho'
      rcases h with h | h
      · rw [hnot] at h; cases h
      · omega
  all_goals rfl

theorem LineState.leakEligible_iff (l : LineState) : l.leakEligible = true ↔ l.hook.state = .onHook ∧ l.ring = .idle ∧ l.hook.mode ≠ .parked := by
  unfold LineState.leakEligible
  cases l.ring <;> simp [RingRecord.isIdle]

/-- A stutter advance of a line without recall tone. -/
theorem exec_stutterAdvance_silent {n : Line} (h : ∀ (p : StutterPhase) (d : Nat), (s.line n).tone.tone ≠ some (.recall p d)) :
    exec (.stutterAdvance n) s = .next s := by
  refine congrArg Host.Outcome.next (ite_eq_right_iff.2 fun _ => ?_)
  refine Eq.trans ?_ (State.setLine_line s n)
  unfold State.onTone State.onLine
  refine congrArg (s.setLine n) ?_
  dsimp only
  split
  · rename_i p d hp; exact absurd hp (h p d)
  all_goals rfl

/-- A close of the marker window that has passed, or outside slot 0. -/
theorem exec_markerWindowCloses_passed (h : s.cadence.slot ≠ 0 ∨ s.cadence.past = true ∧ 40 < s.cadence.slotTimer) : exec .markerWindowCloses s = .next s := by
  refine congrArg Host.Outcome.next (ite_eq_right_iff.2 fun hc => ?_)
  rcases h with h | ⟨hpast, htimer⟩
  · obtain ⟨-, hslot⟩ := (Bool.and_eq_true _ _).mp hc
    exact absurd (beq_iff_eq.1 hslot) h
  · have hmax : max s.cadence.slotTimer pastWindow = s.cadence.slotTimer := Nat.max_eq_left (show 41 ≤ _ by omega)
    rw [if_pos hpast, hmax]
    rfl

/-! ### The bus -/

theorem State.mayAttempt_iff : s.mayAttempt = true ↔ MayBegin s := by
  simp [State.mayAttempt, MayBegin, State.running, and_assoc]

theorem State.receives_iff : s.receives = true ↔ Receiving s := by
  simp only [State.receives, State.hears, State.running, Receiving, Bool.and_eq_true, beq_iff_eq, Bool.not_eq_true', Option.isNone_iff_eq_none]
  tauto

theorem State.hears_iff : s.hears = true ↔ Hearing s := by
  simp [State.hears, State.running, Hearing, and_assoc]

theorem State.received_not (h : ¬ Receiving s) (f : State → State) : s.received f = s := if_neg fun hr => h (State.receives_iff.1 hr)

theorem State.ordered_not (h : ¬ Hearing s) (f : State → State) : s.ordered f = s := if_neg fun hr => h (State.hears_iff.1 hr)

/-- Without an attempt none is lost, ended by clash or completed. -/
theorem exec_without_attempt (h : s.bus.attempt = none) :
    (∀ b : Byte, exec (.arbitrationLoss b) s = .next s) ∧ exec .clash s = .next s ∧ exec .ownNoticeCompletion s = .next s := by
  refine ⟨fun b => congrArg Host.Outcome.next (if_neg (by simp [h])), congrArg Host.Outcome.next (ite_eq_right_iff.2 fun _ => ?_), congrArg Host.Outcome.next ?_⟩
  · unfold State.clashAttempt
    rw [h]
  · rw [h]

theorem exec_startEdge_untaken (h : s.bus.rx = .waiting ∨ s.bus.rx = .discarding ∨ s.bus.busHeld = true ∨ s.bus.byte ≠ none) (d : Bool) (b : Byte) :
    exec (.startEdge d b) s = .next s := by
  refine congrArg Host.Outcome.next ?_
  rcases h with h | h | h | h
  · rw [h]; exact ite_self s
  · rw [h]; exact ite_self s
  · exact if_neg (by simp [h])
  · exact if_neg (by simp [Option.isNone_iff_eq_none, h])

/-- A bus that is not at work takes no command. -/
theorem exec_bus_not_running (h : s.phase ≠ .running) (a : PeerAddr) (d : Bool) (b : Byte) {c : Instr}
    (hc : c ∈ [Instr.windowEnd, .entryAgedOut a, .attemptStart, .arbitrationLoss b, .clash, .islanding, .ownNoticeCompletion, .receiverIdle, .busHeld,
      .busHeldClear, .startEdge d b]) : exec c s = .next s := by
  have hno : s.running = false := State.running_false h
  simp only [List.mem_cons, List.not_mem_nil, or_false] at hc
  rcases hc with rfl | rfl | rfl | rfl | rfl | rfl | rfl | rfl | rfl | rfl | rfl
  · exact congrArg Host.Outcome.next (if_neg (by simp [hno]))
  · exact congrArg Host.Outcome.next (if_neg (by simp [hno]))
  · exact congrArg Host.Outcome.next (if_neg (by simp [State.mayAttempt, hno]))
  · exact congrArg Host.Outcome.next (if_neg (by simp [hno]))
  · exact congrArg Host.Outcome.next (if_neg (by simp [hno]))
  · exact congrArg Host.Outcome.next (if_neg (by simp [hno]))
  · refine congrArg Host.Outcome.next ?_
    split
    · exact if_neg (by simp [hno])
    · rfl
  · exact congrArg Host.Outcome.next (if_neg (by simp [hno]))
  · exact congrArg Host.Outcome.next (if_neg (by simp [hno]))
  · exact congrArg Host.Outcome.next (if_neg (by simp [hno]))
  · exact congrArg Host.Outcome.next (if_neg (by simp [hno]))

/-- A part held in reset takes no command of the clocks or of the link. -/
theorem exec_clocks_held (h : s.phase = .held) {c : Instr}
    (hc : c ∈ [Instr.slotEnd, .cycleMarker, .markerWindowOpens, .markerWindowCloses, .markerLost, .zeroCrossMark, .zcLost, .listenPeriodEnd,
      .islandedPeriodEnd]) : exec c s = .next s := by
  have hno : s.active = false := State.active_held h
  simp only [List.mem_cons, List.not_mem_nil, or_false] at hc
  rcases hc with rfl | rfl | rfl | rfl | rfl | rfl | rfl | rfl | rfl
  all_goals exact congrArg Host.Outcome.next (if_neg (by simp [hno]))

/-- Settles O54. -/
theorem commandsWithoutTheirEventChangeNothing : Obligations.CommandsWithoutTheirEventChangeNothing := by
  intro s n a w
  refine ⟨fun h _ => congrArg Host.Outcome.next (if_neg h), fun h => congrArg Host.Outcome.next (if_neg (by simp [h])), exec_markerWindowCloses_passed,
    fun h => congrArg Host.Outcome.next (if_neg (by simp [h])), fun h => congrArg Host.Outcome.next (if_neg (by simp [h])),
    fun h => congrArg Host.Outcome.next (if_neg (by simp [h])), exec_ringExpiry_idle, exec_ringDeferral_undue,
    fun h => congrArg Host.Outcome.next (if_neg (by simp [h])), fun h => congrArg Host.Outcome.next (if_neg (by simp [h])),
    fun h => congrArg Host.Outcome.next (if_neg (by simp [h])), fun h => congrArg Host.Outcome.next (if_neg (by simp [h])), ?_,
    fun h => ⟨congrArg Host.Outcome.next (if_neg (by simp [h])), congrArg Host.Outcome.next (if_neg (by simp [h]))⟩,
    fun h => congrArg Host.Outcome.next (if_neg (by simp [h])), fun h => congrArg Host.Outcome.next (if_neg ?_), exec_stutterAdvance_silent,
    fun h => congrArg Host.Outcome.next (if_neg ?_), fun h => congrArg Host.Outcome.next (if_neg (by simp [h])),
    fun h => congrArg Host.Outcome.next (if_neg fun hm => h (State.mayAttempt_iff.1 hm)), exec_without_attempt,
    fun h => ⟨congrArg Host.Outcome.next (State.received_not h _), congrArg Host.Outcome.next (if_neg fun hr => h (State.receives_iff.1 hr)),
      congrArg Host.Outcome.next (State.received_not h _), congrArg Host.Outcome.next (State.received_not h _),
      congrArg Host.Outcome.next (State.received_not h _), fun _ => congrArg Host.Outcome.next (State.received_not h _)⟩,
    fun h kind => ?_, fun h => congrArg Host.Outcome.next (if_neg (by simp [h])), exec_startEdge_untaken,
    fun h => congrArg Host.Outcome.next (if_neg ?_), fun h => congrArg Host.Outcome.next (if_neg (by simp [h])),
    fun h c hc => exec_of_not_serves (State.serves_false h) hc, fun h d b c hc => exec_bus_not_running h a d b hc, fun h c hc => exec_clocks_held h hc⟩
  · have hineligible (h : (s.line n).hook.state ≠ .onHook ∨ s.ring n ≠ .idle ∨ (s.line n).hook.mode = .parked) : (s.line n).leakEligible = false :=
      Bool.eq_false_iff.2 fun he => by
        obtain ⟨h1, h2, h3⟩ := (LineState.leakEligible_iff _).1 he
        exact h.elim (fun h => h h1) fun h => h.elim (fun h => h h2) h3
    refine ⟨fun h => congrArg Host.Outcome.next (if_neg ?_), fun h => congrArg Host.Outcome.next (if_neg ?_)⟩
    · rcases h with h | h
      · simp [hineligible h]
      · simp [h]
    · rcases h with h | h
      · simp [hineligible h]
      · simp [h]
  · rcases h with h | h
    · simp [h]
    · simp [HookRecord.inTrain, h]
  · rcases h with h | h <;> simp [h]
  · cases kind <;> exact congrArg Host.Outcome.next (State.ordered_not h _)
  · rcases h with h | h <;> simp [h]

end Sys2Proof.Machine
end

section
/-! SUPPORT. A notice read back: O56. -/

namespace Sys2Proof.Machine

/-- The high bits of two joined bit strings. -/
theorem high_append {v w : Nat} (x : BitVec v) (y : BitVec w) : (x ++ y).extractLsb' w v = x := by
  ext i hi
  simp [BitVec.getElem_extractLsb', BitVec.getLsbD_append, BitVec.getLsbD_eq_getElem hi]

/-- The low bits of two joined bit strings. -/
theorem low_append {v w : Nat} (x : BitVec v) (y : BitVec w) : (x ++ y).extractLsb' 0 w = y := by
  ext i hi
  simp [BitVec.getElem_extractLsb', BitVec.getLsbD_append, hi]

/-- The bytes of a notice of up to 15 payload bytes are read as it. -/
theorem decodeNotice_noticeBytes (kind : BitVec 4) (w : Notice) (hlength : w.payload.length < 16) :
    decodeNotice (noticeBytes kind w) = commandOfKind kind w := by
  obtain ⟨cls, sender, payload⟩ := w
  have hkind : (kindLengthByte kind payload.length).extractLsb' 4 4 = kind := high_append kind _
  have hcount : ((kindLengthByte kind payload.length).extractLsb' 0 4).toNat = payload.length := by
    have hlow : (kindLengthByte kind payload.length).extractLsb' 0 4 = BitVec.ofNat 4 payload.length := low_append kind _
    rw [hlow, BitVec.toNat_ofNat]
    exact Nat.mod_eq_of_lt hlength
  have hcls : (arbitrationByte cls sender).extractLsb' 6 2 = cls := high_append cls sender
  have hsender : (arbitrationByte cls sender).extractLsb' 0 6 = sender := low_append cls sender
  generalize hbody : arbitrationByte cls sender :: kindLengthByte kind payload.length :: payload = body
  have hlast : (body ++ [crc8 body]).getLast? = some (crc8 (body ++ [crc8 body]).dropLast) := by simp
  have hsize : (body ++ [crc8 body]).length = 3 + payload.length := by rw [← hbody]; simp; omega
  have hbytes : noticeBytes kind ⟨cls, sender, payload⟩ = body ++ [crc8 body] := by rw [← hbody]; rfl
  have hsplit : body ++ [crc8 body] = arbitrationByte cls sender :: kindLengthByte kind payload.length :: (payload ++ [crc8 body]) := by rw [← hbody]; rfl
  rw [hbytes]
  unfold decodeNotice
  rw [hsplit] at hlast hsize ⊢
  simp only [hkind, hcount, hcls, hsender, hsize, hlast, and_self, if_true, List.dropLast_concat]

/-- A notice heard in a command that can occur has a payload of at most 12 bytes. -/
theorem lengthOk_of_noticeOf {c : Instr} {kind : BitVec 4} {w : Notice} (hformed : c.wellFormed = true) (hnotice : noticeOf c = some (kind, w)) :
    w.lengthOk = true := by
  cases c <;> cases hnotice
  case reportNoticeHeard.refl => exact ((Bool.and_eq_true _ _).mp hformed).2
  all_goals exact ((Bool.and_eq_true _ _).mp hformed).1

/-- The kind of a notice gives its command back; the kinds of reports are 8 to 11. -/
theorem commandOfKind_noticeOf {c : Instr} {kind : BitVec 4} {w : Notice} (hformed : c.wellFormed = true) (hnotice : noticeOf c = some (kind, w))
    (hreport : ∀ k v, c = .reportNoticeHeard k v → 8 ≤ k.toNat) : commandOfKind kind w = c := by
  cases c <;> cases hnotice
  case reportNoticeHeard.refl =>
    have hlow : 8 ≤ kind.toNat := hreport kind w rfl
    have hhigh : kind.toNat ≤ 11 := by simpa [kindOk] using ((Bool.and_eq_true _ _).mp hformed).1
    have hkind : kind.toNat = 8 ∨ kind.toNat = 9 ∨ kind.toNat = 10 ∨ kind.toNat = 11 := by omega
    unfold commandOfKind
    rcases hkind with h | h | h | h
    all_goals
      rw [h]
      rfl
  all_goals rfl

/-- Settles O56. -/
theorem decodingAnEncodedNoticeGivesItBack : Obligations.DecodingAnEncodedNoticeGivesItBack := by
  intro c bytes hformed hreport hencode
  unfold encodeNotice at hencode
  obtain ⟨⟨kind, w⟩, hnotice, hbytes⟩ := Option.map_eq_some_iff.1 hencode
  have hlength : w.payload.length ≤ 12 := by simpa [Notice.lengthOk] using lengthOk_of_noticeOf hformed hnotice
  rw [← hbytes]
  exact (decodeNotice_noticeBytes kind w (by omega)).trans (commandOfKind_noticeOf hformed hnotice hreport)

end Sys2Proof.Machine
end

section
/-! SUPPORT. The outputs follow the state: O55. -/

namespace Sys2Proof.Machine

open Sys2Proof.Claims

variable {s t : State}

/-! ### Flags, tone and gates -/

theorem State.strapInvalid_iff : s.strapInvalid = true ↔ 24 ≤ s.straps.address.toNat := by
  simp [State.strapInvalid, Straps.valid]
  omega

theorem Loader.configDefaulted_iff (l : Loader) : l.configDefaulted = true ↔ l.rejected = true ∨ l.defaulted.ring = true ∨ l.defaulted.line = true ∨
    l.defaulted.timing = true ∨ l.defaulted.threshold = true ∨ l.defaulted.relay = true ∨ l.defaulted.tone = true := by
  simp [Loader.configDefaulted, or_assoc]

theorem State.alm_iff (h : s.phase ≠ .held) : s.alm = true ↔ 24 ≤ s.straps.address.toNat ∨ s.loader.configDefaulted = true ∨ s.bus.link = .islanded ∨
    s.bus.busHeld = true ∨ s.cadence.markerLost = true ∨ s.bus.degraded = true := by
  simp only [State.alm, State.active_of h, Bool.true_and, Bool.or_eq_true, State.strapInvalid_iff, beq_iff_eq, or_assoc]

/-- Stutter phases 1, 3 and 5 are those numbered 0, 2 and 4. -/
theorem burst_open_iff (k : Fin 6) : (k.val % 2 == 0) = true ↔ k.val + 1 = 1 ∨ k.val + 1 = 3 ∨ k.val + 1 = 5 := by
  revert k; decide

theorem State.gateOpen_iff (n : Line) : s.gateOpen n = true ↔ (s.line n).tone.tone = some .dial ∨
    ∃ d : Nat, (s.line n).tone.tone = some (.recall .continuous d) ∨
      ∃ k : Fin 6, (s.line n).tone.tone = some (.recall (.burst k) d) ∧ (k.val + 1 = 1 ∨ k.val + 1 = 3 ∨ k.val + 1 = 5) := by
  unfold State.gateOpen
  cases (s.line n).tone.tone with
  | none => simp
  | some x =>
    rcases x with _ | _ | ⟨p, d⟩
    · simp [Tone.gateOpen]
    · simp [Tone.gateOpen]
    · cases p with
      | continuous => simp [Tone.gateOpen]
      | burst k =>
        have hk := burst_open_iff k
        simp only [Tone.gateOpen, hk]
        simp

/-! ### What an attempt drives (R130) -/

/-- After its last byte an attempt drives nothing. -/
theorem State.drivesLow_over {a : Attempt} (ha : s.bus.attempt = some a) (h : a.bytes.length * 160 ≤ a.sample) : s.drivesLow = false := by
  have hover : a.bytes.length ≤ a.sample / 160 := (Nat.le_div_iff_mul_le (by decide)).2 h
  unfold State.drivesLow
  rw [ha]
  simp [Attempt.drivesLow, List.getElem?_eq_none hover]

/-- Byte, bit and sample of it by the sample of the attempt. -/
theorem State.drivesLow_iff {a : Attempt} (ha : s.bus.attempt = some a) {j k i : Nat} {b : Byte} (hb : a.bytes[j]? = some b) (hk : k < 10) (hi : i < 16)
    (hsample : a.sample = 160 * j + 16 * k + i) : s.drivesLow = true ↔ k = 0 ∨ (k ≤ 8 ∧ b.getLsbD (8 - k) = false) := by
  have hbyte : a.sample / 160 = j := by omega
  have hbit : a.sample % 160 / 16 = k := by omega
  unfold State.drivesLow
  rw [ha]
  simp only [Attempt.drivesLow, hbyte, hbit, hb, wireDominant]
  by_cases h0 : k = 0
  · simp [h0]
  · by_cases h8 : k ≤ 8 <;> simp [h0, h8]

/-! ### The transfer's lines (R168) -/

/-- The transfer is under way. -/
def Transferring (s : State) : Prop := s.phase = .loading ∧ s.straps.cfgp = true ∧ s.loader.finished = false

theorem State.transferring_iff : s.transferring = true ↔ Transferring s := by
  simp [State.transferring, Transferring, and_assoc]

section Clock
variable {k q : Nat} (h : Transferring s) (hq : q < 32) (hposition : s.loader.position = 32 * k + q)
include h hq hposition

theorem State.cfgck_iff : s.cfgck = true ↔ k = 0 ∨ 16 ≤ q := by
  have hfirst : 32 * k + q < 32 ↔ k = 0 := by omega
  have hplace : (32 * k + q) % 32 = q := by omega
  simp [State.cfgck, State.transferring_iff.2 h, hposition, crystalPerClock, hfirst, hplace]

/-- CFGDA by the clock and the place in it. -/
theorem State.cfgdaLow_eq : s.cfgdaLow =
    if k = 0 then decide (16 ≤ q) else if k = 451 then decide (q < 24)
    else match requestBit k with
      | some b => !b
      | none => decide (imageClock k = some 8) && decide (k < 450) := by
  have hclock : s.loader.position / 32 = k := by omega
  have hplace : s.loader.position % 32 = q := by omega
  unfold State.cfgdaLow
  simp only [State.transferring_iff.2 h, crystalPerClock, hclock, hplace, Bool.true_and]
  rfl

theorem State.cfgdaLow_of_bit (h0 : k ≠ 0) (h451 : k ≠ 451) {b : Bool} (hb : requestBit k = some b) : s.cfgdaLow = !b := by
  rw [State.cfgdaLow_eq h hq hposition, if_neg h0, if_neg h451, hb]

theorem State.cfgdaLow_of_image (h19 : 18 ≤ k ∨ k = 9) (h451 : k ≠ 451) : s.cfgdaLow = (decide (imageClock k = some 8) && decide (k < 450)) := by
  have hnone : requestBit k = none := by
    unfold requestBit
    rw [if_neg (by omega), if_neg (by omega)]
  rw [State.cfgdaLow_eq h hq hposition, if_neg (by omega), if_neg h451, hnone]

theorem State.cfgdaLow_clocks :
    (s.cfgck = true ↔ k = 0 ∨ 16 ≤ q) ∧
    (k = 0 → (s.cfgdaLow = true ↔ 16 ≤ q)) ∧
    (∀ b : Nat, b < 8 → k = 1 + b → (s.cfgdaLow = true ↔ (0xD5#8).getLsbD (7 - b) = false)) ∧
    (10 ≤ k → k ≤ 17 → s.cfgdaLow = true) ∧
    (k = 9 ∨ k = 18 → s.cfgdaLow = false) ∧
    (∀ j b : Nat, j < 48 → b < 8 → k = 19 + 9 * j + b → s.cfgdaLow = false) ∧
    (∀ j : Nat, j < 48 → k = 27 + 9 * j → (s.cfgdaLow = true ↔ j < 47)) ∧
    (k = 451 → (s.cfgdaLow = true ↔ q < 24)) := by
  refine ⟨State.cfgck_iff h hq hposition, fun hk => ?_, fun b hb hk => ?_, fun hlow hhigh => ?_, fun hk => ?_, fun j b hj hb hk => ?_, fun j hj hk => ?_, fun hk => ?_⟩
  · rw [State.cfgdaLow_eq h hq hposition, if_pos hk, decide_eq_true_iff]
  · have hbit : requestBit k = some ((0xD5#8).getLsbD (7 - b)) := by
      unfold requestBit
      rw [if_pos (by omega), hk, show 8 - (1 + b) = 7 - b by omega]
    rw [State.cfgdaLow_of_bit h hq hposition (by omega) (by omega) hbit, Bool.not_eq_true']
  · have hbit : requestBit k = some false := by
      unfold requestBit
      rw [if_neg (by omega), if_pos ⟨hlow, hhigh⟩]
    rw [State.cfgdaLow_of_bit h hq hposition (by omega) (by omega) hbit]
    rfl
  · have hno : imageClock k = none := if_neg (by omega)
    rw [State.cfgdaLow_of_image h hq hposition (by omega) (by omega), hno]
    rfl
  · have himage : imageClock k = some b := by
      unfold imageClock
      rw [if_pos (by omega)]
      exact congrArg some (by omega)
    have hne : ¬ imageClock k = some 8 := by
      rw [himage]
      exact fun h8 => by cases h8; omega
    rw [State.cfgdaLow_of_image h hq hposition (by omega) (by omega), decide_eq_false hne, Bool.false_and]
  · have himage : imageClock k = some 8 := by
      unfold imageClock
      rw [if_pos (by omega)]
      exact congrArg some (by omega)
    rw [State.cfgdaLow_of_image h hq hposition (by omega) (by omega), decide_eq_true himage, Bool.true_and, decide_eq_true_iff]
    omega
  · rw [State.cfgdaLow_eq h hq hposition, if_neg (by omega), if_pos hk, decide_eq_true_iff]

end Clock

/-! ### The wave (R118) -/

theorem tonePeriod_nearest {f level : Nat} (hf : 0 < f) : 2 * 4096000 < 2 * f * tonePeriod { frequency := f, level := level } + f ∧
    2 * f * tonePeriod { frequency := f, level := level } ≤ 2 * 4096000 + f := by
  have hdiv := Nat.div_add_mod (2 * 4096000 + f) (2 * f)
  have hmod := Nat.mod_lt (2 * 4096000 + f) (show 0 < 2 * f by omega)
  simp only [tonePeriod]
  generalize 2 * f * ((2 * 4096000 + f) / (2 * f)) = x at hdiv ⊢
  omega

theorem toneHigh_part (p : ToneParams) : 16 * toneHigh p ≤ p.level * tonePeriod p ∧ p.level * tonePeriod p < 16 * (toneHigh p + 1) := by
  unfold toneHigh
  rw [Nat.mul_comm p.level]
  omega

/-- Settles O55. -/
theorem alarmAndToneFollowTheirRules : Obligations.AlarmAndToneFollowTheirRules := by
  refine ⟨fun s => ⟨fun hheld => by simp [State.alm, State.active_held hheld], State.alm_iff, Loader.configDefaulted_iff _, by simp [State.toneOut, State.running],
    fun n => ⟨beq_iff_eq, beq_iff_eq, State.gateOpen_iff n⟩, fun hnone => by simp [State.drivesLow, hnone],
    fun a ha => ⟨State.drivesLow_over ha, fun j k i b hb hk hi hsample => State.drivesLow_iff ha hb hk hi hsample⟩, fun hstill => ?_,
    fun k q hmoving hq hposition => State.cfgdaLow_clocks hmoving hq hposition⟩,
    fun f level hf => ⟨(tonePeriod_nearest hf).1, (tonePeriod_nearest hf).2, toneHigh_part _⟩, by decide, by decide, by decide, by decide, by decide, by decide,
    by decide, by decide⟩
  have hno : s.transferring = false := Bool.eq_false_iff.2 fun h => hstill (State.transferring_iff.1 h)
  simp [State.cfgck, State.cfgdaLow, hno]

end Sys2Proof.Machine
end

section
/-! SUPPORT. What each part of a crystal period touches: O2, O15. -/

namespace Sys2Proof.Machine

open Sys2Proof.Claims

variable {s t u : State}

/-! ### The bus sample touches no clock -/

/-- Cadence Timer and window clock stand. -/
structure State.ClocksKept (s t : State) : Prop where
  cadence : t.cadence = s.cadence
  sense : t.sense = s.sense

theorem State.ClocksKept.refl (s : State) : s.ClocksKept s := ⟨rfl, rfl⟩

theorem State.ClocksKept.trans (h : s.ClocksKept t) (g : t.ClocksKept u) : s.ClocksKept u := ⟨g.1.trans h.1, g.2.trans h.2⟩

theorem State.ClocksKept.still (cadence : t.cadence = s.cadence := by simp) (sense : t.sense = s.sense := by simp) : s.ClocksKept t := ⟨cadence, sense⟩

theorem State.ClocksKept.foldl {α : Type} {f : State → α → State} (hf : ∀ (t : State) (a : α), t.ClocksKept (f t a)) (ls : List α) (s : State) :
    s.ClocksKept (ls.foldl f s) := by
  induction ls generalizing s with
  | nil => exact .refl s
  | cons a ls ih => exact (hf s a).trans (ih _)

section Commands
variable (s : State)

theorem State.clocksKept_received {act : State → State} (h : ∀ t : State, t.ClocksKept (act t)) : s.ClocksKept (s.received act) :=
  ite_keeps (fun _ => State.ClocksKept.trans .still (h _)) fun _ => .refl s

theorem State.clocksKept_ordered (k : OrderKind) (w : Notice) {take : State → Line → State} (h : ∀ (t : State) (n : Line), t.ClocksKept (take t n)) :
    s.ClocksKept (s.ordered (State.takeOrder k w take)) := by
  refine ite_keeps (fun _ => ?_) fun _ => .refl s
  unfold State.takeOrder
  refine ite_keeps (fun _ => ?_) fun _ => .still
  split
  · exact State.ClocksKept.trans .still (h _ _)
  · exact .still

theorem State.clocksKept_run {c : Instr} (hc : BusCommand c = true) : s.ClocksKept (s.run c) := by
  have act {c : Prop} [Decidable c] {t : State} (ht : s.ClocksKept t) : s.ClocksKept (if c then t else s) := ite_keeps (fun _ => ht) fun _ => .refl s
  cases c with
  | attemptStart =>
    refine act ?_
    split
    · exact .still
    · exact .still
  | clash => exact act .still
  | ownNoticeCompletion =>
    show s.ClocksKept (match s.bus.attempt with | some a => _ | none => s)
    split
    · exact act .still
    · exact .refl s
  | claimReceived w => exact s.clocksKept_received (act := fun t => t.peerNotice w 11 3 none) fun t => .still
  | releaseReceived w => exact s.clocksKept_received (act := fun t => t.peerNotice w 9 1 none) fun t => .still
  | refreshReceived w => exact s.clocksKept_received (act := fun t => t.peerNotice w 11 0 (some 8)) fun t => .still
  | ringOrder w => exact s.clocksKept_ordered _ _ fun t n => .still
  | cancel w => exact s.clocksKept_ordered _ _ fun t n => .still
  | toneOrder w => exact s.clocksKept_ordered _ _ fun t n => .still
  | modeOrder w => exact s.clocksKept_ordered _ _ fun t n => .still
  | query w => exact s.clocksKept_ordered _ _ fun t n => .still
  | reportNoticeHeard k w => exact s.clocksKept_received .refl
  | noticeInvalid => exact s.clocksKept_received fun t => .still
  | receiveFramingError => exact act .still
  | receiverIdle => exact act .still
  | busHeld => exact act (.still rfl rfl)
  | busHeldClear => exact act .still
  | _ => cases hc

theorem State.standing_busCommand {c : Instr} (hc : BusCommand c = true) : s.Standing (s.run c) :=
  s.standing_run c (fun _ _ _ h => by subst h; cases hc) (fun h => by subst h; cases hc) fun _ h => by subst h; cases hc

/-- What a bus sample leaves alone. -/
theorem State.busSample_kept : s.Standing s.busSample ∧ s.ClocksKept s.busSample :=
  BusKeeps.busSample (P := fun t => s.Standing t ∧ s.ClocksKept t)
    { run := fun {_ t} hc h => ⟨h.1.trans (t.standing_busCommand hc), h.2.trans (t.clocksKept_run hc)⟩
      bus := fun _ _ _ h => ⟨h.1.trans (by constructor <;> rfl), h.2.trans (.still rfl rfl)⟩
      lose := fun h => ⟨h.1.trans (by constructor <;> simp), h.2.trans .still⟩ }
    ⟨.refl s, .refl s⟩

end Commands

/-! ### The lines' timers touch neither the clocks nor the bus -/

/-- Clocks and bus stand. -/
structure State.TimersKept (s t : State) : Prop extends s.Standing t, s.ClocksKept t where
  bus : t.bus = s.bus

theorem State.TimersKept.refl (s : State) : s.TimersKept s := ⟨.refl s, .refl s, rfl⟩

theorem State.TimersKept.trans (h : s.TimersKept t) (g : t.TimersKept u) : s.TimersKept u :=
  ⟨h.toStanding.trans g.toStanding, h.toClocksKept.trans g.toClocksKept, g.bus.trans h.bus⟩

theorem State.timersKept_onLine (s : State) (n : Line) (f : LineState → LineState) : s.TimersKept (s.onLine n f) :=
  ⟨by constructor <;> rfl, .still rfl rfl, rfl⟩

theorem State.timersKept_lineMs (s : State) (n : Line) : s.TimersKept (s.lineMs n) := by
  have act {t : State} {c : Prop} [Decidable c] {u v : State} (hu : t.TimersKept u) (hv : t.TimersKept v) : t.TimersKept (if c then u else v) :=
    ite_keeps (fun _ => hu) fun _ => hv
  have hdead : ∀ t : State, t.TimersKept (t.deadDue n) := fun t => by
    unfold State.deadDue
    refine act ?_ (.refl t)
    split
    · exact act (t.timersKept_onLine n _) (.refl t)
    · exact act (t.timersKept_onLine n _) (.refl t)
    all_goals exact t.timersKept_onLine n _
  have hwait : ∀ t : State, t.TimersKept (t.waitDue n) := fun t => act (act (t.timersKept_onLine n _) (.refl t)) (.refl t)
  have hdial : ∀ t : State, t.TimersKept (t.dialMs n) := fun t => by
    unfold State.dialMs
    split
    · exact .refl t
    · exact act (act ⟨by constructor <;> simp, .still, by simp⟩ (.refl t)) (t.timersKept_onLine n _)
  have hstutter : ∀ t : State, t.TimersKept (t.stutterMs n) := fun t => by
    unfold State.stutterMs
    split
    · exact act (act (t.timersKept_onLine n _) (.refl t)) (t.timersKept_onLine n _)
    all_goals exact .refl t
  exact ((((s.timersKept_onLine n _).trans (hdead _)).trans (hwait _)).trans (hdial _)).trans (hstutter _)

theorem State.timersKept_linesMs (ls : List Line) (s : State) : s.TimersKept (ls.foldl State.lineMs s) := by
  induction ls generalizing s with
  | nil => exact .refl s
  | cons n ls ih => exact (s.timersKept_lineMs n).trans (ih _)

end Sys2Proof.Machine
end

section
/-! SUPPORT. The parts of a crystal period, each with what it makes of the clocks: O2, O15. -/

namespace Sys2Proof.Machine

open Sys2Proof.Claims

variable {s t u : State}

/-! ### The marker window by the clock -/

theorem Cadence.closing_iff {c : Cadence} : c.closing = true ↔ c.slot = 0 ∧ c.slotTimer = 40 ∧ c.past = false := by
  simp [Cadence.closing, lateUpTo, and_assoc]

theorem State.cymEdge_iff : s.cymEdge = true ↔ s.pins.cym = true ∧ s.last.cym = false := by simp [State.cymEdge]

/-- Before anything else of a crystal period an open window closes, where its millisecond runs out (R7, R9). -/
theorem State.closeMs_passed : (if (s.crystal + 1) % crystalPerMs = lastPeriod then s.closeMs else s) = s.setCadence (WindowPassed s) := by
  obtain ⟨hclosed, hedge, hopen⟩ := s.closeMs_closed
  have hcloses : WindowCloses s ↔ (s.crystal + 1) % crystalPerMs = lastPeriod ∧ s.cadence.closing = true := by
    rw [Cadence.closing_iff]; rfl
  unfold WindowPassed
  simp only [hcloses, ← State.cymEdge_iff]
  by_cases hlast : (s.crystal + 1) % crystalPerMs = lastPeriod
  · rw [if_pos hlast]
    cases hclosing : s.cadence.closing
    · rw [if_neg (by simp), hopen hclosing]; rfl
    · rw [if_pos ⟨hlast, rfl⟩]
      cases hcym : s.cymEdge
      · rw [if_neg (by simp), hclosed hclosing hcym]; rfl
      · rw [if_pos rfl, hedge hclosing hcym]; rfl
  · rw [if_neg hlast, if_neg (fun h => hlast h.1)]; rfl

/-! ### The millisecond -/

theorem State.slotMs_within (hshort : s.cadence.slotTimer < 499) (hphase : s.phase ≠ .held) :
    s.slotMs = s.setCadence { s.cadence with
      slotTimer := s.cadence.slotTimer + 1
      markerMet := if s.cadence.slot = 7 ∧ s.cadence.slotTimer = 459 then false else s.cadence.markerMet } := by
  refine (if_neg (show ¬ slotLength ≤ s.cadence.slotTimer + 1 by simp only [slotLength]; omega)).trans ?_
  by_cases hopens : s.cadence.slot = 7 ∧ s.cadence.slotTimer = 459
  · obtain ⟨h7, h459⟩ := hopens
    have hnow : (s.setCadence { s.cadence with slotTimer := s.cadence.slotTimer + 1 }).cadence.slot = 7 ∧
        (s.setCadence { s.cadence with slotTimer := s.cadence.slotTimer + 1 }).cadence.slotTimer = windowOpensAt := ⟨h7, by rw [h459]; rfl⟩
    rw [if_pos hnow, if_pos ⟨h7, h459⟩]
    refine (if_pos (by simp [State.active, hphase, h7])).trans ?_
    simp [State.setCadence, h459, windowOpensAt]
  · have hnow : ¬ ((s.setCadence { s.cadence with slotTimer := s.cadence.slotTimer + 1 }).cadence.slot = 7 ∧
        (s.setCadence { s.cadence with slotTimer := s.cadence.slotTimer + 1 }).cadence.slotTimer = windowOpensAt) := fun h =>
      hopens ⟨h.1, by have := h.2; simp only [State.setCadence_cadence, windowOpensAt] at this; omega⟩
    rw [if_neg hnow, if_neg hopens]

theorem State.slotMs_over (hlong : 499 ≤ s.cadence.slotTimer) (hphase : s.phase ≠ .held) :
    s.slotMs = (s.setCadence { s.cadence with slotTimer := s.cadence.slotTimer + 1 }).boundary (s.cadence.slot + 1) := by
  exact (if_pos (show slotLength ≤ s.cadence.slotTimer + 1 by simp only [slotLength]; omega)).trans (if_pos (State.active_of hphase))

theorem State.zcMs_within (hshort : s.cadence.zcTimer ≠ 59) :
    s.zcMs = s.setCadence { s.cadence with zcTimer := if s.cadence.zcTimer < 60 then s.cadence.zcTimer + 1 else s.cadence.zcTimer } := by
  by_cases h : s.cadence.zcTimer < 60
  · rw [if_pos h]
    exact (if_pos h).trans (if_neg (show ¬ 60 ≤ s.cadence.zcTimer + 1 by omega))
  · rw [if_neg h]
    exact if_neg h

theorem State.zcMs_lost (hlast : s.cadence.zcTimer = 59) (hphase : s.phase ≠ .held) :
    s.zcMs = (s.setCadence { s.cadence with zcTimer := 60, zcLost := true }).mapLines (LineState.switchRing s.params.relay) := by
  exact (if_pos (by rw [hlast]; decide)).trans ((if_pos (show 60 ≤ s.cadence.zcTimer + 1 by omega)).trans (if_pos (State.active_of hphase)))

/-- The zero-cross timer's millisecond touches lines and Cadence Timer alone, and of that the zero-cross state. -/
theorem State.zcMs_frame (hphase : s.phase ≠ .held) :
    s.zcMs = { s with
      cadence := { s.cadence with zcTimer := s.zcMs.cadence.zcTimer, zcLost := s.zcMs.cadence.zcLost }
      lines := s.zcMs.lines } := by
  by_cases h : s.cadence.zcTimer = 59
  · rw [State.zcMs_lost h hphase]; rfl
  · rw [State.zcMs_within h]; rfl

theorem State.zcMs_zc (hphase : s.phase ≠ .held) :
    (s.cadence.zcTimer < 59 → s.zcMs.cadence.zcTimer = s.cadence.zcTimer + 1 ∧ s.zcMs.cadence.zcLost = s.cadence.zcLost) ∧
    (s.cadence.zcTimer = 59 → s.zcMs.cadence.zcTimer = 60 ∧ s.zcMs.cadence.zcLost = true) ∧
    (60 ≤ s.cadence.zcTimer → s.zcMs.cadence.zcTimer = s.cadence.zcTimer ∧ s.zcMs.cadence.zcLost = s.cadence.zcLost) := by
  refine ⟨fun h => ?_, fun h => ?_, fun h => ?_⟩
  · rw [State.zcMs_within (by omega), if_pos (by omega)]; exact ⟨rfl, rfl⟩
  · rw [State.zcMs_lost h hphase]; exact ⟨rfl, rfl⟩
  · rw [State.zcMs_within (by omega), if_neg (by omega)]; exact ⟨rfl, rfl⟩

/-- A slot's millisecond leaves the zero-cross state alone. -/
theorem State.slotMs_zc (hphase : s.phase ≠ .held) :
    s.slotMs.cadence.zcTimer = s.cadence.zcTimer ∧ s.slotMs.cadence.zcLost = s.cadence.zcLost := by
  by_cases h : s.cadence.slotTimer < 499
  · rw [State.slotMs_within h hphase]; exact ⟨rfl, rfl⟩
  · rw [State.slotMs_over (by omega) hphase, State.boundary_cadence]; exact ⟨rfl, rfl⟩

/-! ### The eighth of a millisecond -/

theorem State.windowLength_eq : s.windowLength = lengthOf s.sense.dither := rfl

theorem State.windowEnd_clocks (hrunning : s.phase = .running) :
    (s.run .windowEnd).cadence = s.cadence ∧ (s.run .windowEnd).sense = { dither := s.sense.dither + 1, windowTimer := 0 } := by
  have hrun : s.run .windowEnd = (permute s.order.lines (allLines.filter s.inUse)).foldl (State.windowEndOf s.windowLength)
      (s.setSense { dither := s.sense.dither + 1, windowTimer := 0 }) := if_pos (by simp [State.running, hrunning])
  have hkept := State.ClocksKept.foldl (f := State.windowEndOf s.windowLength) (fun t n => .still)
    (permute s.order.lines (allLines.filter s.inUse)) (s.setSense { dither := s.sense.dither + 1, windowTimer := 0 })
  rw [hrun]
  exact ⟨hkept.cadence, hkept.sense⟩

/-- An eighth of a millisecond moves the window timer on or ends the window, and leaves the Cadence Timer alone. -/
theorem State.senseTick_clocks (hrunning : s.phase = .running) :
    s.senseTick.cadence = s.cadence ∧
    (s.sense.windowTimer + 1 < lengthOf s.sense.dither → s.senseTick = s.setSense { s.sense with windowTimer := s.sense.windowTimer + 1 }) ∧
    (lengthOf s.sense.dither ≤ s.sense.windowTimer + 1 → s.senseTick.sense = { dither := s.sense.dither + 1, windowTimer := 0 }) := by
  have htick : s.senseTick = if lengthOf s.sense.dither ≤ s.sense.windowTimer + 1
      then (s.setSense { s.sense with windowTimer := s.sense.windowTimer + 1 }).run .windowEnd
      else s.setSense { s.sense with windowTimer := s.sense.windowTimer + 1 } := if_pos (by simp [State.running, hrunning])
  have hended := (s.setSense { s.sense with windowTimer := s.sense.windowTimer + 1 }).windowEnd_clocks hrunning
  rw [htick]
  refine ⟨?_, fun h => if_neg (by omega), fun h => ?_⟩
  · split
    · exact hended.1
    · rfl
  · rw [if_pos h]; exact hended.2

theorem State.senseTick_idle (h : s.phase ≠ .running) : s.senseTick = s := if_neg (by simpa [State.running] using h)

theorem State.busSample_idle (h : s.phase ≠ .running) : s.busSample = s := if_neg (by simpa [State.running] using h)

end Sys2Proof.Machine
end

section
/-! SUPPORT. A crystal period as the pins find it, and what their reading makes of it: O15, O2. -/

namespace Sys2Proof.Machine

open Sys2Proof.Claims

variable {s t u : State}

/-! ### The reading of the pins -/

theorem notEdge_iff {now before : Bool} : ¬ (now = true ∧ before = false) ↔ now = false ∨ before = true := by
  revert now before; decide

/-- A mark on ZCM touches lines and Cadence Timer alone, and of that the zero-cross state. -/
theorem State.run_zeroCrossMark (s : State) : s.run .zeroCrossMark = { s with
    cadence := { s.cadence with zcTimer := (s.run .zeroCrossMark).cadence.zcTimer, zcLost := (s.run .zeroCrossMark).cadence.zcLost }
    lines := (s.run .zeroCrossMark).lines } := by
  by_cases h : s.active = true
  · have hrun : s.run .zeroCrossMark = (s.setCadence { s.cadence with zcTimer := 0, zcLost := false }).mapLines (LineState.switchRing s.params.relay) :=
      if_pos h
    rw [hrun]; rfl
  · have hrun : s.run .zeroCrossMark = s := if_neg h
    rw [hrun]

/-- The marker is taken on the state with the counters moved on; after it come zero-cross state, lines and the levels read alone. -/
theorem pinsRead_parts (h : PinsRead s t) : ∃ m u : State, m = { s with lines := m.lines } ∧
    u = (if s.pins.cym = true ∧ s.last.cym = false then m.run .cycleMarker else m) ∧
    t = { u with
      cadence := { u.cadence with zcTimer := t.cadence.zcTimer, zcLost := t.cadence.zcLost }
      lines := t.lines
      last := { sns := s.pins.sns, cym := s.pins.cym, zcm := s.pins.zcm } } ∧
    (s.pins.zcm = false ∨ s.last.zcm = true → t.cadence = u.cadence) := by
  obtain ⟨m, u, v, hm, -, hedge, hnone, hmark, hcross, rfl⟩ := h
  refine ⟨m, u, hm, ?_, ?_, fun hquiet => by rw [hcross hquiet]⟩
  · split
    · rename_i hcym
      have := hedge hcym.1 hcym.2
      rw [State.exec_run] at this
      exact (Host.Outcome.next.inj this).symm
    · rename_i hcym
      exact hnone (notEdge_iff.1 hcym)
  · by_cases hzcm : s.pins.zcm = true ∧ s.last.zcm = false
    · have hrun : v = u.run .zeroCrossMark := by
        have := hmark hzcm.1 hzcm.2
        rw [State.exec_run] at this
        exact (Host.Outcome.next.inj this).symm
      rw [hrun, u.run_zeroCrossMark]
    · rw [hcross (notEdge_iff.1 hzcm)]

/-- Without a marker edge the Cadence Timer stands but for the zero-cross state, and the bus stands. -/
theorem pinsRead_unmarked (h : PinsRead s t) (hedge : ¬ (s.pins.cym = true ∧ s.last.cym = false)) :
    t.cadence = { s.cadence with zcTimer := t.cadence.zcTimer, zcLost := t.cadence.zcLost } ∧ t.bus = s.bus ∧ t.sense = s.sense := by
  obtain ⟨m, u, hm, hu, ht, -⟩ := pinsRead_parts h
  rw [if_neg hedge] at hu
  subst hu
  rw [ht, hm]
  exact ⟨rfl, rfl, rfl⟩

/-- A marker edge restarts slot 0. -/
theorem pinsRead_marked (h : PinsRead s t) (hphase : s.phase ≠ .held) (hedge : s.pins.cym = true ∧ s.last.cym = false) :
    t.cadence = { s.cadence with
      slot := 0, slotTimer := 0, past := false, markerMet := true, missed := 0, markerLost := false
      zcTimer := t.cadence.zcTimer, zcLost := t.cadence.zcLost } := by
  obtain ⟨m, u, hm, hu, ht, -⟩ := pinsRead_parts h
  have hmphase : m.phase ≠ .held := by rw [hm]; exact hphase
  have hmcadence : m.cadence = s.cadence := by rw [hm]
  obtain ⟨w, hw, hcadence, -⟩ := cycleMarkerRestartsSlotZero m hmphase
  rw [State.exec_run] at hw
  have hwu : w = u := by rw [hu, if_pos hedge]; exact (Host.Outcome.next.inj hw).symm
  rw [hwu, hmcadence] at hcadence
  have hzc := congrArg State.cadence ht
  rw [hcadence] at hzc
  exact hzc

/-! ### The crystal period as the pins find it -/

/-- The beginning of a crystal period: the crystal count, the wave and the transfer have moved on, and the marker window has been looked at. -/
def State.entered (s : State) : State :=
  { s with
    crystal := (s.crystal + 1) % 4096
    tonePhase := if s.phase = .running then (s.tonePhase + 1) % tonePeriod s.params.tone else s.tonePhase
    loader := if s.phase = .loading ∧ s.straps.cfgp = true ∧ s.loader.finished = false then s.loader.clock s.pins.cfgda else s.loader
    cadence := WindowPassed s }

/-- What falls due in the crystal period before the pins are read. -/
def State.worked (s : State) : State :=
  let t := if (s.crystal + 1) % 4096 = 0 then s.entered.msTick else s.entered
  let t := if (s.crystal + 1) % 4096 % 512 = 0 then t.senseTick else t
  let t := if (s.crystal + 1) % 4096 % 8 = 0 then t.busSample else t
  if (s.crystal + 1) % 4096 = 0 then t.loadingMs else t

theorem State.toneTick_eq : s.toneTick = { s with
    tonePhase := if s.phase = .running then (s.tonePhase + 1) % tonePeriod s.params.tone else s.tonePhase } := by
  by_cases h : s.phase = .running
  · rw [if_pos h]; exact if_pos (by simp [State.running, h])
  · rw [if_neg h]; exact if_neg (by simpa [State.running] using h)

theorem State.loaderTick_eq : s.loaderTick = { s with
    loader := if s.phase = .loading ∧ s.straps.cfgp = true ∧ s.loader.finished = false then s.loader.clock s.pins.cfgda else s.loader } := by
  by_cases h : s.phase = .loading ∧ s.straps.cfgp = true ∧ s.loader.finished = false
  · rw [if_pos h]; exact if_pos h
  · rw [if_neg h]; exact if_neg h

theorem State.entered_eq :
    (({ (if (s.crystal + 1) % crystalPerMs = lastPeriod then s.closeMs else s) with crystal := (s.crystal + 1) % crystalPerMs } : State).toneTick).loaderTick =
      s.entered := by
  rw [State.closeMs_passed, State.toneTick_eq, State.loaderTick_eq]
  rfl

theorem State.advance_eq : s.advance = s.worked.readPins := by
  unfold State.advance State.worked
  dsimp only
  rw [State.entered_eq]
  rfl

/-- On an empty queue, with RST not asserted, the step is such a period. -/
theorem step_crystal (hqueue : s.pending = []) (hrst : s.pins.rst = false) (hphase : s.phase ≠ .held) : step s = .next s.worked.readPins := by
  unfold step State.tick
  rw [hqueue]
  simp only [hrst, hphase, if_false, Bool.false_eq_true, State.advance_eq]

/-! ### What each part of the period leaves alone -/

/-- What the eighth of a millisecond, the bus sample and the end of loading leave alone. -/
structure State.PeriodKept (s t : State) : Prop where
  pins : t.pins = s.pins
  last : t.last = s.last
  order : t.order = s.order
  pending : t.pending = s.pending
  crystal : t.crystal = s.crystal
  cadence : t.cadence = s.cadence
  phase : s.phase ≠ .held → t.phase ≠ .held

theorem State.PeriodKept.refl (s : State) : s.PeriodKept s := ⟨rfl, rfl, rfl, rfl, rfl, rfl, id⟩

theorem State.PeriodKept.trans (h : s.PeriodKept t) (g : t.PeriodKept u) : s.PeriodKept u :=
  ⟨g.pins.trans h.pins, g.last.trans h.last, g.order.trans h.order, g.pending.trans h.pending, g.crystal.trans h.crystal, g.cadence.trans h.cadence,
    fun hs => g.phase (h.phase hs)⟩

theorem State.PeriodKept.ite {c : Prop} [Decidable c] (h : s.PeriodKept t) : s.PeriodKept (if c then t else s) :=
  ite_keeps (fun _ => h) fun _ => .refl s

theorem State.Standing.period (h : s.Standing t) (hcadence : t.cadence = s.cadence) : s.PeriodKept t :=
  ⟨h.pins, h.last, h.order, h.pending, h.crystal, hcadence, fun hs => by rw [h.phase]; exact hs⟩

theorem State.standing_senseTick (s : State) : s.Standing s.senseTick := by
  have hmoved : s.Standing (s.setSense { s.sense with windowTimer := s.sense.windowTimer + 1 }) := by constructor <;> rfl
  unfold State.senseTick
  exact s.standing_ite (s.standing_ite (hmoved.trans (State.standing_run _ _ (by simp) (by simp) (by simp))) hmoved) (.refl s)

theorem State.periodKept_senseTick (s : State) : s.PeriodKept s.senseTick := by
  refine s.standing_senseTick.period ?_
  by_cases h : s.phase = .running
  · exact (State.senseTick_clocks h).1
  · rw [State.senseTick_idle h]

theorem State.periodKept_busSample (s : State) : s.PeriodKept s.busSample :=
  (s.busSample_kept.1).period s.busSample_kept.2.cadence

theorem State.periodKept_loadingMs (s : State) : s.PeriodKept s.loadingMs := by
  refine .ite ?_
  generalize (if s.loader.image.length = 48 then MemoryAnswer.image s.loader.image else .silent) = a
  refine ite_keeps (P := s.PeriodKept) (fun _ => ?_) fun _ => .refl s
  rw [State.beginWork_frame]
  exact ⟨by simp, by simp, by simp, by simp, by simp, by simp, fun _ => by simp⟩

theorem State.standing_zcMs (hphase : s.phase ≠ .held) : s.Standing s.zcMs := by
  rw [State.zcMs_frame hphase]
  constructor <;> rfl

/-- The millisecond of the lines' timers. -/
def State.timed (s : State) : State := if s.running then (allLines.filter s.inUse).foldl State.lineMs s else s

theorem State.msTick_eq : s.msTick = s.timed.slotMs.zcMs := rfl

theorem State.timersKept_timed (s : State) : s.TimersKept s.timed :=
  ite_keeps (P := s.TimersKept) (fun _ => s.timersKept_linesMs _) fun _ => .refl s

theorem State.standing_msTick (hphase : s.phase ≠ .held) : s.Standing s.msTick := by
  have htimed := s.timersKept_timed.toStanding
  have hslot := htimed.trans s.timed.standing_slotMs
  rw [State.msTick_eq]
  exact hslot.trans (State.standing_zcMs (by rw [hslot.phase]; exact hphase))

/-- A crystal period before the pins: what is read stays as it was, and the Cadence Timer is that of the millisecond or of the window's look. -/
theorem State.worked_kept (hphase : s.phase ≠ .held) :
    s.worked.pins = s.pins ∧ s.worked.last = s.last ∧ s.worked.order = s.order ∧ s.worked.pending = s.pending ∧
    s.worked.crystal = (s.crystal + 1) % 4096 ∧ s.worked.phase ≠ .held ∧
    s.worked.cadence = if (s.crystal + 1) % 4096 = 0 then s.entered.msTick.cadence else WindowPassed s := by
  have hms : s.entered.Standing (if (s.crystal + 1) % 4096 = 0 then s.entered.msTick else s.entered) :=
    s.entered.standing_ite (State.standing_msTick hphase) (.refl _)
  have hcadence : (if (s.crystal + 1) % 4096 = 0 then s.entered.msTick else s.entered).cadence =
      if (s.crystal + 1) % 4096 = 0 then s.entered.msTick.cadence else WindowPassed s := by split <;> rfl
  have hrest : State.PeriodKept (if (s.crystal + 1) % 4096 = 0 then s.entered.msTick else s.entered) s.worked :=
    ((State.periodKept_senseTick _).ite.trans (State.periodKept_busSample _).ite).trans (State.periodKept_loadingMs _).ite
  exact ⟨hrest.pins.trans hms.pins, hrest.last.trans hms.last, hrest.order.trans hms.order, hrest.pending.trans hms.pending,
    hrest.crystal.trans hms.crystal, hrest.phase (by rw [hms.phase]; exact hphase), hrest.cadence.trans hcadence⟩

/-- A millisecond in which no slot ends moves the slot timer on, and opens the marker window at 460 ms of slot 7 (R1, R7). -/
theorem State.msTick_within (hshort : s.cadence.slotTimer < 499) (hphase : s.phase ≠ .held) : s.msTick.cadence = { s.cadence with
    slotTimer := s.cadence.slotTimer + 1
    markerMet := if s.cadence.slot = 7 ∧ s.cadence.slotTimer = 459 then false else s.cadence.markerMet
    zcTimer := s.msTick.cadence.zcTimer, zcLost := s.msTick.cadence.zcLost } := by
  have htimed := s.timersKept_timed
  have hphase' : s.timed.phase ≠ .held := by rw [htimed.phase]; exact hphase
  have hslot : s.timed.slotMs.phase ≠ .held := by rw [s.timed.standing_slotMs.phase]; exact hphase'
  rw [State.msTick_eq]
  refine (congrArg State.cadence (State.zcMs_frame hslot)).trans ?_
  rw [← htimed.cadence, State.slotMs_within (by rw [htimed.cadence]; exact hshort) hphase']
  rfl

end Sys2Proof.Machine
end

section
/-! SUPPORT. The marker window by command and clock: O15. -/

namespace Sys2Proof.Machine

open Sys2Proof.Claims

variable {s t : State}

/-! ### Crystal periods without a millisecond -/

theorem windowPassed_closed (hcloses : WindowCloses s) (hedge : ¬ (s.pins.cym = true ∧ s.last.cym = false)) :
    WindowPassed s = WindowClosed s.cadence := by
  unfold WindowPassed
  rw [if_pos hcloses, if_neg hedge]

theorem windowPassed_past (hcloses : WindowCloses s) (hedge : s.pins.cym = true ∧ s.last.cym = false) :
    WindowPassed s = { (if s.order.lateClose = true then s.cadence else WindowClosed s.cadence) with slotTimer := 41 } := by
  unfold WindowPassed
  rw [if_pos hcloses, if_pos hedge]

theorem windowPassed_open (hnot : ¬ WindowCloses s) : WindowPassed s = s.cadence := if_neg hnot

/-- The close of the window leaves slot, slot timer and zero-cross state alone. -/
theorem windowClosed_kept (c : Cadence) : (WindowClosed c).slot = c.slot ∧ (WindowClosed c).slotTimer = c.slotTimer ∧
    (WindowClosed c).zcTimer = c.zcTimer ∧ (WindowClosed c).zcLost = c.zcLost := by
  unfold WindowClosed
  split
  · exact ⟨rfl, rfl, rfl, rfl⟩
  · split
    · exact ⟨rfl, rfl, rfl, rfl⟩
    · exact ⟨rfl, rfl, rfl, rfl⟩

/-- A part that is loading works at nothing in a crystal period that ends no millisecond. -/
theorem State.worked_loading (hloading : s.phase = .loading) (hx : (s.crystal + 1) % 4096 ≠ 0) : s.worked = s.entered := by
  have hphase : s.entered.phase ≠ .running := by rw [show s.entered.phase = s.phase from rfl, hloading]; simp
  unfold State.worked
  simp only [if_neg hx, State.senseTick_idle hphase, State.busSample_idle hphase, ite_self]

/-! ### A marker while loading -/

/-- A marker taken by a part that is loading reaches nothing of the bus but the listen period, and that at a slot start alone. -/
theorem pinsRead_loading (h : PinsRead s t) (hloading : s.phase = .loading) (hedge : s.pins.cym = true ∧ s.last.cym = false) :
    (¬ LateMarker s → s.bus.link = .listening → s.bus.period = 0 → t.bus = { s.bus with period := 1 }) ∧ (LateMarker s → t.bus = s.bus) := by
  obtain ⟨m, u, hm, hu, ht, -⟩ := pinsRead_parts h
  have hmloading : m.phase = .loading := by rw [hm]; exact hloading
  have hmcadence : m.cadence = s.cadence := by rw [hm]
  have hmbus : m.bus = s.bus := by rw [hm]
  have hrun := State.run_cycleMarker (s := m) (by rw [hmloading]; simp)
  rw [State.exec_run] at hrun
  rw [if_pos hedge, Host.Outcome.next.inj hrun, hmcadence] at hu
  have htbus : t.bus = u.bus := by rw [ht]
  refine ⟨fun hlate hlink hperiod => ?_, fun hlate => ?_⟩
  · rw [if_neg (show ¬ (s.cadence.slot = 0 ∧ s.cadence.slotTimer ≤ 40) from hlate), State.boundary_loading (by exact hmloading), if_pos rfl] at hu
    have hfirst : ∀ c c', ((m.setCadence c).setCadence c').countPeriod.bus = { m.bus with period := 1 } := fun c c' => by
      rw [State.countPeriod_first (s := (m.setCadence c).setCadence c') (.inl (show m.bus.link = _ by rw [hmbus]; exact hlink))
        (show m.bus.period = 0 by rw [hmbus]; exact hperiod)]
      rfl
    rw [htbus, hu, hfirst, hmbus]
  · rw [if_pos (show s.cadence.slot = 0 ∧ s.cadence.slotTimer ≤ 40 from hlate)] at hu
    rw [htbus, hu]
    exact hmbus

/-! ### O15 -/

/-- The window closed by command: the timer at 41 ms where it was below, and the flag examined once. -/
theorem exec_markerWindowCloses (hphase : s.phase ≠ .held) (hslot : s.cadence.slot = 0) :
    exec .markerWindowCloses s = .next (s.setCadence
      (if s.cadence.past = true then { s.cadence with slotTimer := max s.cadence.slotTimer 41 }
       else WindowClosed { s.cadence with slotTimer := max s.cadence.slotTimer 41 })) := by
  refine congrArg Host.Outcome.next ((if_pos (by simp [State.active, hphase, hslot])).trans ?_)
  rw [← Cadence.closeWindow_closed]
  cases s.cadence.past <;> rfl

/-- Settles O15. -/
theorem markerWindowWatchesForMarkers : Obligations.MarkerWindowWatchesForMarkers := by
  refine ⟨fun s hphase h7 h460 => ?_, fun s hphase hslot => ⟨fun h41 hpast => ?_, ?_⟩, fun s hphase => ?_, fun s hqueue hrst hphase => ?_⟩
  · refine congrArg Host.Outcome.next ((if_pos (by simp [State.active, hphase, h7])).trans ?_)
    rw [show max s.cadence.slotTimer windowOpensAt = 460 from Nat.max_eq_right h460]
    rfl
  · rw [exec_markerWindowCloses hphase hslot, Nat.max_eq_right h41, if_neg (by rw [hpast]; simp)]
    rfl
  · refine ⟨_, exec_markerWindowCloses hphase hslot, .inr ⟨rfl, fun hlate => ?_⟩⟩
    have htimer := hlate.2
    rw [State.setCadence_cadence] at htimer
    split at htimer
    · simp only at htimer; omega
    · rw [(windowClosed_kept _).2.1] at htimer; simp only at htimer; omega
  · exact congrArg Host.Outcome.next (if_pos (State.active_of hphase))
  · obtain ⟨hpins, hlast, -, -, -, hworked, hcadence⟩ := State.worked_kept hphase
    have hread := s.worked.readPins_read
    refine ⟨_, step_crystal hqueue hrst hphase, fun hx hshort hedge => ?_, fun hx hedge => ?_, fun hx hedge => ?_⟩
    · rw [if_pos hx] at hcadence
      have hentered : s.entered.cadence = s.cadence := windowPassed_open (fun h => by have := h.1; omega)
      have hms := State.msTick_within (s := s.entered) (by rw [hentered]; exact hshort) hphase
      rw [hentered] at hms
      have hquiet := (pinsRead_unmarked hread (by rw [hpins, hlast]; exact hedge)).1
      rw [hcadence] at hquiet
      refine ⟨fun h7 h459 => hquiet.trans ?_, fun hother => hquiet.trans ?_⟩
      · rw [hms, if_pos ⟨h7, h459⟩]
      · rw [hms, if_neg (by rintro ⟨h7, h459⟩; exact hother.elim (· h7) (· h459))]
    · rw [if_neg hx] at hcadence
      have hquiet := (pinsRead_unmarked hread (by rw [hpins, hlast]; exact hedge)).1
      rw [hcadence] at hquiet
      refine ⟨fun hcloses => ?_, fun hnot => ?_⟩
      · rwa [windowPassed_closed hcloses hedge] at hquiet
      · rwa [windowPassed_open hnot] at hquiet
    · rw [if_neg hx] at hcadence
      have hmarked := pinsRead_marked hread hworked (by rw [hpins, hlast]; exact hedge)
      rw [hcadence] at hmarked
      have hrestarted : s.cadence.slot = 0 → s.worked.readPins.cadence = { s.cadence with
          slotTimer := 0, past := false, markerMet := true, missed := 0, markerLost := false
          zcTimer := s.worked.readPins.cadence.zcTimer, zcLost := s.worked.readPins.cadence.zcLost } := fun h0 => by
        refine hmarked.trans ?_
        simp only [h0]
      have hbus := fun hloading : s.phase = .loading =>
        pinsRead_loading hread (by rw [State.worked_loading hloading hx]; exact hloading) (by rw [hpins, hlast]; exact hedge)
      refine ⟨fun hcloses => ⟨hrestarted hcloses.2.1, fun hloading hlink hperiod => ?_⟩,
        fun hnot hlate => ⟨hrestarted hlate.1, fun hloading => ?_⟩⟩
      · have hpast : ¬ LateMarker s.worked := fun hlate => by
          have := hlate.2
          rw [hcadence, windowPassed_past hcloses hedge] at this
          simp only at this
          omega
        rw [State.worked_loading hloading hx] at hbus hpast ⊢
        exact (hbus hloading).1 hpast hlink hperiod
      · have hstill : LateMarker s.worked := by
          unfold LateMarker
          rw [hcadence, windowPassed_open hnot]
          exact hlate
        rw [State.worked_loading hloading hx] at hbus hstill ⊢
        exact (hbus hloading).2 hstill

end Sys2Proof.Machine
end

section
/-! SUPPORT. One crystal period, part by part: O2. -/

namespace Sys2Proof.Machine

open Sys2Proof.Claims

variable {s t : State}

/-! ### The reading of the pins -/

/-- The reading of the pins leaves what stands from a reset to the next, and takes the levels read. -/
theorem pinsRead_standing (h : PinsRead s t) : ({ s with last := { sns := s.pins.sns, cym := s.pins.cym, zcm := s.pins.zcm } } : State).Standing t := by
  obtain ⟨m, u, hm, hu, ht, -⟩ := pinsRead_parts h
  have hmu : m.Standing u := by
    rw [hu]
    exact ite_keeps (P := m.Standing) (fun _ => m.standing_run _ (by simp) (by simp) (by simp)) fun _ => .refl m
  have hsu : s.Standing u := State.Standing.trans (by rw [hm]; constructor <;> rfl) hmu
  rw [ht]
  exact ⟨hsu.phase, hsu.straps, hsu.loader, hsu.params, hsu.pins, rfl, hsu.crystal, hsu.tonePhase, hsu.order, hsu.pending⟩

theorem pinsRead_sense (h : PinsRead s t) (hphase : s.phase ≠ .held) : t.sense = s.sense := by
  obtain ⟨m, u, hm, hu, ht, -⟩ := pinsRead_parts h
  have hmphase : m.phase ≠ .held := by rw [hm]; exact hphase
  have hmu : u.sense = m.sense := by
    rw [hu]
    split
    · obtain ⟨w, hw, -, -, hframe, -⟩ := cycleMarkerRestartsSlotZero m hmphase
      rw [State.exec_run] at hw
      rw [Host.Outcome.next.inj hw, hframe]
    · rfl
  rw [ht]
  exact hmu.trans (by rw [hm])

/-- Without a mark edge the zero-cross state stands. -/
theorem pinsRead_uncrossed (h : PinsRead s t) (hphase : s.phase ≠ .held) (hcross : s.pins.zcm = false ∨ s.last.zcm = true) :
    t.cadence.zcTimer = s.cadence.zcTimer ∧ t.cadence.zcLost = s.cadence.zcLost := by
  obtain ⟨m, u, hm, hu, -, hquiet⟩ := pinsRead_parts h
  have hmphase : m.phase ≠ .held := by rw [hm]; exact hphase
  have hmcadence : m.cadence = s.cadence := by rw [hm]
  have hmu : u.cadence.zcTimer = m.cadence.zcTimer ∧ u.cadence.zcLost = m.cadence.zcLost := by
    rw [hu]
    split
    · obtain ⟨w, hw, hcadence, -⟩ := cycleMarkerRestartsSlotZero m hmphase
      rw [State.exec_run] at hw
      rw [Host.Outcome.next.inj hw, hcadence]
      exact ⟨rfl, rfl⟩
    · exact ⟨rfl, rfl⟩
  rw [hquiet hcross, ← hmcadence]
  exact hmu

/-- Without an edge on CYM or ZCM the Cadence Timer stands. -/
theorem pinsRead_unclocked (h : PinsRead s t) (hmarker : s.pins.cym = false ∨ s.last.cym = true) (hcross : s.pins.zcm = false ∨ s.last.zcm = true) :
    t.cadence = s.cadence := by
  obtain ⟨m, u, hm, hu, -, hquiet⟩ := pinsRead_parts h
  rw [if_neg (notEdge_iff.2 hmarker)] at hu
  rw [hquiet hcross, hu, hm]

/-! ### The millisecond -/

theorem State.slotMs_frame (hphase : s.phase ≠ .held) : s.slotMs = { s with
    cadence := s.slotMs.cadence, lines := s.slotMs.lines, sched := s.slotMs.sched, table := s.slotMs.table, asm := s.slotMs.asm, bus := s.slotMs.bus } := by
  by_cases h : s.cadence.slotTimer < 499
  · rw [State.slotMs_within h hphase]; rfl
  · rw [State.slotMs_over (by omega) hphase, State.boundary_frame]; rfl

theorem State.slotMs_phase : s.slotMs.phase = s.phase := s.standing_slotMs.phase

theorem State.msTick_sense (hphase : s.phase ≠ .held) : s.msTick.sense = s.sense := by
  have htimed := s.timersKept_timed
  have hphase' : s.timed.phase ≠ .held := by rw [htimed.phase]; exact hphase
  rw [State.msTick_eq, State.zcMs_frame (by rw [State.slotMs_phase]; exact hphase'), State.slotMs_frame hphase', ← htimed.sense]

/-- The slot of a millisecond. -/
theorem State.msTick_slot (hphase : s.phase ≠ .held) :
    (s.cadence.slotTimer < 499 → s.msTick.cadence.slot = s.cadence.slot ∧ s.msTick.cadence.slotTimer = s.cadence.slotTimer + 1) ∧
    (499 ≤ s.cadence.slotTimer → s.msTick.cadence.slot = s.cadence.slot + 1 ∧ s.msTick.cadence.slotTimer = 0) := by
  refine ⟨fun h => by rw [State.msTick_within h hphase]; exact ⟨rfl, rfl⟩, fun h => ?_⟩
  have htimed := s.timersKept_timed
  have hphase' : s.timed.phase ≠ .held := by rw [htimed.phase]; exact hphase
  rw [State.msTick_eq, State.zcMs_frame (by rw [State.slotMs_phase]; exact hphase'),
    State.slotMs_over (by rw [htimed.cadence]; exact h) hphase', State.boundary_cadence, htimed.cadence]
  exact ⟨rfl, rfl⟩

/-- The zero-cross timer of a millisecond. -/
theorem State.msTick_zc (hphase : s.phase ≠ .held) :
    (s.cadence.zcTimer < 59 → s.msTick.cadence.zcTimer = s.cadence.zcTimer + 1 ∧ s.msTick.cadence.zcLost = s.cadence.zcLost) ∧
    (s.cadence.zcTimer = 59 → s.msTick.cadence.zcTimer = 60 ∧ s.msTick.cadence.zcLost = true) ∧
    (60 ≤ s.cadence.zcTimer → s.msTick.cadence.zcTimer = s.cadence.zcTimer ∧ s.msTick.cadence.zcLost = s.cadence.zcLost) := by
  have htimed := s.timersKept_timed
  have hphase' : s.timed.phase ≠ .held := by rw [htimed.phase]; exact hphase
  have hslot := State.slotMs_zc hphase'
  have hms := State.zcMs_zc (s := s.timed.slotMs) (by rw [State.slotMs_phase]; exact hphase')
  rwa [hslot.1, hslot.2, htimed.cadence] at hms

/-- While loading a millisecond has no line's timer in it. -/
theorem State.msTick_loading (hloading : s.phase = .loading) :
    s.msTick = { s with
      cadence := s.msTick.cadence, table := s.msTick.table, sched := s.msTick.sched, bus := s.msTick.bus, asm := s.msTick.asm
      lines := s.msTick.lines } ∧
    (s.cadence.slotTimer < 499 → s.cadence.zcTimer ≠ 59 → s.msTick = { s with cadence := s.msTick.cadence }) := by
  have hphase : s.phase ≠ .held := by rw [hloading]; simp
  have htimed : s.timed = s := if_neg (by simp [State.running, hloading])
  rw [State.msTick_eq, htimed]
  refine ⟨?_, fun hslot hcross => ?_⟩
  · rw [State.zcMs_frame (by rw [State.slotMs_phase]; exact hphase), State.slotMs_frame hphase]
  · rw [State.slotMs_within hslot hphase, State.zcMs_within (by exact hcross)]
    rfl

/-! ### The quiet bus -/

theorem State.senseTick_bus : s.senseTick.bus = s.bus := by
  unfold State.senseTick
  refine ite_keeps (P := fun t => t.bus = s.bus) (fun _ => ?_) fun _ => rfl
  refine ite_keeps (P := fun t => t.bus = s.bus) (fun _ => ?_) fun _ => rfl
  refine ite_keeps (P := fun t => t.bus = s.bus) (fun _ => ?_) fun _ => rfl
  suffices ∀ (w : Nat) (ls : List Line) (t : State), (ls.foldl (State.windowEndOf w) t).bus = t.bus from this _ _ _
  intro w ls
  induction ls with
  | nil => exact fun _ => rfl
  | cons n ls ih => exact fun t => (ih _).trans (by simp)

/-- A recessive sample of a quiet bus is counted, and nothing else happens. -/
theorem State.busSample_quiet (hrunning : s.phase = .running) (hquiet : QuietBus s) : s.busSample = s.setBus { s.bus with
    recessive := min 192 (s.bus.recessive + 1), dominantRun := 0, dominantSamples := 0
    idle := if s.bus.idleSamples + 1 < 16 then s.bus.idle else s.bus.idle + 1
    idleSamples := if s.bus.idleSamples + 1 < 16 then s.bus.idleSamples + 1 else 0 } := by
  obtain ⟨hrx, hbyte, hheld, hattempt, hidle, hnb⟩ := hquiet
  have hdue : (s.mayAttempt && s.hasNotice && s.idleEnough) = false := by
    have : s.idleEnough = false := by
      unfold State.idleEnough
      split <;> simp <;> omega
    simp [this]
  have hdominant : (s.pins.nbLow || s.drivesLow) = false := by simp [hnb, State.drivesLow, hattempt]
  have hdrive : s.driveOn = s := by
    have hnone : (s.bus.attempt.map fun a => { a with sample := a.sample + 1 }) = s.bus.attempt := by rw [hattempt]; rfl
    unfold State.driveOn
    rw [hnone]
    rfl
  have hrun : s.busSample = ((s.countRecessive false).countDominant false).receiveSample false := by
    unfold State.busSample
    rw [if_pos (by simp [State.running, hrunning]), hdue]
    simp only [Bool.false_eq_true, if_false, hdominant, hdrive]
  have hcounted : (s.countRecessive false).countDominant false =
      s.setBus { s.bus with recessive := min 192 (s.bus.recessive + 1), dominantRun := 0, dominantSamples := 0 } := rfl
  rw [hrun, hcounted]
  unfold State.receiveSample State.watchEdge Bus.countIdle
  simp only [State.setBus_bus, hheld, hrx, hbyte]
  by_cases hbit : s.bus.idleSamples + 1 < 16
  · simp [hbit, samplesPerBit, State.setBus]
  · simp [hbit, samplesPerBit, State.setBus]
    omega

end Sys2Proof.Machine
end

section
/-! SUPPORT. A step on an empty queue, phase by phase: O2. -/

namespace Sys2Proof.Machine

open Sys2Proof.Claims

variable {s t : State}

/-! ### Reset -/

theorem Pins.eq_of_rst {p : Pins} (h : p.rst = true) : ({ p with rst := true } : Pins) = p := by
  cases p; subst h; rfl

theorem Pins.eq_of_no_rst {p : Pins} (h : p.rst = false) : ({ p with rst := false } : Pins) = p := by
  cases p; subst h; rfl

/-- With RST asserted the part is held, and pins, orders and queue stand. -/
theorem State.tick_held (hrst : s.pins.rst = true) :
    s.tick.phase = .held ∧ s.tick.pins = s.pins ∧ s.tick.order = s.order ∧ s.tick.pending = s.pending := by
  unfold State.tick
  rw [if_pos hrst]
  split
  · exact ⟨‹_›, rfl, rfl, rfl⟩
  · exact ⟨rfl, Pins.eq_of_rst hrst, rfl, rfl⟩

/-- The reset ends with RST no longer asserted. -/
theorem State.tick_released (hrst : s.pins.rst = false) (hheld : s.phase = .held) :
    s.tick.phase = .loading ∧ s.tick.straps = { address := s.pins.address, l8 := s.pins.l8, cfgp := s.pins.cfgp } ∧
    s.tick.pins = s.pins ∧ s.tick.order = s.order ∧ s.tick.pending = s.pending := by
  unfold State.tick
  rw [if_neg (by simp [hrst]), if_pos hheld]
  exact ⟨rfl, rfl, Pins.eq_of_no_rst hrst, rfl, rfl⟩

/-! ### Loading -/

/-- The loader after a crystal period of the transfer. -/
theorem State.entered_loading (hloading : s.phase = .loading) :
    s.entered = { s with
      crystal := (s.crystal + 1) % 4096
      loader := if s.straps.cfgp = true ∧ s.loader.finished = false then s.loader.clock s.pins.cfgda else s.loader
      cadence := WindowPassed s } := by
  unfold State.entered
  simp only [hloading, true_and]
  rfl

/-- A crystal period of a part that is loading: of what falls due in a millisecond, the end of loading comes last. -/
theorem State.worked_loadingMs (hloading : s.phase = .loading) (hx : (s.crystal + 1) % 4096 = 0) : s.worked = s.entered.msTick.loadingMs := by
  have hms : s.entered.msTick.phase = .loading := (State.standing_msTick (s := s.entered) (by rw [show s.entered.phase = s.phase from rfl, hloading]; simp)).phase.trans hloading
  have hnot : s.entered.msTick.phase ≠ .running := by rw [hms]; simp
  unfold State.worked
  simp only [if_pos hx, State.senseTick_idle hnot, State.busSample_idle hnot, ite_self]

/-! ### Running -/

/-- The state that the crystal period begins with in a part that works. -/
theorem State.entered_running (hrunning : s.phase = .running) :
    s.entered = { s with
      crystal := (s.crystal + 1) % 4096, tonePhase := (s.tonePhase + 1) % tonePeriod s.params.tone, cadence := WindowPassed s } := by
  unfold State.entered
  rw [if_pos hrunning, if_neg (by rw [hrunning]; simp)]

theorem State.loadingMs_running (hrunning : s.phase = .running) : s.loadingMs = s := if_neg (by rw [hrunning]; simp)

section Running
variable (hrunning : s.phase = .running)
include hrunning

theorem State.notHeld : s.phase ≠ .held := by rw [hrunning]; simp

/-- A crystal period of a part that works, without an end of loading. -/
theorem State.worked_running : ∃ m e : State,
    m = (if (s.crystal + 1) % 4096 = 0 then s.entered.msTick else s.entered) ∧
    e = (if (s.crystal + 1) % 4096 % 512 = 0 then m.senseTick else m) ∧
    s.worked = (if (s.crystal + 1) % 4096 % 8 = 0 then e.busSample else e) ∧ s.entered.Standing m ∧ m.Standing e ∧ s.entered.Standing s.worked := by
  have hheld := State.notHeld hrunning
  have hm : s.entered.Standing (if (s.crystal + 1) % 4096 = 0 then s.entered.msTick else s.entered) :=
    s.entered.standing_ite (State.standing_msTick hheld) (.refl _)
  generalize hmdef : (if (s.crystal + 1) % 4096 = 0 then s.entered.msTick else s.entered) = m at hm
  have he : m.Standing (if (s.crystal + 1) % 4096 % 512 = 0 then m.senseTick else m) := m.standing_ite m.standing_senseTick (.refl m)
  generalize hedef : (if (s.crystal + 1) % 4096 % 512 = 0 then m.senseTick else m) = e at he
  have hb : e.Standing (if (s.crystal + 1) % 4096 % 8 = 0 then e.busSample else e) := e.standing_ite e.busSample_kept.1 (.refl e)
  have hworked : s.worked = if (s.crystal + 1) % 4096 % 8 = 0 then e.busSample else e := by
    unfold State.worked
    dsimp only
    rw [hmdef, hedef, State.loadingMs_running ((hb.phase.trans (he.phase.trans hm.phase)).trans hrunning), ite_self]
  exact ⟨m, e, rfl, hedef.symm, hworked, hm, he, hworked ▸ (hm.trans he).trans hb⟩

theorem State.worked_sense :
    ((s.crystal + 1) % 4096 % 512 ≠ 0 → s.worked.sense = s.sense) ∧
    ((s.crystal + 1) % 4096 % 512 = 0 → s.sense.windowTimer + 1 < lengthOf s.sense.dither →
      s.worked.sense = { s.sense with windowTimer := s.sense.windowTimer + 1 }) ∧
    ((s.crystal + 1) % 4096 % 512 = 0 → lengthOf s.sense.dither ≤ s.sense.windowTimer + 1 →
      s.worked.sense = { dither := s.sense.dither + 1, windowTimer := 0 }) := by
  obtain ⟨m, e, hm, he, hw, hsm, -, -⟩ := State.worked_running hrunning
  have hmsense : m.sense = s.sense := by
    rw [hm]
    split
    · exact State.msTick_sense (s := s.entered) (State.notHeld hrunning)
    · rfl
  have hwsense : s.worked.sense = e.sense := by
    rw [hw]
    split
    · exact e.busSample_kept.2.sense
    · rfl
  have htick := State.senseTick_clocks (s := m) (hsm.phase.trans hrunning)
  rw [hwsense, he, ← hmsense]
  exact ⟨fun h => by rw [if_neg h], fun h hshort => by rw [if_pos h, htick.2.1 hshort]; rfl, fun h hlong => by rw [if_pos h, htick.2.2 hlong]⟩

/-- Outside a bus sample the bus stands. -/
theorem State.worked_bus (h8 : (s.crystal + 1) % 4096 % 8 ≠ 0) : s.worked.bus = s.bus := by
  obtain ⟨m, e, hm, he, hw, -⟩ := State.worked_running hrunning
  rw [if_neg (by omega)] at hm he
  rw [hw, if_neg h8, he, hm]
  rfl

/-- A sample of the quiet bus. -/
theorem State.worked_quiet (h8 : (s.crystal + 1) % 4096 % 8 = 0) (hx : (s.crystal + 1) % 4096 ≠ 0) (hquiet : QuietBus s) :
    s.worked.bus = { s.bus with
      recessive := min 192 (s.bus.recessive + 1), dominantRun := 0, dominantSamples := 0
      idle := if s.bus.idleSamples + 1 < 16 then s.bus.idle else s.bus.idle + 1
      idleSamples := if s.bus.idleSamples + 1 < 16 then s.bus.idleSamples + 1 else 0 } := by
  obtain ⟨m, e, hm, he, hw, hsm, hme, -⟩ := State.worked_running hrunning
  rw [if_neg hx] at hm
  have hebus : e.bus = s.bus := by
    rw [he]
    split
    · rw [State.senseTick_bus, hm]; rfl
    · rw [hm]; rfl
  have hepins : e.pins = s.pins := hme.pins.trans hsm.pins
  have hequiet : QuietBus e := by
    unfold QuietBus
    rw [hebus, hepins]
    exact hquiet
  rw [hw, if_pos h8, State.busSample_quiet ((hme.phase.trans hsm.phase).trans hrunning) hequiet, ← hebus]
  rfl

/-- In a crystal period that ends no eighth of a millisecond, a bus sample alone may fall. -/
theorem State.worked_between (h512 : (s.crystal + 1) % 4096 % 512 ≠ 0) :
    s.worked = if (s.crystal + 1) % 4096 % 8 = 0 then s.entered.busSample else s.entered := by
  obtain ⟨m, e, hm, he, hw, -⟩ := State.worked_running hrunning
  rw [if_neg (by omega)] at hm
  rw [if_neg h512] at he
  rw [hw, he, hm]

end Running

end Sys2Proof.Machine
end

section
/-! SUPPORT. The transfer, clock by clock: O2. -/

namespace Sys2Proof.Machine

open Sys2Proof.Claims

variable {l : Loader} {d : Nat → Bool}

/-! ### One crystal period of the transfer -/

/-- What the reading of CFGDA in clock `c` makes of the image and of the byte being clocked in. -/
def readStep (c : Nat) (high : Bool) (x : List Byte × Byte) : List Byte × Byte :=
  match imageClock c with
  | some i =>
    let b := (x.2 <<< 1) ||| (BitVec.ofBool high).setWidth 8
    if i < 7 then (x.1, b) else if i = 7 then (x.1 ++ [b], 0#8) else x
  | none => x

/-- Image and byte being clocked in, after the first `n` clocks. -/
def contents (d : Nat → Bool) : Nat → List Byte × Byte
  | 0 => ([], 0#8)
  | n + 1 => readStep n (d (readAt n)) (contents d n)

theorem Loader.readBit_answer {c : Nat} (hc : c = 9 ∨ c = 18) (hp : l.position = readAt c) (high : Bool) :
    l.readBit high = { l with unanswered := high } := by
  have hclock : l.position / crystalPerClock = c := by rw [hp]; simp only [readAt, crystalPerClock]; omega
  unfold Loader.readBit
  simp only [hclock]
  rw [if_pos hc]

theorem Loader.readBit_other {c : Nat} (hc : ¬ (c = 9 ∨ c = 18)) (hp : l.position = readAt c) (high : Bool) :
    l.readBit high = { l with image := (readStep c high (l.image, l.shift)).1, shift := (readStep c high (l.image, l.shift)).2 } := by
  have hclock : l.position / crystalPerClock = c := by rw [hp]; simp only [readAt, crystalPerClock]; omega
  unfold Loader.readBit readStep
  simp only [hclock]
  rw [if_neg hc]
  cases imageClock c with
  | none => rfl
  | some i =>
    dsimp only
    split
    · rfl
    · split
      · rfl
      · rfl

/-- In the answer clocks nothing is read into the image. -/
theorem readStep_answer {c : Nat} (hc : c < 19) (high : Bool) (x : List Byte × Byte) : readStep c high x = x := by
  unfold readStep imageClock
  rw [if_neg (by omega)]

theorem contents_early {n : Nat} (hn : n ≤ 19) : contents d n = ([], 0#8) := by
  induction n with
  | zero => rfl
  | succ n ih => rw [contents, readStep_answer (by omega), ih (by omega)]

theorem Loader.moveOn_to {p : Nat}
    (h : (if l.unanswered = true ∧ (l.position + 1) % 32 = 0 then max (l.position + 1) 14432 else l.position + 1) = p) :
    l.moveOn = { l with position := p } := by
  subst h; rfl

theorem Loader.moveOn_next (hgo : l.unanswered = false ∨ (l.position + 1) % 32 ≠ 0) : l.moveOn = { l with position := l.position + 1 } :=
  Loader.moveOn_to (if_neg fun h => hgo.elim (fun hlow => by rw [hlow] at h; cases h.1) (fun hwithin => hwithin h.2))

theorem Loader.clock_on {m n : Loader} {high : Bool} (hm : (if l.position % 32 = 24 then l.readBit high else l) = m) (hn : m.moveOn = n)
    (hend : n.position < 14464) : l.clock high = n := by
  subst hm hn
  exact if_neg (Nat.not_le.2 hend)

/-- A crystal period in which CFGDA is not read. -/
theorem Loader.clock_unread (hread : l.position % 32 ≠ 24) (hgo : l.unanswered = false ∨ (l.position + 1) % 32 ≠ 0) (hend : l.position + 1 < 14464)
    (high : Bool) : l.clock high = { l with position := l.position + 1 } :=
  Loader.clock_on (if_neg hread) (Loader.moveOn_next hgo) hend

theorem Loader.readBit_position (high : Bool) : (l.readBit high).position = l.position := by
  unfold Loader.readBit
  dsimp only
  split
  · rfl
  · split
    · split
      · rfl
      · split
        · rfl
        · rfl
    · rfl

/-- A crystal period in which CFGDA is read: the period after it ends no clock. -/
theorem Loader.clock_read (hread : l.position % 32 = 24) (hend : l.position + 1 < 14464) (high : Bool) :
    l.clock high = { l.readBit high with position := l.position + 1 } := by
  have hmove := Loader.moveOn_next (l := l.readBit high) (.inr (by rw [Loader.readBit_position]; omega))
  rw [Loader.readBit_position] at hmove
  exact Loader.clock_on (if_pos hread) hmove hend

/-- The last crystal period of the stop mark. -/
theorem Loader.clock_last (hp : l.position = 14463) (high : Bool) :
    l.clock high = { l with position := 14464, finished := true, rejected := l.rejected || l.unanswered } := by
  have hmove : l.moveOn = { l with position := 14464 } := Loader.moveOn_to (by rw [hp]; split <;> rfl)
  have hread : (if l.position % 32 = 24 then l.readBit high else l) = l := if_neg (by omega)
  have hclock : l.clock high = (if 14464 ≤ (if l.position % 32 = 24 then l.readBit high else l).moveOn.position
      then (if l.position % 32 = 24 then l.readBit high else l).moveOn.stop
      else (if l.position % 32 = 24 then l.readBit high else l).moveOn) := rfl
  rw [hclock, hread, hmove]
  exact if_pos (Nat.le_refl 14464)

/-- The crystal period that ends the clock of an answer read high: the stop mark follows. -/
theorem Loader.clock_stopped (hun : l.unanswered = true) (hread : l.position % 32 = 31) (hearly : l.position < 14400) (high : Bool) :
    l.clock high = { l with position := 14432 } :=
  Loader.clock_on (if_neg (by omega)) (Loader.moveOn_to ((if_pos ⟨hun, by omega⟩).trans (Nat.max_eq_right (by omega)))) (show 14432 < 14464 by omega)

/-! ### The transfer while the memory answers -/

/-- The transfer has not begun. -/
structure Loader.Fresh (l : Loader) : Prop where
  position : l.position = 0
  shift : l.shift = 0#8
  image : l.image = []
  unanswered : l.unanswered = false
  finished : l.finished = false

/-- While every answer bit has been read low, the transfer moves on by a crystal period in each, and holds what the clocks before have read. -/
theorem transferred_answered (hl : l.Fresh) {k : Nat} (hk : k < 14464)
    (hlow : ∀ c, (c = 9 ∨ c = 18) → readAt c < k → d (readAt c) = false) :
    transferred d l k = { l with position := k, image := (contents d ((k + 7) / 32)).1, shift := (contents d ((k + 7) / 32)).2 } := by
  induction k with
  | zero =>
    obtain ⟨hposition, hshift, himage, -, -⟩ := hl
    rw [contents_early (by omega)]
    show l = _
    cases l
    subst hposition hshift himage
    rfl
  | succ k ih =>
    have hbefore := ih (by omega) fun c hc h => hlow c hc (by omega)
    rw [transferred, hbefore]
    by_cases hread : k % 32 = 24
    · have hat : k = readAt (k / 32) := by simp only [readAt]; omega
      have hnow : (k + 7) / 32 = k / 32 := by omega
      have hnext : (k + 1 + 7) / 32 = k / 32 + 1 := by omega
      rw [Loader.clock_read hread hk, hnow, hnext, contents, ← hat]
      by_cases hc : k / 32 = 9 ∨ k / 32 = 18
      · have hbit : d k = false := by
          have := hlow (k / 32) hc (by rw [← hat]; omega)
          rwa [← hat] at this
        rw [Loader.readBit_answer hc hat, hbit, readStep_answer (by omega), ← hl.unanswered]
      · rw [Loader.readBit_other hc hat]
    · rw [Loader.clock_unread (by exact hread) (.inl (by exact hl.unanswered)) (by exact hk), show (k + 1 + 7) / 32 = (k + 7) / 32 by omega]

/-! ### The image -/

/-- One more bit of a byte clocked in, most significant first. -/
theorem shiftIn (x : Byte) (b : Fin 8) :
    ((x >>> (8 - b.val)) <<< 1) ||| (BitVec.ofBool (x.getLsbD (7 - b.val))).setWidth 8 = x >>> (8 - (b.val + 1)) := by
  revert x b; decide

theorem imageClock_place {j b : Nat} (hj : j < 48) (hb : b < 9) : imageClock (19 + 9 * j + b) = some b := by
  unfold imageClock
  rw [if_pos (by omega)]
  exact congrArg some (by omega)

section Image
variable {image : List Byte} (hlength : image.length = 48)
  (hbits : ∀ j b : Nat, j < 48 → b < 8 → d (readAt (19 + 9 * j + b)) = (image.getD j 0#8).getLsbD (7 - b))
include hlength hbits

/-- Within byte `j` of the image. -/
theorem contents_within {j : Nat} (hj : j < 48) (hstart : contents d (19 + 9 * j) = (image.take j, 0#8)) {b : Nat} (hb : b ≤ 7) :
    contents d (19 + 9 * j + b) = (image.take j, (image.getD j 0#8) >>> (8 - b)) := by
  induction b with
  | zero =>
    rw [Nat.add_zero, hstart]
    exact Prod.ext rfl (BitVec.ushiftRight_eq_zero (by decide)).symm
  | succ b ih =>
    rw [← Nat.add_assoc, contents, ih (by omega), hbits j b hj (by omega)]
    unfold readStep
    rw [imageClock_place hj (by omega)]
    dsimp only
    rw [if_pos (by omega), shiftIn _ ⟨b, by omega⟩]

/-- After a byte and its answer clock the byte has joined the image. -/
theorem contents_byte {j : Nat} (hj : j ≤ 48) : contents d (19 + 9 * j) = (image.take j, 0#8) := by
  induction j with
  | zero => rw [contents_early (by omega)]; rfl
  | succ j ih =>
    have hseven := contents_within hlength hbits (by omega) (ih (by omega)) (Nat.le_refl 7)
    have height : contents d (19 + 9 * j + 8) = (image.take (j + 1), 0#8) := by
      rw [contents, hseven, hbits j 7 (by omega) (by omega)]
      unfold readStep
      rw [imageClock_place (by omega) (by omega)]
      dsimp only
      rw [if_neg (by omega), if_pos rfl, shiftIn _ ⟨7, by omega⟩]
      refine Prod.ext ?_ rfl
      show image.take j ++ [image.getD j 0#8 >>> 0] = _
      rw [BitVec.ushiftRight_zero, List.take_succ, List.getD_eq_getElem?_getD, List.getElem?_eq_getElem (by omega)]
      rfl
    rw [show 19 + 9 * (j + 1) = (19 + 9 * j + 8) + 1 by omega, contents, height]
    unfold readStep
    rw [imageClock_place (by omega) (by omega)]
    dsimp only
    rw [if_neg (by omega), if_neg (by omega)]

theorem contents_all : contents d 452 = (image, 0#8) := by
  have h := contents_byte hlength hbits (Nat.le_refl 48)
  rw [show (452 : Nat) = (19 + 9 * 48) + 1 from rfl, contents, h, ← hlength, List.take_length]
  rfl

end Image

/-! ### The transfer of a memory that does not answer -/

/-- Answer clock `c` reads high: the transfer stands at the stop mark's clock with the next clock, and no image is read. -/
theorem transferred_unanswered (hl : l.Fresh) {c : Nat} (hc : c = 9 ∨ c = 18 ∧ d (readAt 9) = false) (hhigh : d (readAt c) = true) :
    (∀ i, i < 7 → transferred d l (readAt c + 1 + i) = { l with position := readAt c + 1 + i, unanswered := true }) ∧
    (∀ i, i < 32 → transferred d l (32 * (c + 1) + i) = { l with position := 14432 + i, unanswered := true }) := by
  have hanswer : c = 9 ∨ c = 18 := hc.imp id (·.1)
  have hsmall : readAt c < 14400 := by rcases hanswer with rfl | rfl <;> decide
  have hbefore : transferred d l (readAt c) = { l with position := readAt c } := by
    rw [transferred_answered hl (by omega) fun c' hc' h => ?_, show (readAt c + 7) / 32 = c by simp only [readAt]; omega,
      contents_early (by omega), ← hl.shift, ← hl.image]
    rcases hc with rfl | ⟨rfl, h9⟩
    · rcases hc' with rfl | rfl <;> simp only [readAt] at h <;> omega
    · rcases hc' with rfl | rfl
      · exact h9
      · omega
  have hfirst : ∀ i, i < 7 → transferred d l (readAt c + 1 + i) = { l with position := readAt c + 1 + i, unanswered := true } := by
    intro i hi
    induction i with
    | zero =>
      rw [Nat.add_zero, transferred, hbefore, Loader.clock_read (by simp only [readAt]; omega) (by simp only; omega),
        Loader.readBit_answer hanswer rfl, hhigh]
    | succ i ih =>
      rw [← Nat.add_assoc, transferred, ih (by omega),
        Loader.clock_unread (by simp only [readAt]; omega) (.inr (by simp only [readAt]; omega)) (by simp only; omega)]
  refine ⟨hfirst, fun i hi => ?_⟩
  induction i with
  | zero =>
    rw [show 32 * (c + 1) + 0 = readAt c + 1 + 6 + 1 by simp only [readAt]; omega, transferred, hfirst 6 (by omega),
      Loader.clock_stopped rfl (by simp only [readAt]; omega) (by simp only [readAt]; omega)]
  | succ i ih =>
    rw [← Nat.add_assoc, transferred, ih (by omega)]
    by_cases hread : i = 24
    · subst hread
      rw [Loader.clock_read (by simp only) (by simp only; omega), Loader.readBit_other (c := 451) (by omega) rfl]
      rfl
    · rw [Loader.clock_unread (by simp only; omega) (.inr (by simp only; omega)) (by simp only; omega)]
      rfl

/-! ### The whole transfer -/

theorem transferred_whole (hl : l.Fresh) (h9 : d (readAt 9) = false) (h18 : d (readAt 18) = false) :
    (∀ k : Nat, k < 452 * 32 → (transferred d l k).finished = false) ∧
    ∀ image : List Byte, image.length = 48 → (∀ j b : Nat, j < 48 → b < 8 → d (readAt (19 + 9 * j + b)) = (image.getD j 0#8).getLsbD (7 - b)) →
      transferred d l (452 * 32) = { l with position := 452 * 32, image := image, finished := true } := by
  have hlow : ∀ c, c = 9 ∨ c = 18 → d (readAt c) = false := by rintro c (rfl | rfl) <;> assumption
  refine ⟨fun k hk => ?_, fun image hlength hbits => ?_⟩
  · rw [transferred_answered hl hk fun c hc _ => hlow c hc]
    exact hl.finished
  · have hlast := transferred_answered (d := d) hl (k := 14463) (by omega) fun c hc _ => hlow c hc
    rw [contents_all hlength hbits] at hlast
    show (transferred d l 14463).clock (d 14463) = _
    rw [hlast, Loader.clock_last rfl]
    simp only [hl.unanswered, Bool.or_false, hl.shift]

theorem transferred_silent (hl : l.Fresh) {c : Nat} (hc : c = 9 ∨ c = 18 ∧ d (readAt 9) = false) (hhigh : d (readAt c) = true) :
    (∀ m : Nat, m < (c + 2) * 32 → (transferred d l m).finished = false) ∧
    transferred d l ((c + 2) * 32) = { l with position := 452 * 32, unanswered := true, finished := true, rejected := true } := by
  obtain ⟨hnoted, hstopping⟩ := transferred_unanswered hl hc hhigh
  have hanswer : c = 9 ∨ c = 18 := hc.imp id (·.1)
  have hat : readAt c = 32 * c + 24 := rfl
  refine ⟨fun m hm => ?_, ?_⟩
  · by_cases h1 : m ≤ readAt c
    · rw [transferred_answered hl (by omega) fun c' hc' h => ?_]
      · exact hl.finished
      · rcases hc with rfl | ⟨rfl, h9⟩
        · rcases hc' with rfl | rfl <;> simp only [readAt] at * <;> omega
        · rcases hc' with rfl | rfl
          · exact h9
          · omega
    · by_cases h2 : m < 32 * (c + 1)
      · rw [show m = readAt c + 1 + (m - readAt c - 1) by omega, hnoted _ (by omega)]
        exact hl.finished
      · rw [show m = 32 * (c + 1) + (m - 32 * (c + 1)) by omega, hstopping _ (by omega)]
        exact hl.finished
  · rw [show (c + 2) * 32 = 32 * (c + 1) + 31 + 1 by omega, transferred, hstopping 31 (by omega), Loader.clock_last rfl]
    simp only [Bool.or_true]

end Sys2Proof.Machine
end

section
/-! SUPPORT. The lines' timers, and a step on an empty queue as a whole: O2. -/

namespace Sys2Proof.Machine

open Sys2Proof.Claims

variable {s t : State} {n : Line}

/-! ### The timers of one line -/

theorem State.deadDue_not (h : ¬ ((s.line n).relay.deadRunning = true ∧ s.params.relay.deadTime ≤ (s.line n).relay.deadTimer)) : s.deadDue n = s :=
  if_neg h

/-- A dead time reached brings the command of its movement, or stops the timer where there is none. -/
theorem State.deadDue_due (h : (s.line n).relay.deadRunning = true ∧ s.params.relay.deadTime ≤ (s.line n).relay.deadTimer) :
    ((s.line n).relay.position = .toRing → s.deadDue n = s.run (.deadTimeToRing n)) ∧
    ((s.line n).relay.position = .toFeed → s.deadDue n = s.run (.deadTimeToFeed n)) ∧
    ((s.line n).relay.position = .feed ∨ (s.line n).relay.position = .ringWait ∨ (s.line n).relay.position = .ring →
      s.deadDue n = s.onLine n (LineState.deadTimeReached s.params.relay)) := by
  unfold State.deadDue
  rw [if_pos h]
  refine ⟨fun hp => by rw [hp], fun hp => by rw [hp], fun hp => ?_⟩
  rcases hp with hp | hp | hp <;> rw [hp]

theorem State.waitDue_due (h : (s.line n).relay.wait ≠ .none ∧ 25 ≤ (s.line n).relay.waitTimer) : s.waitDue n = s.run (.zcWaitTimeout n) := if_pos h

theorem State.waitDue_not (h : (s.line n).relay.wait = .none ∨ (s.line n).relay.waitTimer < 25) : s.waitDue n = s :=
  if_neg fun hdue => h.elim hdue.1 fun hlt => Nat.not_le.2 hlt hdue.2

theorem State.dialMs_none (h : (s.line n).hook.dialTimer = none) : s.dialMs n = s := by
  unfold State.dialMs
  rw [h]

theorem State.dialMs_some {k : Nat} (h : (s.line n).hook.dialTimer = some k) :
    s.dialMs n = if 1000 * s.params.timing.dialTimeout ≤ k + 1 then s.run (.permanentLoop n)
      else s.onHook n fun h => { h with dialTimer := some (k + 1) } := by
  unfold State.dialMs
  rw [h]

theorem State.stutterMs_burst {k : Fin 6} {m : Nat} (h : (s.line n).tone.tone = some (.recall (.burst k) m)) :
    s.stutterMs n = if 100 ≤ m + 1 then s.run (.stutterAdvance n) else s.onTone n fun t => { t with tone := some (.recall (.burst k) (m + 1)) } := by
  unfold State.stutterMs
  rw [h]
  rfl

theorem State.stutterMs_other (h : ∀ (k : Fin 6) (m : Nat), (s.line n).tone.tone ≠ some (.recall (.burst k) m)) : s.stutterMs n = s := by
  unfold State.stutterMs
  split
  · exact absurd ‹_› (h _ _)
  all_goals rfl

theorem State.relayMs_params (s : State) (n : Line) : (s.relayMs n).params = s.params := by
  have hdead : ∀ t : State, (t.deadDue n).params = t.params := fun t => by
    unfold State.deadDue
    split
    · split
      · exact (t.standing_run _ (by simp) (by simp) (by simp)).params
      · exact (t.standing_run _ (by simp) (by simp) (by simp)).params
      all_goals rfl
    · rfl
  have hwait : ∀ t : State, (t.waitDue n).params = t.params := fun t => by
    unfold State.waitDue
    split
    · exact (t.standing_run _ (by simp) (by simp) (by simp)).params
    · rfl
  exact (hwait _).trans (hdead _)

/-- A millisecond of one line's timers. -/
theorem State.lineMs_timed (s : State) (n : Line) : LineTimed s n (s.lineMs n) := by
  have hline : ((s.onLine n LineState.countRelay).line n) = (s.line n).countRelay := s.line_onLine_same n _
  have hparams := s.relayMs_params n
  refine ⟨(s.onLine n LineState.countRelay).deadDue n, s.relayMs n, (s.relayMs n).dialMs n, ⟨fun hd hp => ?_, fun hd hp => ?_, fun hd hp => ?_, fun hd => ?_⟩,
    fun hw h25 => ?_, fun hw => State.waitDue_not hw, fun hd => State.dialMs_none hd, fun k hk => ⟨fun hlong => ?_, fun hshort => ?_⟩,
    fun k m hk => ⟨fun hlong => ?_, fun hshort => ?_⟩, fun hother => State.stutterMs_other hother⟩
  · have h := (State.deadDue_due (s := s.onLine n LineState.countRelay) (n := n) (by rw [hline]; exact hd)).1 (by rw [hline]; exact hp)
    rw [h]; exact State.exec_run _ _
  · have h := (State.deadDue_due (s := s.onLine n LineState.countRelay) (n := n) (by rw [hline]; exact hd)).2.1 (by rw [hline]; exact hp)
    rw [h]; exact State.exec_run _ _
  · have h := (State.deadDue_due (s := s.onLine n LineState.countRelay) (n := n) (by rw [hline]; exact hd)).2.2 (by rw [hline]; exact hp)
    rw [h, State.onLine_onLine]
    exact congrArg (s.setLine n) (congrArg (fun r => ({ s.line n with relay := r } : LineState)) (by rw [hd.1]; rfl))
  · exact State.deadDue_not (s := s.onLine n LineState.countRelay) (by rw [hline]; exact hd)
  · exact (congrArg Host.Outcome.next (State.waitDue_due ⟨hw, h25⟩)).symm ▸ State.exec_run _ _
  · rw [State.dialMs_some hk, if_pos (by rw [hparams]; exact hlong)]; exact State.exec_run _ _
  · rw [State.dialMs_some hk, if_neg (by rw [hparams]; exact Nat.not_le.2 hshort)]; rfl
  · show exec _ _ = .next (((s.relayMs n).dialMs n).stutterMs n)
    rw [State.stutterMs_burst hk, if_pos hlong]; exact State.exec_run _ _
  · show ((s.relayMs n).dialMs n).stutterMs n = _
    rw [State.stutterMs_burst hk, if_neg (Nat.not_le.2 hshort)]; rfl

/-- A millisecond of the lines' timers, in turn. -/
theorem State.linesMs_timed (ls : List Line) (s : State) : LinesTimed ls s (ls.foldl State.lineMs s) := by
  induction ls generalizing s with
  | nil => rfl
  | cons n ls ih => exact ⟨_, s.lineMs_timed n, ih _⟩

end Sys2Proof.Machine
end

section
/-! SUPPORT. A step on an empty queue is one crystal period: O2. -/

namespace Sys2Proof.Machine

open Sys2Proof.Claims

variable {s t : State}

/-! ### Loading -/

/-- The loader a crystal period later. -/
def State.loaderNext (s : State) : Loader :=
  if s.straps.cfgp = true ∧ s.loader.finished = false then s.loader.clock s.pins.cfgda else s.loader

/-- Outside a millisecond the transfer alone moves on. -/
theorem worked_loading_between (hloading : s.phase = .loading) (hx : (s.crystal + 1) % 4096 ≠ 0) (h : PinsRead s.worked t) :
    t.phase = .loading ∧ t.params = s.params ∧ t.loader = s.loaderNext := by
  have hstands := pinsRead_standing h
  rw [State.worked_loading hloading hx, State.entered_loading hloading] at hstands
  exact ⟨hstands.phase.trans hloading, hstands.params, hstands.loader⟩

section Millisecond
variable (hloading : s.phase = .loading) (hx : (s.crystal + 1) % 4096 = 0)
include hloading hx

theorem State.entered_loadingMs : s.entered = { s with crystal := 0, loader := s.loaderNext } := by
  rw [State.entered_loading hloading, hx, windowPassed_open fun hcloses => by have := hcloses.1; omega]
  rfl

theorem worked_loading_goes (hcfgp : s.straps.cfgp = true) (hgoes : s.loaderNext.finished = false) (h : PinsRead s.worked t) :
    t.phase = .loading ∧ t.params = s.params ∧ t.loader = s.loaderNext := by
  have hentered := State.entered_loadingMs hloading hx
  have hms : s.entered.Standing s.entered.msTick :=
    State.standing_msTick (by rw [show s.entered.phase = s.phase from rfl, hloading]; simp)
  have hnotOver : s.entered.msTick.loadingMs = s.entered.msTick := if_neg fun hover => by
    rw [hms.straps, hms.loader, hentered] at hover
    exact hover.2.elim (fun hlow => by rw [hcfgp] at hlow; cases hlow) (fun hfinished => by rw [hgoes] at hfinished; cases hfinished)
  have hstands := pinsRead_standing h
  rw [State.worked_loadingMs hloading hx, hnotOver] at hstands
  exact ⟨hstands.phase.trans (hms.phase.trans hloading), hstands.params.trans hms.params, hstands.loader.trans (hms.loader.trans (by rw [hentered]))⟩

theorem worked_loading_ends (hover : s.straps.cfgp = false ∨ s.loaderNext.finished = true) (h : PinsRead s.worked t) : ∃ v w y : State,
    v = { s with crystal := 0, loader := s.loaderNext, cadence := v.cadence, table := v.table, sched := v.sched, bus := v.bus, asm := v.asm,
                 lines := v.lines } ∧
    (s.cadence.slotTimer < 499 → s.cadence.zcTimer ≠ 59 → v = { s with crystal := 0, loader := s.loaderNext, cadence := v.cadence }) ∧
    exec (.endOfLoading (if s.loaderNext.image.length = 48 then .image s.loaderNext.image else .silent)) v = .next w ∧
    PinsRead w y ∧ t = { y with cadence := t.cadence } := by
  have hentered := State.entered_loadingMs hloading hx
  obtain ⟨hframe, hquiet⟩ := State.msTick_loading (s := s.entered) hloading
  have hms : s.entered.Standing s.entered.msTick :=
    State.standing_msTick (by rw [show s.entered.phase = s.phase from rfl, hloading]; simp)
  have hloader : s.entered.msTick.loader = s.loaderNext := hms.loader.trans (by rw [hentered])
  have hover' : s.entered.msTick.phase = .loading ∧ (s.entered.msTick.straps.cfgp = false ∨ s.entered.msTick.loader.finished = true) :=
    ⟨hms.phase.trans hloading, by rw [hms.straps, hloader]; exact hover⟩
  have hends : s.worked = s.entered.msTick.run
      (.endOfLoading (if s.loaderNext.image.length = 48 then .image s.loaderNext.image else .silent)) := by
    rw [State.worked_loadingMs hloading hx, ← hloader]
    exact if_pos hover'
  refine ⟨s.entered.msTick, s.worked, t, ?_, fun hslot hcross => ?_, ?_, h, rfl⟩
  · refine hframe.trans ?_
    rw [hentered]
  · refine (hquiet (by rw [hentered]; exact hslot) (by rw [hentered]; exact hcross)).trans ?_
    rw [hentered]
  · rw [hends]; exact State.exec_run _ _

end Millisecond

/-! ### Running -/

section Running
variable (hrunning : s.phase = .running)
include hrunning

theorem worked_reads (h : PinsRead s.worked t) :
    t.last = { sns := s.pins.sns, cym := s.pins.cym, zcm := s.pins.zcm } ∧ t.tonePhase = (s.tonePhase + 1) % tonePeriod s.params.tone := by
  have hstands := pinsRead_standing h
  obtain ⟨-, -, -, -, -, -, -, hworked⟩ := State.worked_running hrunning
  rw [State.entered_running hrunning] at hworked
  refine ⟨hstands.last.trans ?_, hstands.tonePhase.trans hworked.tonePhase⟩
  show ({ sns := s.worked.pins.sns, cym := s.worked.pins.cym, zcm := s.worked.pins.zcm } : LastRead) = _
  rw [hworked.pins]

/-- What the clocks of a part that works are after a crystal period. -/
theorem worked_clocks (h : PinsRead s.worked t) (hpins : s.worked.pins = s.pins) (hlast : s.worked.last = s.last)
    (hcadence : s.worked.cadence = if (s.crystal + 1) % 4096 = 0 then s.entered.msTick.cadence else WindowPassed s) :
    ((s.crystal + 1) % 4096 ≠ 0 → s.pins.cym = false ∨ s.last.cym = true → s.pins.zcm = false ∨ s.last.zcm = true → t.cadence = WindowPassed s) ∧
    ((s.crystal + 1) % 4096 = 0 → s.pins.cym = false ∨ s.last.cym = true →
      (s.cadence.slotTimer < 499 → t.cadence.slot = s.cadence.slot ∧ t.cadence.slotTimer = s.cadence.slotTimer + 1) ∧
      (499 ≤ s.cadence.slotTimer → t.cadence.slot = s.cadence.slot + 1 ∧ t.cadence.slotTimer = 0)) ∧
    ((s.crystal + 1) % 4096 = 0 → s.pins.zcm = false ∨ s.last.zcm = true →
      (s.cadence.zcTimer < 59 → t.cadence.zcTimer = s.cadence.zcTimer + 1 ∧ t.cadence.zcLost = s.cadence.zcLost) ∧
      (s.cadence.zcTimer = 59 → t.cadence.zcTimer = 60 ∧ t.cadence.zcLost = true) ∧
      (60 ≤ s.cadence.zcTimer → t.cadence.zcTimer = s.cadence.zcTimer ∧ t.cadence.zcLost = s.cadence.zcLost)) := by
  have hheld := State.notHeld hrunning
  have hworkedHeld : s.worked.phase ≠ .held := (State.worked_kept hheld).2.2.2.2.2.1
  rw [← hpins, ← hlast]
  refine ⟨fun hx hmarker hcross => ?_, fun hx hmarker => ?_, fun hx hcross => ?_⟩
  · rw [pinsRead_unclocked h hmarker hcross, hcadence, if_neg hx]
  · have hentered : s.entered.cadence = s.cadence := windowPassed_open fun hcloses => by have := hcloses.1; omega
    have hstill := (pinsRead_unmarked h (notEdge_iff.2 hmarker)).1
    rw [hcadence, if_pos hx] at hstill
    have hslot := State.msTick_slot (s := s.entered) hheld
    rw [hentered] at hslot
    rw [hstill]
    exact hslot
  · have hentered : s.entered.cadence = s.cadence := windowPassed_open fun hcloses => by have := hcloses.1; omega
    have hstill := pinsRead_uncrossed h hworkedHeld hcross
    rw [hcadence, if_pos hx] at hstill
    have hzc := State.msTick_zc (s := s.entered) hheld
    rw [hentered] at hzc
    rw [hstill.1, hstill.2]
    exact hzc

/-- In a millisecond in which nothing else falls due the lines' timers move on. -/
theorem worked_timers (hx : (s.crystal + 1) % 4096 = 0) (honly : OnlyTimersRun s) :
    LinesTimed ((List.finRange 8).filter fun n => s.inUse n)
      { s with crystal := 0, tonePhase := (s.tonePhase + 1) % tonePeriod s.params.tone } s.entered.timed ∧
    s.worked = { s.entered.timed with cadence := s.worked.cadence, sense := s.worked.sense, bus := s.worked.bus } := by
  obtain ⟨hslot, hcross, hwindow, ⟨hrx, hbyte, hbusHeld, hattempt, hidle, hnb⟩, -, -⟩ := honly
  have hentered : s.entered = { s with crystal := 0, tonePhase := (s.tonePhase + 1) % tonePeriod s.params.tone } := by
    rw [State.entered_running hrunning, hx, windowPassed_open fun hcloses => by have := hcloses.1; omega]
  have htimed := s.entered.timersKept_timed
  have hcadence : s.entered.timed.cadence = s.cadence := htimed.cadence.trans (by rw [hentered])
  have hsense : s.entered.timed.sense = s.sense := htimed.sense.trans (by rw [hentered])
  have hbus : s.entered.timed.bus = s.bus := htimed.bus.trans (by rw [hentered])
  have hphase : s.entered.timed.phase = .running := htimed.phase.trans hrunning
  have hpins : s.entered.timed.pins = s.pins := htimed.pins.trans (by rw [hentered])
  constructor
  · have hlines := State.linesMs_timed (allLines.filter s.entered.inUse) s.entered
    have hrun : s.entered.timed = (allLines.filter s.entered.inUse).foldl State.lineMs s.entered := if_pos (by simp [State.running, hentered, hrunning])
    rw [hrun, ← hentered]
    exact hlines
  · have hms : ∃ c : Cadence, s.entered.msTick = s.entered.timed.setCadence c := by
      rw [State.msTick_eq, State.slotMs_within (by rw [hcadence]; exact hslot) (State.notHeld hphase),
        State.zcMs_within (by show s.entered.timed.cadence.zcTimer ≠ 59; rw [hcadence]; exact hcross)]
      exact ⟨_, rfl⟩
    obtain ⟨c, hc⟩ := hms
    have htick := (State.senseTick_clocks (s := s.entered.timed.setCadence c) hphase).2.1 (by
      show s.entered.timed.sense.windowTimer + 1 < lengthOf s.entered.timed.sense.dither
      rw [hsense]; exact hwindow)
    obtain ⟨m, e, hm, he, hw, -⟩ := State.worked_running hrunning
    rw [if_pos hx, hc] at hm
    rw [if_pos (by omega), hm, htick] at he
    have hquiet : QuietBus e := by
      rw [he]
      show QuietBus { s.entered.timed with cadence := c, sense := _ }
      unfold QuietBus
      simp only [hbus, hpins]
      exact ⟨hrx, hbyte, hbusHeld, hattempt, hidle, hnb⟩
    rw [if_pos (by omega), State.busSample_quiet (by rw [he]; exact hphase) hquiet, he] at hw
    rw [hw]
    rfl

end Running

end Sys2Proof.Machine
end

section
/-! SUPPORT. A step on an empty queue is one crystal period: O2. -/

namespace Sys2Proof.Machine

open Sys2Proof.Claims

variable {s t : State}

/-- Pins without an edge on CYM or ZCM: the lines' counters alone move on. -/
theorem pinsRead_counted (h : PinsRead s t) (hrunning : s.phase = .running) (hmarker : s.pins.cym = false ∨ s.last.cym = true)
    (hcross : s.pins.zcm = false ∨ s.last.zcm = true) :
    t = { s with last := t.last, lines := t.lines } ∧ ∀ n : Line,
      let edge := s.inUse n = true ∧ s.pins.sns.getLsbD n.val = true ∧ s.last.sns.getLsbD n.val = false
      (edge → t.line n = { s.line n with sense := { (s.line n).sense with counter := min 4095 ((s.line n).sense.counter + 1) } }) ∧
      (¬ edge → t.line n = s.line n) := by
  obtain ⟨m, u, v, hm, hlines, -, hunmarked, -, huncrossed, rfl⟩ := h
  have hu := hunmarked hmarker
  have hv := huncrossed hcross
  subst hv hu
  have hserves : ∀ n, s.serves n = s.inUse n := fun n => by simp [State.serves, State.running, hrunning]
  refine ⟨?_, fun n => ?_⟩
  · rw [hm]
  · have hn := hlines n
    rw [hserves] at hn
    exact hn

/-- A crystal period in which only the lines' timers run. -/
theorem step_timers (hqueue : s.pending = []) (hrst : s.pins.rst = false) (hrunning : s.phase = .running) (hx : (s.crystal + 1) % 4096 = 0)
    (honly : OnlyTimersRun s) :
    ∃ m t : State, step s = .next t ∧
      LinesTimed ((List.finRange 8).filter fun n => s.inUse n)
        { s with crystal := 0, tonePhase := (s.tonePhase + 1) % tonePeriod s.params.tone } m ∧
      t = { m with cadence := t.cadence, sense := t.sense, bus := t.bus, last := t.last, lines := t.lines } ∧
      ∀ n : Line,
        let edge := s.inUse n = true ∧ s.pins.sns.getLsbD n.val = true ∧ s.last.sns.getLsbD n.val = false
        (edge → t.line n = { m.line n with sense := { (m.line n).sense with counter := min 4095 ((m.line n).sense.counter + 1) } }) ∧
        (¬ edge → t.line n = m.line n) := by
  have hheld := State.notHeld hrunning
  obtain ⟨hlines, hframe⟩ := worked_timers hrunning hx honly
  obtain ⟨-, -, -, -, hmarker, hcross⟩ := honly
  obtain ⟨hpins, hlast, -⟩ := State.worked_kept hheld
  obtain ⟨-, -, -, -, -, -, -, hstands⟩ := State.worked_running hrunning
  have hline : ∀ n, s.worked.line n = s.entered.timed.line n := fun n => by rw [hframe]; rfl
  have hinUse : ∀ n, s.worked.inUse n = s.inUse n := fun n => by
    unfold State.inUse State.lineCount
    rw [hstands.straps]
    rfl
  obtain ⟨ht, hcounted⟩ := pinsRead_counted s.worked.readPins_read (hstands.phase.trans hrunning) (by rw [hpins, hlast]; exact hmarker)
    (by rw [hpins, hlast]; exact hcross)
  refine ⟨s.entered.timed, s.worked.readPins, step_crystal hqueue hrst hheld, hlines, ?_, fun n => ?_⟩
  · generalize s.worked.readPins = t at ht ⊢
    rw [ht, hframe]
  · have hn := hcounted n
    rw [hinUse, hpins, hlast, hline] at hn
    exact hn

/-- Settles O2: the queue is empty, so the step is a crystal period, held, loading or running. -/
theorem idleStepIsOneCrystalPeriod : Obligations.IdleStepIsOneCrystalPeriod := by
  refine ⟨fun s hqueue => ?_, fun s hqueue hrst hrunning hx honly => step_timers hqueue hrst hrunning hx honly,
    fun l d hposition hshift himage hunanswered hfinished =>
      have hl : l.Fresh := ⟨hposition, hshift, himage, hunanswered, hfinished⟩
      ⟨transferred_whole hl, fun k hk hhigh => transferred_silent hl hk hhigh⟩⟩
  have hstep : step s = .next s.tick := by unfold step; rw [hqueue]
  by_cases hrst : s.pins.rst = true
  · obtain ⟨hphase, hpins, horder, hpending⟩ := State.tick_held hrst
    refine ⟨s.tick, hstep, hpending.trans hqueue, hpins, horder, fun h => ?_, fun _ => hphase, fun h => ?_, fun h => ?_, fun h => ?_, fun h => ?_⟩
    all_goals rw [hrst] at h; cases h
  · have hrst : s.pins.rst = false := by simpa using hrst
    have hasserted : s.pins.rst ≠ true := by rw [hrst]; simp
    by_cases hheld : s.phase = .held
    · obtain ⟨hphase, hstraps, hpins, horder, hpending⟩ := State.tick_released hrst hheld
      refine ⟨s.tick, hstep, hpending.trans hqueue, hpins, horder, fun _ h => absurd hheld h, fun h => absurd h hasserted, fun _ _ => ⟨hphase, hstraps⟩,
        fun _ h => ?_, fun _ h => ?_, fun _ h => ?_⟩
      all_goals rw [hheld] at h; cases h
    · obtain ⟨hpins, hlast, horder, hpending, hcrystal, -, hcadence⟩ := State.worked_kept hheld
      have hread := s.worked.readPins_read
      have hstands := pinsRead_standing hread
      refine ⟨_, step_crystal hqueue hrst hheld, hstands.pending.trans (hpending.trans hqueue), hstands.pins.trans hpins, hstands.order.trans horder,
        fun _ _ => hstands.crystal.trans hcrystal, fun h => absurd h hasserted, fun _ h => absurd h hheld,
        fun _ hloading hx => worked_loading_between hloading hx hread,
        fun _ hloading hx => ⟨fun hcfgp hgoes => worked_loading_goes hloading hx hcfgp hgoes hread, fun hover => worked_loading_ends hloading hx hover hread⟩,
        fun _ hrunning => ?_⟩
      obtain ⟨hlevels, htone⟩ := worked_reads hrunning hread
      obtain ⟨hclock, hslot, hzc⟩ := worked_clocks hrunning hread hpins hlast hcadence
      obtain ⟨hstill, hshort, hlong⟩ := State.worked_sense hrunning
      have hsense : s.worked.readPins.sense = s.worked.sense := pinsRead_sense hread (State.worked_kept hheld).2.2.2.2.2.1
      have hbus : s.pins.cym = false ∨ s.last.cym = true → s.worked.readPins.bus = s.worked.bus := fun hmarker =>
        (pinsRead_unmarked hread (by rw [hpins, hlast]; exact notEdge_iff.2 hmarker)).2.1
      refine ⟨hlevels, htone, fun h512 => ?_, fun h512 => hsense.trans (hstill h512), fun h512 h => hsense.trans (hshort h512 h),
        fun h512 h => hsense.trans (hlong h512 h), hclock, hslot, hzc, fun h8 hmarker => (hbus hmarker).trans (State.worked_bus hrunning h8),
        fun h8 hx hmarker hquiet => (hbus hmarker).trans (State.worked_quiet hrunning h8 hx hquiet)⟩
      rw [← State.entered_running hrunning, ← State.worked_between hrunning h512]
      exact hread

end Sys2Proof.Machine
end

section
/-! SUPPORT. A byte on the wire, sample by sample: O53. -/

namespace Sys2Proof.Machine

open Sys2Proof.Claims

variable {s t : State} {w : Nat → Bool} {x : Byte}

/-! ### The majority of a bit's samples -/

/-- Dominant samples counted for the bit under way, after sample `m` of a byte. -/
def votesAt (w : Nat → Bool) : Nat → Nat
  | 0 => 0
  | m + 1 =>
    if (m + 1) % 16 = 7 then (w (m + 1)).toNat else if (m + 1) % 16 = 8 ∨ (m + 1) % 16 = 9 then votesAt w m + (w (m + 1)).toNat else votesAt w m

/-- Data bits read, after sample `m` of a byte. -/
def shiftAt (w : Nat → Bool) : Nat → Byte
  | 0 => 0#8
  | m + 1 =>
    if (m + 1) % 16 = 9 ∧ 16 ≤ m + 1 ∧ (m + 1) / 16 ≤ 8 then (shiftAt w m <<< 1) ||| (BitVec.ofBool (decide (votesAt w (m + 1) < 2))).setWidth 8
    else shiftAt w m

theorem votesAt_bit (w : Nat → Bool) (b : Nat) :
    votesAt w (16 * b + 9) = (w (16 * b + 7)).toNat + (w (16 * b + 8)).toNat + (w (16 * b + 9)).toNat := by
  have h9 : votesAt w (16 * b + 8 + 1) = votesAt w (16 * b + 8) + (w (16 * b + 8 + 1)).toNat := by
    rw [votesAt, if_neg (by omega), if_pos (by omega)]
  have h8 : votesAt w (16 * b + 7 + 1) = votesAt w (16 * b + 7) + (w (16 * b + 7 + 1)).toNat := by
    rw [votesAt, if_neg (by omega), if_pos (by omega)]
  have h7 : votesAt w (16 * b + 6 + 1) = (w (16 * b + 6 + 1)).toNat := by
    rw [votesAt, if_pos (by omega)]
  rw [show 16 * b + 9 = 16 * b + 8 + 1 from rfl, h9, show 16 * b + 8 = 16 * b + 7 + 1 from rfl, h8, show 16 * b + 7 = 16 * b + 6 + 1 from rfl, h7]

theorem bitRecessive_iff (w : Nat → Bool) (b : Nat) : BitRecessive w b ↔ votesAt w (16 * b + 9) < 2 := by
  rw [votesAt_bit]; rfl

theorem shiftAt_still {m : Nat} (h : ¬ (m % 16 = 9 ∧ 16 ≤ m ∧ m / 16 ≤ 8)) (hm : m ≠ 0) : shiftAt w m = shiftAt w (m - 1) := by
  obtain ⟨k, rfl⟩ := Nat.exists_eq_succ_of_ne_zero hm
  rw [Nat.succ_eq_add_one, shiftAt, if_neg h]
  rfl

/-- Between two readings the data bits stand. -/
theorem shiftAt_between {b : Nat} (i : Nat) (hi : i < 16) : shiftAt w (16 * b + 9 + i) = shiftAt w (16 * b + 9) := by
  induction i with
  | zero => rfl
  | succ i ih => rw [shiftAt_still (by omega) (by omega)]; exact ih (by omega)

theorem shiftAt_early {m : Nat} (hm : m < 25) : shiftAt w m = 0#8 := by
  induction m with
  | zero => rfl
  | succ m ih => rw [shiftAt_still (by omega) (by omega)]; exact ih (by omega)

/-- After the reading of data bit `b` the byte's first `b` bits are there. -/
theorem shiftAt_bit (hx : SpellsByte w x) {b : Nat} (hb : b ≤ 8) : shiftAt w (16 * b + 9) = x >>> (8 - b) := by
  induction b with
  | zero =>
    rw [shiftAt_early (by omega)]
    exact (BitVec.ushiftRight_eq_zero (by decide)).symm
  | succ b ih =>
    have hbit : decide (votesAt w (16 * (b + 1) + 9) < 2) = x.getLsbD (7 - b) := by
      have := hx b (by omega)
      rw [bitRecessive_iff] at this
      cases hbit : x.getLsbD (7 - b) <;> simp_all
    rw [show 16 * (b + 1) + 9 = 16 * b + 9 + 15 + 1 by omega, shiftAt, if_pos (by omega), shiftAt_between 15 (by omega), ih (by omega),
      show 16 * b + 9 + 15 + 1 = 16 * (b + 1) + 9 by omega, hbit, shiftIn x ⟨b, by omega⟩]

/-! ### One sample -/

theorem State.receiveSample_taking {b : ByteInProgress} (hheld : s.bus.busHeld = false) (hrx : s.bus.rx = .idle ∨ s.bus.rx = .receiving)
    (hbyte : s.bus.byte = some b) (d : Bool) : s.receiveSample d = s.sampleByte b d := by
  unfold State.receiveSample
  rcases hrx with hrx | hrx <;> simp [hheld, hrx, hbyte]

theorem State.receiveSample_watching (hheld : s.bus.busHeld = false) (hrx : s.bus.rx = .idle ∨ s.bus.rx = .receiving)
    (hbyte : s.bus.byte = none) (d : Bool) : s.receiveSample d = s.watchEdge d := by
  unfold State.receiveSample
  rcases hrx with hrx | hrx <;> simp [hheld, hrx, hbyte]

theorem State.receiveSample_waiting (h : s.bus.busHeld = true ∨ s.bus.rx = .waiting ∨ s.bus.rx = .discarding) (d : Bool) :
    s.receiveSample d = s.awaitIdle d := by
  unfold State.receiveSample
  rcases h with h | h | h <;> simp [h]

/-- The byte under way after its sample `m`, with the idle counter that stood before its edge. -/
def byteAt (w : Nat → Bool) (i j m : Nat) : ByteInProgress := ⟨m, votesAt w m, shiftAt w m, i, j⟩

/-- The byte at its next sample, before a data bit is shifted in. -/
def byteNext (w : Nat → Bool) (i j m : Nat) : ByteInProgress := ⟨m + 1, votesAt w (m + 1), shiftAt w m, i, j⟩

theorem byteNext_still {i j m : Nat} (h : ¬ ((m + 1) % 16 = 9 ∧ 16 ≤ m + 1 ∧ (m + 1) / 16 ≤ 8)) : byteNext w i j m = byteAt w i j (m + 1) := by
  unfold byteNext byteAt
  rw [shiftAt_still h (by omega)]
  rfl

theorem State.sampleByte_byteAt (s : State) (i j m : Nat) :
    s.sampleByte (byteAt w i j m) (w (m + 1)) =
      if m + 1 = 8 then s.testStartBit (byteNext w i j m) (w (m + 1))
      else if m + 1 = 159 then s.setBus { s.bus with byte := none, idle := 0, idleSamples := 0 }
      else if (m + 1) % 16 = 9 ∧ 16 ≤ m + 1 then
        if (m + 1) / 16 ≤ 8 then
          s.takeDataBit { byteNext w i j m with shift := (shiftAt w m <<< 1) ||| (BitVec.ofBool (decide (votesAt w (m + 1) < 2))).setWidth 8 }
            ((m + 1) / 16) (decide (votesAt w (m + 1) < 2))
        else s.takeStopBit (byteNext w i j m) (decide (votesAt w (m + 1) < 2))
      else s.setBus { s.bus with byte := some (byteNext w i j m) } := rfl

/-- `s` with this bus, and the byte on the wire after its sample `m`. -/
def State.midByte (s : State) (r : Bus) (w : Nat → Bool) (i j m : Nat) : State := s.setBus { r with byte := some (byteAt w i j m) }

section Sample
variable {r : Bus} {i j m : Nat} (hheld : r.busHeld = false) (hrx : r.rx = .idle ∨ r.rx = .receiving)
include hheld hrx

theorem State.midByte_sample (s : State) (d : Bool) : (s.midByte r w i j m).receiveSample d = (s.midByte r w i j m).sampleByte (byteAt w i j m) d :=
  State.receiveSample_taking hheld hrx rfl d

/-- A sample at which nothing is read. -/
theorem State.midByte_plain (s : State) (h8 : m ≠ 7) (h159 : m ≠ 158) (hread : ¬ ((m + 1) % 16 = 9 ∧ 16 ≤ m + 1)) :
    (s.midByte r w i j m).receiveSample (w (m + 1)) = s.midByte r w i j (m + 1) := by
  rw [State.midByte_sample hheld hrx, State.sampleByte_byteAt, if_neg (by omega), if_neg (by omega), if_neg hread, byteNext_still (by omega)]
  rfl

/-- A run of such samples. -/
theorem State.midByte_run (s : State) (k : Nat) (h : ∀ n, n < k → m + n ≠ 7 ∧ m + n ≠ 158 ∧ ¬ ((m + n + 1) % 16 = 9 ∧ 16 ≤ m + n + 1))
    {t : State} (hs : sampled w t (m + 1) = s.midByte r w i j m) : sampled w t (m + k + 1) = s.midByte r w i j (m + k) := by
  induction k with
  | zero => exact hs
  | succ k ih =>
    obtain ⟨h8, h159, hread⟩ := h k (by omega)
    have hbefore := ih fun n hn => h n (by omega)
    show (sampled w t (m + k + 1)).receiveSample (w (m + k + 1)) = _
    rw [hbefore, State.midByte_plain hheld hrx s h8 h159 hread]
    rfl

/-- The sample at which the start bit is tested. -/
theorem State.midByte_start (s : State) :
    (s.midByte r w i j 7).receiveSample (w 8) = (s.midByte r w i j 7).testStartBit (byteAt w i j 8) (w 8) := by
  rw [State.midByte_sample hheld hrx, State.sampleByte_byteAt, if_pos rfl, byteNext_still (by omega)]

/-- The sample that completes the reading of a data bit that is as sent, or of a notice heard. -/
theorem State.midByte_data (s : State) {b : Nat} (h1 : 1 ≤ b) (h8 : b ≤ 8) (hm : m = 16 * b + 8)
    (hsent : ∀ sent, (s.midByte r w i j (m + 1)).sentRecessive b = some sent → sent = decide (votesAt w (m + 1) < 2)) :
    (s.midByte r w i j m).receiveSample (w (m + 1)) = s.midByte r w i j (m + 1) := by
  have hbit : (m + 1) / 16 = b := by omega
  have hshift : ({ byteNext w i j m with shift := (shiftAt w m <<< 1) ||| (BitVec.ofBool (decide (votesAt w (m + 1) < 2))).setWidth 8 } : ByteInProgress) =
      byteAt w i j (m + 1) := by
    unfold byteNext byteAt
    rw [shiftAt, if_pos (by omega)]
  have htaken : ∀ d, (s.midByte r w i j m).takeDataBit (byteAt w i j (m + 1)) b d = match (s.midByte r w i j m).sentRecessive b with
      | some sent => if sent = d then s.midByte r w i j (m + 1) else (s.midByte r w i j (m + 1)).mismatch sent
      | none => s.midByte r w i j (m + 1) := fun d => rfl
  rw [State.midByte_sample hheld hrx, State.sampleByte_byteAt, if_neg (by omega), if_neg (by omega), if_pos (by omega), hbit, if_pos h8, hshift, htaken]
  cases hs : (s.midByte r w i j m).sentRecessive b with
  | none => rfl
  | some sent => exact if_pos (hsent sent hs)

/-- The sample that completes the reading of the stop bit. -/
theorem State.midByte_stop (s : State) :
    (s.midByte r w i j 152).receiveSample (w 153) = (s.midByte r w i j 152).takeStopBit (byteAt w i j 153) (decide (votesAt w 153 < 2)) := by
  rw [State.midByte_sample hheld hrx, State.sampleByte_byteAt, if_neg (by omega), if_neg (by omega), if_pos (by omega), if_neg (by omega),
    byteNext_still (by omega)]

/-- The last sample of a byte. -/
theorem State.midByte_last (s : State) :
    (s.midByte r w i j 158).receiveSample (w 159) = s.setBus { r with byte := none, idle := 0, idleSamples := 0 } := by
  rw [State.midByte_sample hheld hrx, State.sampleByte_byteAt, if_neg (by omega), if_pos rfl]
  rfl

/-- The eight data bits of a byte read as sent, or heard. -/
theorem State.midByte_bits (s : State) {t : State} (hs : sampled w t 9 = s.midByte r w i j 8)
    (hsent : ∀ b m, 1 ≤ b → b ≤ 8 → m = 16 * b + 8 →
      ∀ sent, (s.midByte r w i j (m + 1)).sentRecessive b = some sent → sent = decide (votesAt w (m + 1) < 2)) :
    sampled w t 153 = s.midByte r w i j 152 := by
  have hbit : ∀ b, b ≤ 8 → sampled w t (16 * b + 8 + 1) = s.midByte r w i j (16 * b + 8) := by
    intro b hb
    induction b with
    | zero => exact hs
    | succ b ih =>
      have hbefore : sampled w t (16 * b + 9 + 1) = s.midByte r w i j (16 * b + 9) := by
        show (sampled w t (16 * b + 8 + 1)).receiveSample (w (16 * b + 8 + 1)) = _
        rw [ih (by omega)]
        by_cases h0 : b = 0
        · subst h0
          exact State.midByte_plain hheld hrx s (by omega) (by omega) (by omega)
        · exact State.midByte_data hheld hrx s (b := b) (by omega) (by omega) rfl (hsent b _ (by omega) (by omega) rfl)
      exact State.midByte_run (m := 16 * b + 9) hheld hrx s 15 (fun n hn => by omega) hbefore
  have h8 := hbit 8 (Nat.le_refl 8)
  have hlast : sampled w t (137 + 1) = s.midByte r w i j 137 := by
    show (sampled w t (16 * 8 + 8 + 1)).receiveSample (w (16 * 8 + 8 + 1)) = _
    rw [h8]
    exact State.midByte_data hheld hrx s (b := 8) (by omega) (by omega) rfl (hsent 8 _ (by omega) (by omega) rfl)
  exact State.midByte_run hheld hrx s 15 (fun n hn => by omega) hlast

end Sample

end Sys2Proof.Machine
end

section
/-! SUPPORT. A whole byte from its start edge on: O53. -/

namespace Sys2Proof.Machine

open Sys2Proof.Claims

variable {s t : State} {w : Nat → Bool} {x : Byte}

/-- The bus after a start edge, beside the byte that has begun. -/
def Bus.edged (b : Bus) : Bus := { b with idle := 0, idleSamples := 0, ownLast := false }

/-- A byte can begin: no hold, no byte under way, the receiver IDLE or RECEIVING, and no own notice sent to its end. -/
structure State.Watching (s : State) : Prop where
  held : s.bus.busHeld = false
  rx : s.bus.rx = .idle ∨ s.bus.rx = .receiving
  byte : s.bus.byte = none
  attempt : ∀ a, s.bus.attempt = some a → s.bus.buffer.length < a.bytes.length

theorem State.watchEdge_edge (h : s.Watching) : s.watchEdge true = s.setBus s.bus.takeEdge := by
  unfold State.watchEdge
  rw [if_pos rfl]
  cases ha : s.bus.attempt with
  | none => rfl
  | some a => exact if_neg (Nat.not_le.2 (h.attempt a ha))

/-- The start edge begins a byte. -/
theorem State.sampled_edge (h : s.Watching) (hw : w 0 = true) : sampled w s 1 = s.midByte s.bus.edged w s.bus.idle s.bus.idleSamples 0 := by
  show s.receiveSample (w 0) = _
  rw [hw, State.receiveSample_watching h.held h.rx h.byte, State.watchEdge_edge h]
  rfl

/-- The start bit is tested at its sample 8. -/
theorem State.sampled_start (h : s.Watching) (hw : w 0 = true) :
    sampled w s 9 = (s.midByte s.bus.edged w s.bus.idle s.bus.idleSamples 7).testStartBit (byteAt w s.bus.idle s.bus.idleSamples 8) (w 8) := by
  have h8 : sampled w s (7 + 1) = s.midByte s.bus.edged w s.bus.idle s.bus.idleSamples 7 :=
    State.midByte_run (m := 0) (r := s.bus.edged) h.held h.rx s 7 (fun n hn => by omega) (State.sampled_edge h hw)
  show (sampled w s (7 + 1)).receiveSample (w 8) = _
  rw [h8]
  exact State.midByte_start (r := s.bus.edged) h.held h.rx s

/-- A false start sets the idle counter back (R131, log 9). -/
theorem State.sampled_false (h : s.Watching) (hw : w 0 = true) (hidle : s.bus.rx = .idle) (hattempt : s.bus.attempt = none) (h8 : w 8 = false) :
    sampled w s 9 = s.setBus { s.bus with ownLast := false } := by
  have hset : (s.midByte s.bus.edged w s.bus.idle s.bus.idleSamples 7).testStartBit (byteAt w s.bus.idle s.bus.idleSamples 8) false =
      s.setBus { s.bus with byte := none, ownLast := false } := by
    unfold State.testStartBit
    rw [if_neg (by show ¬ s.bus.attempt.isSome = true; rw [hattempt]; simp), show (s.midByte s.bus.edged w s.bus.idle s.bus.idleSamples 7).bus.rx = .idle from hidle]
    rfl
  rw [State.sampled_start h hw, h8, hset, ← h.byte]

/-- The state in which a framing error leaves the receiver (R142). -/
def State.discarded (s : State) : State :=
  s.setBus { s.bus with
    rx := .discarding, buffer := [], ownLast := false, idle := s.bus.recessive / 16, idleSamples := s.bus.recessive % 16
    errors := min 15 (s.bus.errors + 1) }

theorem State.midByte_framingError {r : Bus} {i j m : Nat} (hrunning : s.phase = .running) (h : s.Watching) (hr : r = s.bus.edged) (hrx : s.bus.rx = .receiving)
    (hattempt : s.bus.attempt = none) : (s.midByte r w i j m).run .receiveFramingError = s.discarded := by
  subst hr
  have hreceives : (s.midByte s.bus.edged w i j m).receives = true := State.receives_iff.2 ⟨hrunning, hrx, hattempt, h.held⟩
  refine (if_pos hreceives).trans ?_
  show _ = s.setBus { s.bus with
    rx := .discarding, buffer := [], byte := s.bus.byte, ownLast := false, idle := s.bus.recessive / 16, idleSamples := s.bus.recessive % 16
    errors := min 15 (s.bus.errors + 1) }
  rw [h.byte]
  rfl

/-- A notice's byte with a false start bit, or the sixteenth, discards the notice. -/
theorem State.sampled_framing (h : s.Watching) (hw : w 0 = true) (hrunning : s.phase = .running) (hrx : s.bus.rx = .receiving)
    (hattempt : s.bus.attempt = none) (hbad : w 8 = false ∨ 15 ≤ s.bus.buffer.length) : sampled w s 9 = s.discarded := by
  have herror : (s.midByte s.bus.edged w s.bus.idle s.bus.idleSamples 7).testStartBit (byteAt w s.bus.idle s.bus.idleSamples 8) (w 8) =
      (s.midByte s.bus.edged w s.bus.idle s.bus.idleSamples 7).run .receiveFramingError := by
    unfold State.testStartBit
    rw [if_neg (by show ¬ s.bus.attempt.isSome = true; rw [hattempt]; simp), show (s.midByte s.bus.edged w s.bus.idle s.bus.idleSamples 7).bus.rx = .receiving from hrx]
    by_cases hdominant : w 8 = true
    · exact (if_pos hdominant).trans (if_pos (hbad.resolve_left (by rw [hdominant]; simp)))
    · exact if_neg hdominant
  rw [State.sampled_start h hw, herror, State.midByte_framingError hrunning h rfl hrx hattempt]

/-- The bus once a start bit has been taken: a notice has begun, or goes on. -/
def Bus.started (b : Bus) : Bus := { b.edged with rx := .receiving, buffer := if b.rx = .idle then [] else b.buffer }

theorem State.sampled_started (h : s.Watching) (hw : w 0 = true) (h8 : w 8 = true) (hidle : s.bus.rx = .idle → s.bus.attempt = none)
    (hroom : s.bus.rx = .receiving → s.bus.buffer.length < 15) :
    sampled w s 9 = s.midByte s.bus.started w s.bus.idle s.bus.idleSamples 8 := by
  rw [State.sampled_start h hw, h8]
  rcases h.rx with hrx | hrx
  · have hstarted : s.bus.started = { s.bus.edged with rx := .receiving, buffer := [] } := by unfold Bus.started; rw [if_pos hrx]
    unfold State.testStartBit
    rw [if_neg (by show ¬ s.bus.attempt.isSome = true; rw [hidle hrx]; simp), show (s.midByte s.bus.edged w s.bus.idle s.bus.idleSamples 7).bus.rx = .idle from hrx,
      hstarted]
    rfl
  · have hstarted : s.bus.started = s.bus.edged := by
      unfold Bus.started
      rw [if_neg (by rw [hrx]; simp), ← hrx]
      rfl
    rw [hstarted]
    unfold State.testStartBit
    split
    · rfl
    · rw [show (s.midByte s.bus.edged w s.bus.idle s.bus.idleSamples 7).bus.rx = .receiving from hrx]
      exact if_neg (Nat.not_le.2 (hroom hrx))

/-- What is sent at a data bit is what the byte spelled has there. -/
theorem sent_spelled (hx : SpellsByte w x) {b m : Nat} (h1 : 1 ≤ b) (h8 : b ≤ 8) (hm : m = 16 * b + 8) : (!wireDominant x b) = decide (votesAt w (m + 1) < 2) := by
  have hbit := hx (b - 1) (by omega)
  rw [show b - 1 + 1 = b by omega, show 7 - (b - 1) = 8 - b by omega, bitRecessive_iff] at hbit
  unfold wireDominant
  rw [if_neg (by omega), if_pos h8, Bool.not_not, show m + 1 = 16 * b + 9 by omega]
  cases hx' : x.getLsbD (8 - b) <;> simp_all

section Byte
variable (h : s.Watching) (hw : w 0 = true) (h8 : w 8 = true) (hx : SpellsByte w x) (hidle : s.bus.rx = .idle → s.bus.attempt = none)
  (hroom : s.bus.rx = .receiving → s.bus.buffer.length < 15)
  (hsent : ∀ a, s.bus.attempt = some a → a.bytes[s.bus.started.buffer.length]? = some x)
include h hw h8 hx hidle hroom hsent

theorem State.sampled_bits : sampled w s 153 = s.midByte s.bus.started w s.bus.idle s.bus.idleSamples 152 := by
  refine State.midByte_bits (r := s.bus.started) h.held (.inr rfl) s (State.sampled_started h hw h8 hidle hroom) fun b m h1 hb hm sent hs => ?_
  have hread : (s.midByte s.bus.started w s.bus.idle s.bus.idleSamples (m + 1)).sentRecessive b = match s.bus.attempt with
      | some a => (a.bytes[s.bus.started.buffer.length]?).map fun y => !wireDominant y b
      | none => none := rfl
  rw [hread] at hs
  cases ha : s.bus.attempt with
  | none => rw [ha] at hs; cases hs
  | some a =>
    rw [ha] at hs
    dsimp only at hs
    rw [hsent a ha] at hs
    cases hs
    exact sent_spelled hx h1 hb hm

theorem State.sampled_stop :
    sampled w s 154 = (s.midByte s.bus.started w s.bus.idle s.bus.idleSamples 152).takeStopBit (byteAt w s.bus.idle s.bus.idleSamples 153)
      (decide (votesAt w 153 < 2)) := by
  show (sampled w s 153).receiveSample (w 153) = _
  rw [State.sampled_bits h hw h8 hx hidle hroom hsent]
  exact State.midByte_stop (r := s.bus.started) h.held (.inr rfl) s

/-- The byte enters the buffer with its stop bit, and is over a bit time later. -/
theorem State.sampled_byte (hstop : StopBitRecessive w) :
    sampled w s 160 = s.setBus { s.bus with
      rx := .receiving, buffer := s.bus.started.buffer ++ [x], ownLast := false, idle := 0, idleSamples := 0 } := by
  have hvotes : decide (votesAt w 153 < 2) = true := by simpa using (bitRecessive_iff w 9).1 hstop
  have hshift : shiftAt w 152 = x := by
    rw [show (152 : Nat) = 16 * 8 + 9 + 15 from rfl, shiftAt_between 15 (by omega), shiftAt_bit hx (Nat.le_refl 8)]
    exact BitVec.ushiftRight_zero x
  have hlength : s.bus.started.buffer.length < 15 := by
    unfold Bus.started
    rcases h.rx with hrx | hrx
    · rw [if_pos hrx]; exact Nat.zero_lt_succ _
    · rw [if_neg (by rw [hrx]; simp)]; exact hroom hrx
  have htaken : sampled w s (153 + 1) = s.midByte { s.bus.started with buffer := s.bus.started.buffer ++ [x] } w s.bus.idle s.bus.idleSamples 153 := by
    have hsame : shiftAt w 153 = shiftAt w 152 := shiftAt_still (by omega) (by omega)
    rw [State.sampled_stop h hw h8 hx hidle hroom hsent, hvotes]
    unfold State.takeStopBit State.takeByte
    rw [if_pos rfl, show (byteAt w s.bus.idle s.bus.idleSamples 153).shift = x from hsame.trans hshift]
    rw [show (s.midByte s.bus.started w s.bus.idle s.bus.idleSamples 152).bus.buffer = s.bus.started.buffer from rfl,
      show (if s.bus.started.buffer.length < bufferSize then s.bus.started.buffer ++ [x] else s.bus.started.buffer) = s.bus.started.buffer ++ [x] from
        if_pos hlength]
    rfl
  have hend : sampled w s (158 + 1) = s.midByte { s.bus.started with buffer := s.bus.started.buffer ++ [x] } w s.bus.idle s.bus.idleSamples 158 :=
    State.midByte_run (m := 153) (r := { s.bus.started with buffer := s.bus.started.buffer ++ [x] }) h.held (.inr rfl) s 5 (fun n hn => by omega) htaken
  show (sampled w s (158 + 1)).receiveSample (w 159) = _
  rw [hend, State.midByte_last (r := { s.bus.started with buffer := s.bus.started.buffer ++ [x] }) h.held (.inr rfl) s, ← h.byte]
  rfl

/-- A stop bit read dominant discards a notice heard. -/
theorem State.sampled_cut (hstop : ¬ StopBitRecessive w) (hrunning : s.phase = .running) (hrx : s.bus.rx = .receiving) (hattempt : s.bus.attempt = none) :
    sampled w s 154 = s.discarded := by
  have hvotes : decide (votesAt w 153 < 2) = false := by simpa using fun hv => hstop ((bitRecessive_iff w 9).2 hv)
  have hstarted : s.bus.started = s.bus.edged := by
    unfold Bus.started
    rw [if_neg (by rw [hrx]; simp), ← hrx]
    rfl
  rw [State.sampled_stop h hw h8 hx hidle hroom hsent, hvotes]
  unfold State.takeStopBit
  rw [if_neg (by simp), if_neg (by show ¬ s.bus.attempt.isSome = true; rw [hattempt]; simp)]
  exact State.midByte_framingError hrunning h hstarted hrx hattempt

end Byte

end Sys2Proof.Machine
end

section
/-! SUPPORT. Start edges and bus samples: O53. -/

namespace Sys2Proof.Machine

open Sys2Proof.Claims

variable {s t : State} {b : Byte} {a : Attempt}

/-! ### START_EDGE -/

/-- The bit in which a byte read first differs from the byte sent. -/
theorem lostBit_eq {sent read : Byte} {k : Fin 8} (hk : sent.getLsbD k.val ≠ read.getLsbD k.val)
    (habove : ∀ j : Fin 8, k < j → sent.getLsbD j.val = read.getLsbD j.val) : lostBit sent read = sent.getLsbD k.val := by
  have hfirst : (List.range 8).find? (fun i => (sent ^^^ read).getLsbD (7 - i)) = some (7 - k.val) := by
    rw [List.find?_range_eq_some]
    refine ⟨?_, by simp; omega, fun j hj => ?_⟩
    · rw [show 7 - (7 - k.val) = k.val by omega, BitVec.getLsbD_xor]
      cases h1 : sent.getLsbD k.val <;> cases h2 : read.getLsbD k.val <;> simp_all
    · rw [BitVec.getLsbD_xor, habove ⟨7 - j, by omega⟩ (by show k.val < 7 - j; omega)]
      simp
  have hbit : (sent ^^^ read).getLsbD k.val = true := by
    rw [BitVec.getLsbD_xor]
    cases h1 : sent.getLsbD k.val <;> cases h2 : read.getLsbD k.val <;> simp_all
  unfold lostBit
  dsimp only
  rw [List.find?_map]
  simp only [Function.comp_def]
  rw [hfirst, Option.map_some, show 7 - (7 - k.val) = k.val by omega, hbit]
  cases sent.getLsbD k.val <;> rfl

section Edge
variable (hrunning : s.phase = .running) (hheld : s.bus.busHeld = false) (hbyte : s.bus.byte = none)
include hrunning hheld hbyte

theorem exec_startEdge_idle (hrx : s.bus.rx = .idle) (d : Bool) :
    exec (.startEdge d b) s = .next (if d = true then s.edgeTaken.beginNotice.takeByte b else s.edgeTaken) := by
  refine congrArg Host.Outcome.next ((if_pos (by simp [State.running, hrunning, hheld, hbyte])).trans ?_)
  rw [hrx]

theorem exec_startEdge_receiving (hrx : s.bus.rx = .receiving) (d : Bool) : exec (.startEdge d b) s = .next (s.edgeTaken.edgeInNotice d b) := by
  refine congrArg Host.Outcome.next ((if_pos (by simp [State.running, hrunning, hheld, hbyte])).trans ?_)
  rw [hrx]

/-- Within the own attempt the byte is read back. -/
theorem exec_startEdge_attempt (hrx : s.bus.rx = .receiving) (ha : s.bus.attempt = some a) (d : Bool) :
    exec (.startEdge d b) s = .next (if d = true then s.edgeTaken.readBack a b else s.edgeTaken.clashAttempt) := by
  rw [exec_startEdge_receiving hrunning hheld hbyte hrx]
  unfold State.edgeInNotice
  rw [show s.edgeTaken.bus.attempt = some a from ha]

omit hheld hbyte in
theorem exec_clash_edge : exec .clash s.edgeTaken = .next s.edgeTaken.clashAttempt :=
  congrArg Host.Outcome.next (if_pos (by simp [State.running, State.edgeTaken, hrunning]))

end Edge

/-- A byte read other than sent. -/
theorem State.readBack_other {sent : Byte} (hsent : a.bytes[s.bus.buffer.length]? = some sent) (hne : sent ≠ b) :
    s.readBack a b = if s.bus.buffer = [] ∧ lostBit sent b = true then s.loseAttempt.takeByte b else s.clashAttempt := by
  unfold State.readBack
  rw [hsent]
  exact if_neg hne

/-- The loss of an arbitration byte ends the attempt as ARBITRATION_LOSS does. -/
theorem State.readBack_lost {sent : Byte} (hrunning : s.phase = .running) (hrx : s.bus.rx = .receiving) (ha : s.bus.attempt = some a)
    (hempty : s.bus.buffer = []) (hsent : a.bytes[0]? = some sent) (hne : sent ≠ b) (hlost : lostBit sent b = true) :
    ∃ t u : State, exec (.arbitrationLoss b) s = .next t ∧ s.edgeTaken.readBack a b = u ∧ u.bus.attempt = none ∧
      u.bus.rx = .receiving ∧ u.bus.buffer = [b] ∧ u.bus.clashes = s.bus.clashes ∧ u.lines = t.lines ∧ u.asm = t.asm ∧ u.sched = t.sched := by
  have hback : s.edgeTaken.readBack a b = s.edgeTaken.loseAttempt.takeByte b := by
    rw [State.readBack_other (s := s.edgeTaken) (sent := sent) (by rw [show s.edgeTaken.bus.buffer = [] from hempty]; exact hsent) hne]
    exact if_pos ⟨hempty, hlost⟩
  have hlose : s.edgeTaken.loseAttempt = (s.attemptFailed a.sent).setBus { s.edgeTaken.bus with attempt := none } := by
    unfold State.loseAttempt
    rw [show s.edgeTaken.bus.attempt = some a from ha]
    have hcommute := State.attemptFailed_setBus s s.edgeTaken.bus rfl a.sent
    rwa [show s.setBus s.edgeTaken.bus = s.edgeTaken from rfl] at hcommute
  have hloss : exec (.arbitrationLoss b) s = .next ((s.attemptFailed a.sent).setBus { (s.attemptFailed a.sent).bus with
      rx := .receiving, buffer := [b], byte := none, idle := 0, idleSamples := 0 }) := by
    refine congrArg Host.Outcome.next ?_
    rw [if_pos (by simp [State.running, hrunning, ha])]
    unfold State.loseAttempt
    rw [ha]
  rw [hlose] at hback
  generalize s.attemptFailed a.sent = f at hback hloss
  refine ⟨_, _, hloss, hback, ?_, ?_, ?_, ?_, ?_, ?_, ?_⟩
  · rfl
  · exact hrx
  · show (if s.bus.buffer.length < bufferSize then s.bus.buffer ++ [b] else s.bus.buffer) = [b]
    rw [hempty]; rfl
  all_goals rfl

/-! ### Bus samples -/

theorem State.idleEnough_iff : s.idleEnough = true ↔ (if s.bus.ownLast = true then 24 else 12) ≤ s.bus.idle := by
  unfold State.idleEnough
  rw [decide_eq_true_iff]

/-- Where no notice is present, ATTEMPT_START finds none to send and changes nothing. -/
theorem State.attemptStart_none (h : s.hasNotice = false) : s.run .attemptStart = s := by
  have hrow : s.chooseRow = none := by simpa [State.hasNotice] using h
  have hclaim : s.asm.releaseMask = 0#8 ∧ s.heldClaim = none := by
    unfold State.chooseRow at hrow
    split at hrow
    · cases hrow
    · rename_i hmask
      refine ⟨by simpa using hmask, ?_⟩
      split at hrow
      · cases hrow
      · assumption
  have hvalid : s.revalidate = s := State.revalidate_of_fits fun n o p htoken hn => by
    have hheld := hclaim.2
    unfold State.heldClaim at hheld
    rw [htoken] at hheld
    dsimp only at hheld
    rw [hn] at hheld
    cases hheld
  have hprepared : s.prepareNotice = s := by
    unfold State.prepareNotice
    rw [if_neg (by simp [hclaim.1]), hvalid]
    dsimp only
    rw [hrow]
  refine ite_keeps (P := fun t => t = s) (fun _ => ?_) fun _ => rfl
  rw [hprepared, hrow]

end Sys2Proof.Machine
end

section
/-! SUPPORT. Start edges and bus samples: O53. -/

namespace Sys2Proof.Machine

open Sys2Proof.Claims

variable {s t : State} {b : Byte}

/-! ### The bus sample begins with an attempt that is due -/

/-- What the start of an attempt, where one is due, leaves of `s`. -/
def State.attempted (s : State) : State := if s.mayAttempt && s.hasNotice && s.idleEnough then s.run .attemptStart else s

theorem State.attempted_due : (MayBegin s ∧ (if s.bus.ownLast = true then 24 else 12) ≤ s.bus.idle → s.attempted = s.run .attemptStart) ∧
    (¬ (MayBegin s ∧ (if s.bus.ownLast = true then 24 else 12) ≤ s.bus.idle) → s.attempted = s) := by
  unfold State.attempted
  rw [← State.mayAttempt_iff, ← State.idleEnough_iff]
  refine ⟨fun hdue => ?_, fun hnot => ?_⟩
  · rw [hdue.1, hdue.2]
    cases hnotice : s.hasNotice
    · rw [State.attemptStart_none hnotice]; rfl
    · rfl
  · refine if_neg fun h => hnot ?_
    simp only [Bool.and_eq_true] at h
    exact ⟨h.1.1, h.2⟩

theorem State.busSample_attempted (hrunning : s.phase = .running) : s.busSample =
    ((s.attempted.driveOn.countRecessive (s.pins.nbLow || s.attempted.drivesLow)).countDominant (s.pins.nbLow || s.attempted.drivesLow)).receiveSample
      (s.pins.nbLow || s.attempted.drivesLow) := by
  have hpins : s.attempted.pins = s.pins := by
    unfold State.attempted
    split
    · exact (s.standing_run _ (by simp) (by simp) (by simp)).pins
    · rfl
  rw [← hpins]
  exact if_pos (by simp [State.running, hrunning])

/-! ### A recessive sample outside a byte -/

/-- The bus with one more recessive sample counted. -/
theorem Bus.countIdle_eq (b : Bus) : b.countIdle = { b with
    idle := if b.idleSamples + 1 < 16 then b.idle else min 24 (b.idle + 1)
    idleSamples := if b.idleSamples + 1 < 16 then b.idleSamples + 1 else 0 } := by
  unfold Bus.countIdle
  by_cases h : b.idleSamples + 1 < 16
  · rw [if_pos h, if_pos h]; exact if_pos h
  · rw [if_neg h, if_neg h]; exact if_neg h

theorem State.watchEdge_recessive (s : State) :
    (s.bus.rx = .idle ∨ s.bus.countIdle.idle < 12 → s.watchEdge false = s.setBus s.bus.countIdle) ∧
    (s.bus.rx = .receiving → 12 ≤ s.bus.countIdle.idle →
      s.watchEdge false = (s.setBus s.bus.countIdle).run (if s.bus.attempt.isSome then .ownNoticeCompletion else decodeNotice s.bus.buffer)) := by
  have hkept : s.bus.countIdle.rx = s.bus.rx ∧ s.bus.countIdle.attempt = s.bus.attempt ∧ s.bus.countIdle.buffer = s.bus.buffer := by
    rw [Bus.countIdle_eq]; exact ⟨rfl, rfl, rfl⟩
  have hwatch : s.watchEdge false = if s.bus.countIdle.rx = .receiving ∧ 12 ≤ s.bus.countIdle.idle then
      (s.setBus s.bus.countIdle).run (if s.bus.countIdle.attempt.isSome then .ownNoticeCompletion else decodeNotice s.bus.countIdle.buffer)
      else s.setBus s.bus.countIdle := rfl
  rw [hwatch, hkept.1, hkept.2.1, hkept.2.2]
  refine ⟨fun h => if_neg fun hend => ?_, fun hrx hend => if_pos ⟨hrx, hend⟩⟩
  rcases h with h | h
  · rw [h] at hend; cases hend.1
  · omega

theorem State.awaitIdle_recessive (s : State) :
    (s.bus.countIdle.idle < 12 → s.awaitIdle false = s.setBus s.bus.countIdle) ∧
    (12 ≤ s.bus.countIdle.idle → s.awaitIdle false = (s.setBus s.bus.countIdle).run (if s.bus.busHeld then .busHeldClear else .receiverIdle)) := by
  have hkept : s.bus.countIdle.busHeld = s.bus.busHeld := by rw [Bus.countIdle_eq]
  have hwait : s.awaitIdle false = if 12 ≤ s.bus.countIdle.idle then
      (s.setBus s.bus.countIdle).run (if s.bus.countIdle.busHeld then .busHeldClear else .receiverIdle) else s.setBus s.bus.countIdle := rfl
  rw [hwait, hkept]
  exact ⟨fun h => if_neg (by omega), fun h => if_pos h⟩

/-- Samples outside a byte. -/
theorem receiveSample_between (s : State) :
    let v : State := { s with bus := { s.bus with
      idle := if s.bus.idleSamples + 1 < 16 then s.bus.idle else min 24 (s.bus.idle + 1)
      idleSamples := if s.bus.idleSamples + 1 < 16 then s.bus.idleSamples + 1 else 0 } }
    let taking : Prop := s.bus.busHeld = false ∧ (s.bus.rx = .idle ∨ s.bus.rx = .receiving) ∧ s.bus.byte = none
    let waits : Prop := s.bus.busHeld = true ∨ s.bus.rx = .waiting ∨ s.bus.rx = .discarding
    (taking → s.bus.rx = .idle ∨ v.bus.idle < 12 → s.receiveSample false = v) ∧
    (taking → s.bus.rx = .receiving → 12 ≤ v.bus.idle →
      (s.bus.attempt = none → exec (decodeNotice s.bus.buffer) v = .next (s.receiveSample false)) ∧
      (s.bus.attempt ≠ none → exec .ownNoticeCompletion v = .next (s.receiveSample false))) ∧
    (waits → v.bus.idle < 12 → s.receiveSample false = v) ∧
    (waits → 12 ≤ v.bus.idle →
      (s.bus.busHeld = false → exec .receiverIdle v = .next (s.receiveSample false)) ∧
      (s.bus.busHeld = true → exec .busHeldClear v = .next (s.receiveSample false))) ∧
    (waits → s.receiveSample true = { s with bus := { s.bus with idle := 0, idleSamples := 0 } }) ∧
    (∀ a : Attempt, taking → s.bus.rx = .receiving → s.bus.attempt = some a → a.bytes.length ≤ s.bus.buffer.length →
      s.receiveSample true = s.run .clash) := by
  dsimp only
  have hv : ({ s with bus := { s.bus with
      idle := if s.bus.idleSamples + 1 < 16 then s.bus.idle else min 24 (s.bus.idle + 1)
      idleSamples := if s.bus.idleSamples + 1 < 16 then s.bus.idleSamples + 1 else 0 } } : State) = s.setBus s.bus.countIdle := by
    rw [Bus.countIdle_eq]; rfl
  have hidle : (if s.bus.idleSamples + 1 < 16 then s.bus.idle else min 24 (s.bus.idle + 1)) = s.bus.countIdle.idle := by rw [Bus.countIdle_eq]
  obtain ⟨hcounted, hended⟩ := s.watchEdge_recessive
  obtain ⟨hwaited, hcleared⟩ := s.awaitIdle_recessive
  rw [hv, hidle]
  refine ⟨fun htaking hnot => ?_, fun htaking hrx hend => ⟨fun ha => ?_, fun ha => ?_⟩, fun hwaits hnot => ?_, fun hwaits hend => ⟨fun hheld => ?_, fun hheld => ?_⟩,
    fun hwaits => ?_, fun a htaking hrx ha hover => ?_⟩
  · rw [State.receiveSample_watching htaking.1 htaking.2.1 htaking.2.2, hcounted hnot]
  · rw [State.receiveSample_watching htaking.1 htaking.2.1 htaking.2.2, hended hrx hend, ha]; exact State.exec_run _ _
  · rw [State.receiveSample_watching htaking.1 htaking.2.1 htaking.2.2, hended hrx hend, if_pos (Option.isSome_iff_ne_none.2 ha)]; exact State.exec_run _ _
  · rw [State.receiveSample_waiting hwaits, hwaited hnot]
  · rw [State.receiveSample_waiting hwaits, hcleared hend, hheld]; exact State.exec_run _ _
  · rw [State.receiveSample_waiting hwaits, hcleared hend, hheld]; exact State.exec_run _ _
  · rw [State.receiveSample_waiting hwaits]; rfl
  · rw [State.receiveSample_watching htaking.1 htaking.2.1 htaking.2.2]
    unfold State.watchEdge
    rw [if_pos rfl, ha]
    exact if_pos hover

/-! ### O53 -/

/-- The framing error of a byte whose start edge has been taken. -/
theorem State.framingError_edge (s : State) : s.edgeTaken.framingError = s.setBus { s.bus with
    recessive := 0, ownLast := false, rx := .discarding, buffer := [], byte := none, idle := 0, idleSamples := 0
    errors := min 15 (s.bus.errors + 1) } := by
  have hzero : (0 : Nat) / samplesPerBit = 0 ∧ (0 : Nat) % samplesPerBit = 0 := ⟨Nat.zero_div _, Nat.zero_mod _⟩
  have hdiscard : s.edgeTaken.framingError = s.setBus { s.bus with
    recessive := 0, ownLast := false, rx := .discarding, buffer := [], byte := none, idle := 0 / samplesPerBit, idleSamples := 0 % samplesPerBit
    errors := min errorTallyMax (s.bus.errors + 1) } := rfl
  rw [hdiscard, hzero.1, hzero.2]
  rfl

/-- A byte of a notice heard: a false start bit or a sixteenth byte is an error (R142). -/
theorem State.edgeInNotice_heard (hno : s.bus.attempt = none) (d : Bool) : s.edgeTaken.edgeInNotice d b =
    if d = false ∨ 15 ≤ s.bus.buffer.length then s.edgeTaken.framingError else s.edgeTaken.takeByte b := by
  have hedge : s.edgeTaken.edgeInNotice d b = if d = false then s.edgeTaken.framingError
      else if 15 ≤ s.bus.buffer.length then s.edgeTaken.framingError else s.edgeTaken.takeByte b := by
    unfold State.edgeInNotice
    rw [show s.edgeTaken.bus.attempt = none from hno]
    rfl
  rw [hedge]
  by_cases hd : d = false
  · rw [if_pos hd, if_pos (.inl hd)]
  · rw [if_neg hd]
    exact if_congr (by simp [hd]) rfl rfl

/-- A byte within the own attempt (R133, R134). -/
theorem startEdge_attempt {a : Attempt} (hrunning : s.phase = .running) (hheld : s.bus.busHeld = false) (hbyte : s.bus.byte = none)
    (hrx : s.bus.rx = .receiving) (ha : s.bus.attempt = some a) :
    (a.bytes[s.bus.buffer.length]? = some b → s.bus.buffer.length < 15 → exec (.startEdge true b) s = .next (s.setBus { s.bus with
      recessive := 0, ownLast := false, buffer := s.bus.buffer ++ [b], idle := 0, idleSamples := 0
      attempt := some { a with sample := 160 * (s.bus.buffer.length + 1) } })) ∧
    (∀ sent : Byte, s.bus.buffer = [] → a.bytes[0]? = some sent → sent ≠ b →
      (∃ k : Fin 8, sent.getLsbD k.val = true ∧ b.getLsbD k.val = false ∧ ∀ j : Fin 8, k < j → sent.getLsbD j.val = b.getLsbD j.val) →
      ∃ t u : State, exec (.arbitrationLoss b) s = .next t ∧ exec (.startEdge true b) s = .next u ∧ u.bus.attempt = none ∧
        u.bus.rx = .receiving ∧ u.bus.buffer = [b] ∧ u.bus.clashes = s.bus.clashes ∧ u.lines = t.lines ∧ u.asm = t.asm ∧ u.sched = t.sched) ∧
    (∀ sent : Byte, a.bytes[s.bus.buffer.length]? = some sent → sent ≠ b → s.bus.buffer ≠ [] →
      exec (.startEdge true b) s = exec .clash s.edgeTaken) ∧
    (∀ sent : Byte, s.bus.buffer = [] → a.bytes[0]? = some sent → sent ≠ b →
      (∃ k : Fin 8, sent.getLsbD k.val = false ∧ b.getLsbD k.val = true ∧ ∀ j : Fin 8, k < j → sent.getLsbD j.val = b.getLsbD j.val) →
      exec (.startEdge true b) s = exec .clash s.edgeTaken) ∧
    (a.bytes.length ≤ s.bus.buffer.length → exec (.startEdge true b) s = exec .clash s.edgeTaken) ∧
    exec (.startEdge false b) s = exec .clash s.edgeTaken := by
  have hedge : ∀ d, exec (.startEdge d b) s = .next (if d = true then s.edgeTaken.readBack a b else s.edgeTaken.clashAttempt) :=
    exec_startEdge_attempt hrunning hheld hbyte hrx ha
  have hread : exec (.startEdge true b) s = .next (s.edgeTaken.readBack a b) := hedge true
  have hclash : exec .clash s.edgeTaken = .next s.edgeTaken.clashAttempt := exec_clash_edge hrunning
  refine ⟨fun hsent hroom => ?_, fun sent hempty hsent hne ⟨k, hk1, hk2, habove⟩ => ?_, fun sent hsent hne hbuffer => ?_,
    fun sent hempty hsent hne ⟨k, hk1, hk2, habove⟩ => ?_, fun hover => ?_, ?_⟩
  · rw [hread]
    refine congrArg Host.Outcome.next ?_
    have hbuffer : (if s.bus.buffer.length < bufferSize then s.bus.buffer ++ [b] else s.bus.buffer) = s.bus.buffer ++ [b] := if_pos hroom
    unfold State.readBack
    rw [show s.edgeTaken.bus.buffer = s.bus.buffer from rfl, hsent]
    dsimp only
    rw [if_pos rfl]
    unfold State.byteSent State.takeByte
    rw [show s.edgeTaken.bus.buffer = s.bus.buffer from rfl, hbuffer]
    rfl
  · obtain ⟨t, u, ht, hu, h⟩ := State.readBack_lost hrunning hrx ha hempty hsent hne (by rw [lostBit_eq (by rw [hk1, hk2]; simp) habove, hk1])
    exact ⟨t, u, ht, hread.trans (congrArg _ hu), h⟩
  · rw [hread, hclash, State.readBack_other (s := s.edgeTaken) hsent hne]
    exact congrArg _ (if_neg fun h => hbuffer h.1)
  · rw [hread, hclash, State.readBack_other (s := s.edgeTaken) (sent := sent) (by rw [show s.edgeTaken.bus.buffer = [] from hempty]; exact hsent) hne]
    exact congrArg _ (if_neg fun h => by rw [lostBit_eq (by rw [hk1, hk2]; simp) habove, hk1] at h; cases h.2)
  · rw [hread, hclash]
    unfold State.readBack
    rw [show s.edgeTaken.bus.buffer = s.bus.buffer from rfl, List.getElem?_eq_none hover]
  · rw [hclash]; exact hedge false

/-- Settles O53. -/
theorem startEdgesTakeBytes : Obligations.StartEdgesTakeBytes := by
  refine ⟨fun s b hrunning hheld hbyte => ⟨fun hrx => ?_, fun hrx => ?_, fun hrx hno => ⟨?_, fun hroom => ?_, fun hfull => ?_⟩,
    fun a hrx ha => startEdge_attempt hrunning hheld hbyte hrx ha⟩,
    fun s hrunning => ⟨s.attempted, ⟨fun hdue => ?_, fun hnot => State.attempted_due.2 hnot⟩, State.busSample_attempted hrunning⟩,
    fun s _ => ?_, fun s w x hrunning hheld hbyte hw => ?_⟩
  · exact exec_startEdge_idle hrunning hheld hbyte hrx false
  · exact exec_startEdge_idle hrunning hheld hbyte hrx true
  · rw [exec_startEdge_receiving hrunning hheld hbyte hrx, State.edgeInNotice_heard hno, if_pos (.inl rfl), State.framingError_edge]
    rfl
  · have htaken : (if s.bus.buffer.length < bufferSize then s.bus.buffer ++ [b] else s.bus.buffer) = s.bus.buffer ++ [b] := if_pos hroom
    rw [exec_startEdge_receiving hrunning hheld hbyte hrx, State.edgeInNotice_heard hno, if_neg (by simp; omega)]
    unfold State.takeByte
    rw [show s.edgeTaken.bus.buffer = s.bus.buffer from rfl, htaken]
    rfl
  · rw [exec_startEdge_receiving hrunning hheld hbyte hrx, State.edgeInNotice_heard hno, if_pos (.inr hfull), State.framingError_edge]
    rfl
  · rw [State.attempted_due.1 hdue]; exact State.exec_run _ _
  · obtain ⟨h1, h2, h3, h4, h5, h6⟩ := receiveSample_between s
    exact ⟨h1, h2, h3, h4, h5, fun a htaking hrx ha hover => by rw [h6 a htaking hrx ha hover]; exact State.exec_run _ _⟩
  · have watching (hrx : s.bus.rx = .idle ∨ s.bus.rx = .receiving) (ha : ∀ a, s.bus.attempt = some a → s.bus.buffer.length < a.bytes.length) :
        s.Watching := ⟨hheld, hrx, hbyte, ha⟩
    have none_sent {p : Attempt → Prop} (hno : s.bus.attempt = none) : ∀ a, s.bus.attempt = some a → p a := fun a ha => by rw [hno] at ha; cases ha
    refine ⟨fun hrx hno h8 => State.sampled_false (watching (.inl hrx) (none_sent hno)) hw hrx hno h8,
      fun hrx hno hbad => State.sampled_framing (watching (.inr hrx) (none_sent hno)) hw hrunning hrx hno hbad,
      fun h8 hx => ⟨fun hno hrx hstop => ?_, fun hrx hroom => ⟨fun hstop hsent => ?_, fun hstop hno => ?_⟩⟩⟩
    · rw [State.sampled_byte (watching (.inl hrx) (none_sent hno)) hw h8 hx (fun _ => hno) (fun h => by rw [hrx] at h; cases h) (none_sent hno) hstop]
      have hempty : s.bus.started.buffer = [] := if_pos hrx
      rw [hempty]
      rfl
    · have hbuffer : s.bus.started.buffer = s.bus.buffer := if_neg (by rw [hrx]; simp)
      have hread : ∀ a, s.bus.attempt = some a → a.bytes[s.bus.buffer.length]? = some x := fun a ha => by
        rcases hsent with hno | ⟨a', ha', hx'⟩
        · rw [hno] at ha; cases ha
        · rw [ha] at ha'; cases ha'; exact hx'
      rw [State.sampled_byte (watching (.inr hrx) fun a ha => (List.getElem?_eq_some_iff.1 (hread a ha)).1) hw h8 hx (fun h => by rw [hrx] at h; cases h)
        (fun _ => hroom) (by rw [hbuffer]; exact hread) hstop, hbuffer, ← hrx]
      rfl
    · exact State.sampled_cut (watching (.inr hrx) (none_sent hno)) hw h8 hx (fun h => by rw [hrx] at h; cases h) (fun _ => hroom) (none_sent hno) hstop
        hrunning hrx hno

end Sys2Proof.Machine
end

section
/-! SUPPORT. What the work on one line at a window end leaves of another: O41, O43. -/

namespace Sys2Proof.Machine

open Sys2Proof.Claims

variable {s t u : State} {n m : Line}

/-! ### Reports of other lines -/

theorem eventsOf_append (n : Line) (q q' : List Report) : eventsOf n (q ++ q') = eventsOf n q ++ eventsOf n q' := List.flatMap_append

/-- Lines' events are told apart by entries other than DIGITS alone. -/
theorem eventsOf_entries (n : Line) (q : List Report) : eventsOf n (q.filter Report.isOther) = eventsOf n q := by
  induction q with
  | nil => rfl
  | cons r q ih =>
    rw [List.filter_cons]
    cases r with
    | digits k ds b => exact ih
    | event k e => exact congrArg (_ ++ ·) ih
    | state k b => exact ih
    | refusal b k r => exact ih

/-- What is told of an IDLE line, and its tone, stand, but that a WITHHELD tone may have become DIAL (R121). -/
structure State.Untold (n : Line) (s t : State) : Prop where
  lost : (t.line n).eventsLost = (s.line n).eventsLost
  digits : queuedDigits n t.asm.queue = queuedDigits n s.asm.queue
  events : eventsOf n t.asm.queue = eventsOf n s.asm.queue
  tone : (t.line n).tone = (s.line n).tone ∨
    (s.line n).tone.tone = some .withheld ∧ (t.line n).tone = { (s.line n).tone with tone := some .dial }

theorem State.Untold.trans (h : s.Untold n t) (g : t.Untold n u) : s.Untold n u where
  lost := g.lost.trans h.lost
  digits := g.digits.trans h.digits
  events := g.events.trans h.events
  tone := by
    rcases h.tone with ht | ⟨hw, ht⟩ <;> rcases g.tone with gt | ⟨gw, gt⟩
    · exact .inl (gt.trans ht)
    · exact .inr (by rw [ht] at gw gt; exact ⟨gw, gt⟩)
    · exact .inr ⟨hw, gt.trans ht⟩
    · rw [ht] at gw; cases gw

/-- What work on other lines leaves of line `n`: hook and sense records, its order; the relays of a line that did not ring; the queue has not shrunk, and of an
IDLE line nothing is told. -/
structure State.Apart (n : Line) (s t : State) : Prop where
  hook : (t.line n).hook = (s.line n).hook
  sense : (t.line n).sense = (s.line n).sense
  core : (t.line n).ring.core = (s.line n).ring.core
  rings : (s.line n).RingsOn (t.line n)
  length : s.asm.queue.length ≤ t.asm.queue.length
  untold : s.ring n = .idle → s.Untold n t

namespace State.Apart

theorem idle (h : s.Apart n t) : t.ring n = .idle ↔ s.ring n = .idle := by
  rw [← State.core_idle, ← State.core_idle]
  exact Eq.congr_left h.core

theorem trans (h : s.Apart n t) (g : t.Apart n u) : s.Apart n u where
  hook := g.hook.trans h.hook
  sense := g.sense.trans h.sense
  core := g.core.trans h.core
  rings := h.rings.trans g.rings
  length := h.length.trans g.length
  untold hidle := (h.untold hidle).trans (g.untold (h.idle.2 hidle))

/-- The line and the reports stand. -/
theorem still (hline : t.line n = s.line n) (hqueue : t.asm.queue = s.asm.queue := by rfl) : s.Apart n t where
  hook := by rw [hline]
  sense := by rw [hline]
  core := by rw [hline]
  rings := by rw [hline]; exact .refl _
  length := by rw [hqueue]
  untold _ := ⟨by rw [hline], by rw [hqueue], by rw [hqueue], .inl (by rw [hline])⟩

theorem refl (s : State) : s.Apart n s := still rfl

/-- Ring work alone has moved. -/
theorem ringWork (h : ViewChanged s t) (hrings : s.RingsOn t) (hqueue : t.asm.queue = s.asm.queue)
    (htold : ∀ m : Line, (t.line m).tone = (s.line m).tone ∧ (t.line m).eventsLost = (s.line m).eventsLost) : s.Apart n t where
  hook := (h.loops n).1
  sense := (h.loops n).2
  core := h.core n
  rings := hrings n
  length := by rw [hqueue]
  untold _ := ⟨(htold n).2, by rw [hqueue], by rw [hqueue], .inl (htold n).1⟩

theorem ite {c : Prop} [Decidable c] {u : State} (h : c → s.Apart n t) (g : ¬ c → s.Apart n u) : s.Apart n (if c then t else u) :=
  ite_keeps (P := s.Apart n) h g

theorem foldl {α : Type} {f : State → α → State} {ls : List α} (hf : ∀ (t : State) (a : α), a ∈ ls → t.Apart n (f t a)) (s : State) :
    s.Apart n (ls.foldl f s) := by
  induction ls generalizing s with
  | nil => exact .refl s
  | cons a ls ih => exact (hf s a (by simp)).trans (ih (fun t b hb => hf t b (by simp [hb])) _)

end State.Apart

/-! ### Reports -/

/-- An entry that is not of the line enters the queue. -/
theorem State.apart_pushReport (s : State) {r : Report} (hdigits : queuedDigits n [r] = []) (hevents : eventsOf n [r] = []) : s.Apart n (s.pushReport r) := by
  obtain ⟨hasm, -⟩ := s.pushReport_eq r
  have hqueue : (s.pushReport r).asm.queue = s.asm.queue ++ [r] := by rw [hasm]
  have htone : ((s.pushReport r).line n).tone = (s.line n).tone ∨
      (s.line n).tone.tone = some .withheld ∧ ((s.pushReport r).line n).tone = { (s.line n).tone with tone := some .dial } := by
    unfold State.pushReport
    rw [State.reconsiderWithheld_line]
    split
    · rename_i h; exact .inr ⟨h.2, rfl⟩
    · exact .inl rfl
  refine ⟨by simp, by simp, by simp, (State.RingsOn.still (by simp) (by simp) (by simp)) n, by rw [hqueue]; simp, fun _ => ⟨by simp, ?_, ?_, htone⟩⟩
  · rw [hqueue, queuedDigits_append, hdigits, List.append_nil]
  · rw [hqueue, eventsOf_append, hevents, List.append_nil]

theorem State.apart_onLine (s : State) (hm : m ≠ n) (f : LineState → LineState) : s.Apart n (s.onLine m f) := .still (State.line_onLine_ne s hm.symm f)

theorem State.apart_handEvent (s : State) (hm : m ≠ n) (e : Event) : s.Apart n (s.handEvent m e) := by
  unfold State.handEvent
  refine .ite (fun _ => .refl s) fun _ => .ite (fun _ => s.apart_onLine hm _) fun _ => s.apart_pushReport rfl ?_
  show (if m = n then [e] else []) ++ [] = []
  rw [if_neg hm]
  rfl

theorem State.handEvent_length (s : State) (m : Line) (e : Event) : s.asm.queue.length ≤ (s.handEvent m e).asm.queue.length := by
  unfold State.handEvent
  split
  · exact Nat.le_refl _
  · split
    · exact Nat.le_refl _
    · rw [(s.pushReport_eq _).1]; simp

/-- Digits leave the store one by one, into an entry that is there or into a new one. -/
theorem State.takeDigits_steps {R : State → State → Prop} (hrefl : ∀ s, R s s) (htrans : ∀ {s t u}, R s t → R t u → R s u) {mayMake : Bool} {m : Line}
    (happend : ∀ {s : State} {d : Digit} {before after ds b}, CanAppend s m before after ds b → R s (s.digitAppended m d before after ds b))
    (hentry : ∀ (s : State) (d : Digit), R s ((s.setLine m (DigitGone (s.line m))).pushReport (.digits m [d] (s.line m).hook.digitsLost))) (ds : List Digit) :
    ∀ s : State, (s.line m).hook.digits = ds → R s (s.takeDigits mayMake m) := by
  induction ds with
  | nil => exact fun s hdigits => by rw [State.takeDigits_empty hdigits]; exact hrefl s
  | cons d more ih =>
    intro s hdigits
    rw [State.takeDigits_cons hdigits]
    by_cases hcan : ∃ before after es b, CanAppend s m before after es b
    · obtain ⟨before, after, es, b, hcan⟩ := hcan
      have ht := State.takeDigit_append hcan mayMake d
      rw [ht]
      exact htrans (happend hcan) (ih _ (State.takeDigit_tail ht hdigits))
    · have hno : NoAppend s m := fun before after es b h => hcan ⟨before, after, es, b, h⟩
      by_cases hfull : mayMake = false ∨ 12 ≤ s.asm.queue.length
      · rw [State.takeDigit_stays hno hfull]
        exact hrefl s
      · have hmake : mayMake = true := by
          cases mayMake
          · exact absurd (.inl rfl) hfull
          · rfl
        subst hmake
        have ht := State.takeDigit_new hno (Nat.lt_of_not_le fun h => hfull (.inr h)) d
        rw [ht]
        exact htrans (hentry s d) (ih _ (State.takeDigit_tail ht hdigits))

theorem State.apart_takeDigits (s : State) (hm : m ≠ n) (mayMake : Bool) : s.Apart n (s.takeDigits mayMake m) := by
  refine State.takeDigits_steps (R := State.Apart n) .refl .trans (fun {s d before after ds b} hcan => ?_) (fun s d => ?_) _ s rfl
  · obtain ⟨hqueue, -⟩ := id hcan
    have hnew : (s.digitAppended m d before after ds b).asm.queue = before ++ .digits m (ds ++ [d]) (b || (s.line m).hook.digitsLost) :: after := rfl
    have hline : (s.digitAppended m d before after ds b).line n = s.line n := State.line_setLine_ne s hm.symm _
    refine ⟨by rw [hline], by rw [hline], by rw [hline], by rw [hline]; exact .refl _, by rw [hnew, hqueue]; simp,
      fun _ => ⟨by rw [hline], ?_, ?_, .inl (by rw [hline])⟩⟩
    · rw [hnew, hqueue]
      simp only [queuedDigits_append, queuedDigits_cons n _ after, queuedDigits_digits, if_neg hm]
    · rw [hnew, hqueue, ← eventsOf_entries, ← eventsOf_entries n (before ++ .digits m ds b :: after)]
      simp [List.filter_append, Report.isOther]
  · refine (s.apart_onLine (m := m) hm fun _ => DigitGone (s.line m)).trans (State.apart_pushReport _ ?_ rfl)
    rw [queuedDigits_digits, if_neg hm]

/-! ### Ring work -/

theorem State.apart_placementAttempt (s : State) : s.Apart n s.placementAttempt :=
  .ringWork (.placementAttempt s) s.ringsOn_placementAttempt (by simp) fun m => by simp

theorem State.apart_revalidate (s : State) : s.Apart n s.revalidate :=
  .ringWork (.revalidate s) s.ringsOn_revalidate (by simp) fun m => by simp

/-- Shedding tells of the line shed alone, which is not an IDLE one. -/
theorem State.apart_shedLine (s : State) (m : Line) : s.Apart n (s.shedLine m) := by
  by_cases hm : m = n
  · subst hm
    refine ⟨by simp, by simp, s.core_shedLine m m, s.ringsOn_shedLine m m, ?_, fun hidle => ?_⟩
    · unfold State.shedLine
      split
      · exact Nat.le_trans (Nat.le_of_eq (by simp)) (State.handEvent_length _ m .ringShed)
      all_goals exact Nat.le_refl _
    · unfold State.shedLine
      rw [hidle]
      exact (State.Apart.refl s).untold hidle
  · unfold State.shedLine
    split
    · refine State.Apart.trans ?_ (State.apart_handEvent _ hm .ringShed)
      refine .still ?_
      simp only [State.oweRelease_line, State.leaveCommits_line, State.setRing]
      rw [State.line_onLine_ne _ (Ne.symm hm), State.line_onLine_ne _ (Ne.symm hm)]
    all_goals exact .refl s

theorem State.apart_setTable (s : State) (b : LoadTable) : s.Apart n (s.setTable b) := .still rfl

theorem State.apart_recomputeOwn (s : State) : s.Apart n s.recomputeOwn := s.apart_setTable _

theorem State.apart_setToken (s : State) (k : Token) : s.Apart n (s.setToken k) := .still rfl

theorem State.apart_overloadCheck (s : State) : s.Apart n s.overloadCheck := by
  unfold State.overloadCheck
  refine .ite (fun _ => ?_) fun _ => .refl s
  split
  · exact .refl s
  · rename_i k rest _
    have hshed : s.Apart n ((k :: rest).foldl State.shedLine s) := .foldl (fun t m _ => t.apart_shedLine m) s
    exact (hshed.trans (State.apart_recomputeOwn _)).trans (State.apart_placementAttempt _)

theorem State.apart_ownLinesChanged (s : State) : s.Apart n s.ownLinesChanged := by
  have hview : ∀ (t : State) (b : Bool), t.Apart n (t.viewChange b) := fun t b => by
    unfold State.viewChange
    refine State.Apart.trans ?_ (State.apart_overloadCheck _)
    have hplaced : t.Apart n (t.setTable (t.table.recompute t.params.ring.budget)).placementAttempt :=
      (t.apart_setTable _).trans (State.apart_placementAttempt _)
    exact .ite (fun _ => hplaced.trans (State.apart_revalidate _)) fun _ => hplaced
  unfold State.ownLinesChanged
  exact .ite (fun _ => .refl s) fun _ => (s.apart_setTable _).trans (hview _ _)

theorem State.apart_endRingWork (s : State) (hm : m ≠ n) : s.Apart n (s.endRingWork m) := by
  have hset : ∀ (t : State) (r : RingRecord), t.Apart n (t.setRing m r) := fun t r => t.apart_onLine hm _
  have hended : s.Apart n ((s.setRing m .idle).leaveAccepted m) := (hset s .idle).trans (.still (s := s.setRing m .idle) rfl)
  unfold State.endRingWork
  split
  · exact .refl s
  · exact hended
  · unfold State.endClaim
    exact .ite (fun _ => hended.trans (State.apart_setToken _ _)) fun _ => (hended.trans (State.apart_setToken _ _)).trans (State.apart_placementAttempt _)
  · have hfreed := (s.apart_onLine hm (LineState.immediateFeed s.params.relay)).trans (hset _ .idle)
    have hout : ∀ t : State, t.Apart n (((t.leaveCommits m).leaveAccepted m).oweRelease m) := fun t => .still rfl
    exact (hfreed.trans (hout _)).trans (State.apart_ownLinesChanged _)

theorem State.apart_takeTrip (s : State) (hm : m ≠ n) : s.Apart n (s.takeTrip m) := by
  unfold State.takeTrip
  split
  · exact .refl s
  · exact ((s.apart_endRingWork hm).trans (State.apart_handEvent _ hm _)).trans (State.apart_onLine _ hm _)

end Sys2Proof.Machine
end

section
/-! SUPPORT. A property kept by what the work on one line at a window end is made of is kept by that work; what this leaves of another line: O41, O43. -/

namespace Sys2Proof.Machine

open Sys2Proof.Claims

variable {s t u : State} {n m : Line}

/-! ### The work on a line at a window end -/

/-- What the rules of a hook state may change of a line: neither its ring work nor its relays nor its raw states. -/
def HookWork (f : LineState → LineState) : Prop :=
  ∀ l : LineState, (f l).ring = l.ring ∧ (f l).relay = l.relay ∧ (f l).hook.raw = l.hook.raw

theorem HookWork.ofHook {f : HookRecord → HookRecord} (hf : ∀ h : HookRecord, (f h).raw = h.raw) : HookWork fun l => { l with hook := f l.hook } :=
  fun l => ⟨rfl, rfl, hf l.hook⟩

theorem HookWork.ofTone (f : ToneRecord → ToneRecord) : HookWork fun l => { l with tone := f l.tone } := fun _ => ⟨rfl, rfl, rfl⟩

theorem HookWork.storeDigit (d : Digit) : HookWork (LineState.storeDigit d) := fun l => by
  unfold LineState.storeDigit
  split <;> exact ⟨rfl, rfl, rfl⟩

/-- `P` is kept by what the rules of a hook state do to line `m`, a confirmed seizure apart: to its own record, its events and its digits. -/
structure State.KeptByPass (m : Line) (P : State → Prop) : Prop where
  onLine : ∀ {t : State} {f : LineState → LineState}, HookWork f → P t → P (t.onLine m f)
  event : ∀ {t : State} {e : Event}, P t → P (t.handEvent m e)
  digits : ∀ {t : State}, P t → P (t.takeDigits true m)

/-- Line `m` has taken its raw state and its time (R99, R100). -/
def State.advanced (s : State) (m : Line) (w : Nat) (x : Option Loop) : State := s.onHook m fun k => { k.advance w with raw := k.raw.enter x }

namespace State.KeptByPass

variable {P : State → Prop} (h : State.KeptByPass m P)
include h

theorem onHook {f : HookRecord → HookRecord} (ht : P t) (hf : ∀ h : HookRecord, (f h).raw = h.raw := by intro h; rfl) : P (t.onHook m f) :=
  h.onLine (.ofHook hf) ht

theorem onTone {f : ToneRecord → ToneRecord} (ht : P t) : P (t.onTone m f) := h.onLine (.ofTone f) ht

theorem completeTrain (ht : P t) : P (t.completeTrain m) :=
  ite_keeps (fun _ => h.digits (h.onLine (.storeDigit _) (h.onHook ht))) fun _ => h.event (h.onHook ht)

/-- A seizure confirmed on a line without ring work. -/
theorem confirmSeizure (hidle : t.ring m = .idle) (ht : P t) : P (t.confirmSeizure m) := by
  unfold State.confirmSeizure
  rw [hidle]
  simp only [RingRecord.isIdle, if_true]
  exact h.onTone (h.onHook (h.event (h.onHook ht)))

theorem testGlitchLimit (ht : P t) : P (t.testGlitchLimit m) := by
  unfold State.testGlitchLimit
  dsimp only
  split
  · exact ite_keeps (fun _ => h.onTone (h.onHook ht)) fun _ => ht
  · exact ht

theorem beginBreak (ht : P t) : P (t.beginBreak m) := h.testGlitchLimit (h.onHook ht)

theorem takeFlash (ht : P t) : P (t.takeFlash m) := by
  have htrain : P (if (t.line m).hook.inTrain = true then t.completeTrain m else t) := ite_keeps (fun _ => h.completeTrain ht) fun _ => ht
  unfold State.takeFlash
  dsimp only
  split
  · exact h.onTone (h.onHook (h.event (h.onTone htrain)))
  · exact h.onHook (h.event (h.onTone htrain))

theorem endBreak {d : Nat} (ht : P t) : P (t.endBreak m d) := by
  unfold State.endBreak
  refine h.onHook ?_
  split
  · exact h.onTone ht
  · exact h.onTone (h.onHook ht)
  · exact ite_keeps (fun _ => h.onTone (h.onHook ht)) fun _ => h.onTone ht
  · exact h.takeFlash ht

theorem declareClear (ht : P t) : P (t.declareClear m) := by
  unfold State.declareClear
  dsimp only
  split
  · exact h.onHook (h.event (h.onLine (fun _ => ⟨rfl, rfl, rfl⟩) ht))
  · exact h.event (h.onLine (fun _ => ⟨rfl, rfl, rfl⟩) ht)

/-- The supervisor's pass keeps it, where the confirmation of a seizure due does. -/
theorem superviseWindow {w : Nat} {x : Option Loop}
    (hconfirm : (t.line m).hook.state = .seizing → P (t.advanced m w x) → P ((t.advanced m w x).confirmSeizure m))
    (ht : (t.line m).hook.mode = .parked → P t) (hadvanced : (t.line m).hook.mode ≠ .parked → P (t.advanced m w x)) : P (t.superviseWindow m w x) := by
  have hstate : ((t.advanced m w x).line m).hook.state = (t.line m).hook.state := by
    unfold State.advanced State.onHook
    rw [State.line_onLine_same]
    rfl
  unfold State.advanced at hconfirm hadvanced hstate
  unfold State.superviseWindow
  refine ite_keeps (fun hm => ht hm) fun hm => ?_
  replace hadvanced := hadvanced hm
  dsimp only
  generalize (t.onHook m fun k => { k.advance w with raw := k.raw.enter x }) = a at hconfirm hadvanced hstate ⊢
  split
  · split
    · exact h.onHook hadvanced
    · exact hadvanced
  · rename_i hseizing
    split
    · exact h.onHook hadvanced
    · exact ite_keeps (fun _ => hconfirm (hstate.symm.trans hseizing) hadvanced) fun _ => hadvanced
  · have htrain : ∀ b : Bool, P (if b = true then a.completeTrain m else a) :=
      fun b => ite_keeps (fun _ => h.completeTrain hadvanced) fun _ => hadvanced
    unfold State.offHookWindow
    dsimp only
    split
    · exact h.beginBreak (htrain _)
    · exact htrain _
  · unfold State.breakWindow
    refine ite_keeps (fun _ => h.declareClear (h.testGlitchLimit hadvanced)) fun _ => ?_
    split
    · exact h.endBreak (h.testGlitchLimit hadvanced)
    · exact h.testGlitchLimit hadvanced

end State.KeptByPass

/-- `P` is kept by the raw states, the sense record and the trip of line `m` besides. -/
structure State.KeptByTrips (m : Line) (P : State → Prop) : Prop extends State.KeptByPass m P where
  advance : ∀ {t : State} {w : Nat} {x : Option Loop}, P t → P (t.advanced m w x)
  trip : ∀ {t : State}, P t → P (t.takeTrip m)

namespace State.KeptByTrips

variable {P : State → Prop} (h : State.KeptByTrips m P)
include h

theorem confirmSeizure (ht : P t) : P (t.confirmSeizure m) :=
  ite_keeps (fun _ => h.1.onTone (h.1.onHook (h.event (h.1.onHook ht)))) fun _ => h.trip (h.1.onHook ht)

theorem handTrip (ht : P t) : P (t.handTrip m) := h.trip (h.onLine (fun _ => ⟨rfl, rfl, rfl⟩) ht)

theorem turnLeak {b : Bool} (ht : P t) : P (t.turnLeak m b) := h.event (h.onLine (fun _ => ⟨rfl, rfl, rfl⟩) ht)

/-- The turn of line `m` at a window end keeps it, where the reading does. -/
theorem windowEndOf {w : Nat} (ht : P (t.setLine m ((t.line m).senseWindow t.params w))) : P (State.windowEndOf w t m) := by
  have hpassed := h.1.superviseWindow (w := w) (x := rawLoop t.params.threshold (t.line m).relay.windowClass (readingOf (t.line m).sense.counter w))
    (fun _ => h.confirmSeizure) (fun _ => ht) (fun _ => h.advance ht)
  unfold State.windowEndOf
  exact ite_keeps (fun _ => h.turnLeak (ite_keeps (fun _ => h.handTrip hpassed) fun _ => hpassed))
    fun _ => ite_keeps (fun _ => h.handTrip hpassed) fun _ => hpassed

end State.KeptByTrips

/-! ### Another line -/

theorem State.keptByTrips_apart (hm : m ≠ n) (s : State) : State.KeptByTrips m (s.Apart n) where
  onLine {t f} _ h := h.trans (t.apart_onLine hm f)
  event {t e} h := h.trans (t.apart_handEvent hm e)
  digits {t} h := h.trans (t.apart_takeDigits hm true)
  advance {t w x} h := h.trans (u := t.advanced m w x) (by unfold State.advanced; exact t.apart_onLine hm _)
  trip {t} h := h.trans (t.apart_takeTrip hm)

/-- Line `n` rings by the mask it rang by, or does not ring as it did not, its relays standing. -/
structure State.StaysAt (n : Line) (s t : State) : Prop where
  relay : (t.line n).relay = (s.line n).relay
  mask : RingRecord.ringingMask (t.ring n) = RingRecord.ringingMask (s.ring n)

namespace State.StaysAt

theorem trans (h : s.StaysAt n t) (g : t.StaysAt n u) : s.StaysAt n u := ⟨g.relay.trans h.relay, g.mask.trans h.mask⟩

theorem still (hrelay : (t.line n).relay = (s.line n).relay := by simp) (hring : (t.line n).ring = (s.line n).ring := by simp) : s.StaysAt n t :=
  ⟨hrelay, by unfold State.ring; rw [hring]⟩

theorem isRinging (h : s.StaysAt n t) : (t.ring n).isRinging = (s.ring n).isRinging := by
  rw [RingRecord.isRinging_iff_mask, RingRecord.isRinging_iff_mask, h.mask]

theorem placementAttempt (s : State) (n : Line) : s.StaysAt n s.placementAttempt := ⟨by simp, (RingingKept.placementAttempt s).2.2 n⟩

theorem onLine (s : State) (hm : m ≠ n) (f : LineState → LineState) : s.StaysAt n (s.onLine m f) := by
  have hline := State.line_onLine_ne s hm.symm f
  exact .still (by rw [hline]) (by rw [hline])

/-- With sound lists and view the end of another line's ring work sheds nothing. -/
theorem endRingWork (h : s.RingSound) (hm : m ≠ n) : s.StaysAt n (s.endRingWork m) := by
  have hidle : s.StaysAt n ((s.setRing m .idle).leaveAccepted m) :=
    (onLine s hm fun l => { l with ring := .idle }).trans (u := (s.setRing m .idle).leaveAccepted m) (.still rfl rfl)
  unfold State.endRingWork
  split
  · exact .still
  · exact hidle
  · unfold State.endClaim
    exact ite_keeps (P := s.StaysAt n) (fun _ => hidle.trans .still) fun _ => (hidle.trans .still).trans (placementAttempt _ n)
  · have hsilent : s.StaysAt n (s.silenced m) :=
      ((onLine s hm (LineState.immediateFeed s.params.relay)).trans (onLine _ hm fun l => { l with ring := .idle })).trans (u := s.silenced m) (.still rfl rfl)
    rcases h.releaseLine_quiet ‹_› with hquiet | hquiet
    · rw [hquiet]; exact hsilent
    · rw [hquiet]
      exact (hsilent.trans (u := (s.silenced m).recomputeOwn) .still).trans (placementAttempt _ n)

theorem takeTrip (h : s.RingSound) (hm : m ≠ n) : s.StaysAt n (s.takeTrip m) := by
  unfold State.takeTrip
  split
  · exact .still
  · exact ((endRingWork h hm).trans (u := (s.endRingWork m).handEvent m _) .still).trans (onLine _ hm _)

end State.StaysAt

/-- Lists, view and allowance are sound, and line `n` stays at its ring work and relays. -/
structure State.Quiet (n : Line) (s t : State) : Prop extends State.StaysAt n s t where
  sound : t.RingSound

theorem State.keptByTrips_quiet (hm : m ≠ n) (s : State) : State.KeptByTrips m (s.Quiet n) where
  onLine {t f} hf h := ⟨h.1.trans (.onLine t hm f), (State.RingSame.onLine_ring (hf _).1).sound h.sound⟩
  event {t e} h := ⟨h.1.trans .still, h.sound.handEvent m e⟩
  digits {t} h := ⟨h.1.trans .still, State.RingSame.sound .still h.sound⟩
  advance {t w x} h := by
    unfold State.advanced
    exact ⟨h.1.trans (.onLine t hm _), (State.RingSame.onLine_ring (f := fun l => { l with hook := { l.hook.advance w with raw := l.hook.raw.enter x } }) rfl).sound h.sound⟩
  trip {t} h := ⟨h.1.trans (.takeTrip h.sound hm), h.sound.takeTrip m⟩

theorem State.windowEndOf_apart (hm : m ≠ n) (h : s.Apart n t) (w : Nat) : s.Apart n (State.windowEndOf w t m) :=
  (State.keptByTrips_apart hm s).windowEndOf (h.trans (t.apart_onLine hm fun l => l.senseWindow t.params w))

theorem State.windowEndOf_quiet (hm : m ≠ n) (h : s.Quiet n t) (w : Nat) : s.Quiet n (State.windowEndOf w t m) :=
  (State.keptByTrips_quiet hm s).windowEndOf
    ⟨h.1.trans (.onLine t hm fun l => l.senseWindow t.params w), (State.RingSame.onLine_ring (f := fun l => l.senseWindow t.params w) rfl).sound h.sound⟩

end Sys2Proof.Machine
end

section
/-! SUPPORT. A window end takes its lines in turn: the turn of one line, and what the others leave of it before and after: O41, O43. -/

namespace Sys2Proof.Machine

open Sys2Proof.Claims

variable {s t u : State} {n m : Line}

/-! ### What no line's work touches -/

/-- Nothing but the window's clock, the lines, and the ring and assembly work has changed. -/
def State.LinesWorked (s t : State) : Prop := t = { s with sense := t.sense, lines := t.lines, sched := t.sched, table := t.table, asm := t.asm }

theorem State.LinesWorked.trans (h : s.LinesWorked t) (g : t.LinesWorked u) : s.LinesWorked u := by
  unfold State.LinesWorked at h g ⊢
  rw [h] at g
  exact g

theorem State.LinesWorked.refl (s : State) : s.LinesWorked s := rfl

theorem State.linesWorked_windowEndOf (s : State) (w : Nat) (n : Line) : s.LinesWorked (State.windowEndOf w s n) := by
  have h := s.windowEndOf_keeps w n
  unfold State.LinesWorked
  generalize State.windowEndOf w s n = t at h ⊢
  cases s
  cases t
  simp_all

theorem State.linesWorked_windowEnds (s : State) (w : Nat) (ls : List Line) : s.LinesWorked (ls.foldl (State.windowEndOf w) s) := by
  induction ls generalizing s with
  | nil => exact .refl s
  | cons n ls ih => exact (s.linesWorked_windowEndOf w n).trans (ih _)

/-! ### The lines in turn -/

/-- The next window begins (R83). -/
def State.windowBegun (s : State) : State := s.setSense { dither := s.sense.dither + 1, windowTimer := 0 }

theorem State.run_windowEnd (h : s.phase = .running) :
    s.run .windowEnd = (permute s.order.lines (allLines.filter s.inUse)).foldl (State.windowEndOf (lengthOf s.sense.dither)) s.windowBegun :=
  if_pos (by simp [State.running, h])

theorem State.windowEnds_kept {P : State → Prop} {w : Nat} {ls : List Line} (hP : ∀ m ∈ ls, ∀ t : State, P t → P (State.windowEndOf w t m)) {s : State}
    (h : P s) : P (ls.foldl (State.windowEndOf w) s) := by
  induction ls generalizing s with
  | nil => exact h
  | cons m ls ih => exact ih (fun k hk => hP k (by simp [hk])) (hP m (by simp) s h)

/-- Line `n` has its turn once; the lines before and after it are others. -/
theorem State.windowTurns (hn : s.inUse n = true) : ∃ before after : List Line, n ∉ before ∧ n ∉ after ∧
    permute s.order.lines (allLines.filter s.inUse) = before ++ n :: after := by
  have hperm := permute_perm s.order.lines (allLines.filter s.inUse)
  have hnodup : (permute s.order.lines (allLines.filter s.inUse)).Nodup := hperm.nodup_iff.2 ((List.nodup_finRange 8).filter _)
  have hmem : n ∈ permute s.order.lines (allLines.filter s.inUse) := hperm.mem_iff.2 (by simp [allLines, hn])
  obtain ⟨before, after, hsplit⟩ := List.append_of_mem hmem
  rw [hsplit] at hnodup
  have hcons := List.nodup_cons.1 (List.nodup_append.1 hnodup).2.1
  exact ⟨before, after, fun hb => (List.nodup_append.1 hnodup).2.2 n hb n (by simp) rfl, hcons.1, hsplit⟩

/-- `t` follows `s` by the window's end of lines other than `n`. -/
structure State.OthersTaken (n : Line) (s t : State) : Prop where
  frame : s.LinesWorked t
  sense : t.sense = s.sense
  apart : s.Apart n t
  quiet : s.RingSound → s.Quiet n t

theorem State.windowEnds_others {w : Nat} {ls : List Line} (h : n ∉ ls) (s : State) : s.OthersTaken n (ls.foldl (State.windowEndOf w) s) where
  frame := s.linesWorked_windowEnds w ls
  sense := by
    induction ls generalizing s with
    | nil => rfl
    | cons m ls ih => exact (ih (fun hn => h (by simp [hn])) _).trans (by simp)
  apart := State.windowEnds_kept (P := s.Apart n) (fun _ hm _ ht => State.windowEndOf_apart (ne_of_mem_of_not_mem hm h) ht w) (.refl s)
  quiet hs := State.windowEnds_kept (P := s.Quiet n) (fun _ hm _ ht => State.windowEndOf_quiet (ne_of_mem_of_not_mem hm h) ht w) ⟨.still, hs⟩

theorem State.windowEnd_turn (hs : s.phase = .running) (hn : s.inUse n = true) : ∃ u : State,
    s.windowBegun.OthersTaken n u ∧ (State.windowEndOf (lengthOf s.sense.dither) u n).OthersTaken n (s.run .windowEnd) := by
  obtain ⟨before, after, hbefore, hafter, hsplit⟩ := State.windowTurns hn
  refine ⟨before.foldl (State.windowEndOf (lengthOf s.sense.dither)) s.windowBegun, State.windowEnds_others hbefore _, ?_⟩
  rw [State.run_windowEnd hs, hsplit, List.foldl_append]
  exact State.windowEnds_others hafter _

/-- A line out of use has no turn. -/
theorem State.windowEnd_unused (hs : s.phase = .running) (hn : s.inUse n = false) : s.windowBegun.OthersTaken n (s.run .windowEnd) := by
  rw [State.run_windowEnd hs]
  refine State.windowEnds_others (fun h => ?_) _
  have hmem := (permute_perm _ _).mem_iff.1 h
  rw [List.mem_filter, hn] at hmem
  exact absurd hmem.2 (by simp)

theorem State.windowEnd_frame (hs : s.phase = .running) : s.run .windowEnd =
    { s with sense := { dither := s.sense.dither + 1, windowTimer := 0 }, lines := (s.run .windowEnd).lines, sched := (s.run .windowEnd).sched,
             table := (s.run .windowEnd).table, asm := (s.run .windowEnd).asm } := by
  have hsense := (s.windowEnd_clocks hs).2
  have hframe : s.windowBegun.LinesWorked (s.run .windowEnd) := by
    rw [State.run_windowEnd hs]; exact State.linesWorked_windowEnds _ _ _
  have hall : s.LinesWorked (s.run .windowEnd) := (show s.LinesWorked s.windowBegun from rfl).trans hframe
  unfold State.LinesWorked at hall
  rw [hsense] at hall
  exact hall

end Sys2Proof.Machine
end

section
/-! SUPPORT. A line's own turn at a window end: its sense record, its relays and the trip it takes: O41, O43. -/

namespace Sys2Proof.Machine

open Sys2Proof.Claims

variable {s t u : State} {n m : Line} {w : Nat}

/-! ### The parts of the turn -/

/-- Line `n` has entered its reading (R84 to R94). -/
def State.sensed (s : State) (n : Line) (w : Nat) : State := s.setLine n ((s.line n).senseWindow s.params w)

/-- The raw state of line `n` in the window ending (R87, R88). -/
def State.rawOf (s : State) (n : Line) (w : Nat) : Option Loop :=
  rawLoop s.params.threshold (s.line n).relay.windowClass (readingOf (s.line n).sense.counter w)

/-- The supervisor has passed over line `n` (R84). -/
def State.passed (s : State) (n : Line) (w : Nat) : State := (s.sensed n w).superviseWindow n w (s.rawOf n w)

/-- The trip run of line `n` reaches its count in the window ending (R74). -/
abbrev State.RunConfirmed (s : State) (n : Line) (w : Nat) : Prop :=
  (s.line n).relay.windowClass = .ring ∧ s.params.relay.tripConfirm ≤ ((s.line n).senseWindow s.params w).sense.tripRun

/-- The leak count of line `n` reaches its limit in the window ending (R93, R94). -/
abbrev State.LeakReached (s : State) (n : Line) (w : Nat) : Prop := 250 ≤ ((s.line n).senseWindow s.params w).sense.leakCount

/-- The trip due has been taken. -/
def State.tripped (s : State) (n : Line) (w : Nat) : State :=
  if s.RunConfirmed n w then (s.passed n w).handTrip n
  else s.passed n w

theorem State.windowEndOf_eq (s : State) (n : Line) (w : Nat) : State.windowEndOf w s n =
    if s.LeakReached n w then (s.tripped n w).turnLeak n (!(s.line n).sense.leakFlag) else s.tripped n w := rfl

theorem State.sensed_line (s : State) (n : Line) (w : Nat) : (s.sensed n w).line n = (s.line n).senseWindow s.params w := State.line_setLine_same s n _

/-! ### The sense record -/

theorem State.passed_sense (s : State) (n : Line) (w : Nat) : ((s.passed n w).line n).sense = ((s.line n).senseWindow s.params w).sense := by
  rw [← s.sensed_line n w]
  exact (s.sensed n w).superviseWindow_parts n w _ n

theorem State.tripped_sense (s : State) (n : Line) (w : Nat) : ((s.tripped n w).line n).sense =
    if s.RunConfirmed n w then { ((s.line n).senseWindow s.params w).sense with tripRun := 0 } else ((s.line n).senseWindow s.params w).sense := by
  unfold State.tripped
  split
  · rw [State.handTrip_sense, if_pos rfl, s.passed_sense]
  · exact s.passed_sense n w

theorem State.windowEndOf_sense (s : State) (n : Line) (w : Nat) : ((State.windowEndOf w s n).line n).sense =
    if s.LeakReached n w then { ((s.tripped n w).line n).sense with leakFlag := !(s.line n).sense.leakFlag, leakCount := 0 }
    else ((s.tripped n w).line n).sense := by
  rw [State.windowEndOf_eq]
  split
  · rw [State.turnLeak_sense, if_pos rfl]
  · rfl

/-! ### Relays and ring work -/

/-- Line `n` does not ring, and its relays are these. -/
structure State.SilentAt (n : Line) (r : RelayRecord) (t : State) : Prop where
  relay : (t.line n).relay = r
  silent : (t.ring n).isRinging = false

theorem State.SilentAt.on {r : RelayRecord} (h : State.SilentAt n r s) (g : s.RingsOn t) : State.SilentAt n r t :=
  ⟨((g n).quiet h.silent).trans h.relay, (g n).silent h.silent⟩

theorem State.SilentAt.onLine {r : RelayRecord} (h : State.SilentAt n r s) {f : LineState → LineState}
    (hf : ∀ l : LineState, (f l).ring = l.ring ∧ (f l).relay = l.relay) : State.SilentAt n r (s.onLine n f) := by
  refine ⟨?_, ?_⟩
  · rw [State.line_onLine_same, (hf _).2]; exact h.relay
  · unfold State.ring
    rw [State.line_onLine_same, (hf _).1]; exact h.silent

theorem State.SilentAt.handEvent {r : RelayRecord} (h : State.SilentAt n r s) (m : Line) (e : Event) : State.SilentAt n r (s.handEvent m e) := h.on .still

/-- The work on a line that does not ring moves no relay of it. -/
theorem State.keptByTrips_silent (n : Line) (r : RelayRecord) : State.KeptByTrips n (State.SilentAt n r) where
  onLine {t f} hf h := h.onLine fun l => ⟨(hf l).1, (hf l).2.1⟩
  advance {t w x} h := h.onLine (f := fun l => { l with hook := { l.hook.advance w with raw := l.hook.raw.enter x } }) fun _ => ⟨rfl, rfl⟩
  event {t e} h := h.handEvent n e
  digits {t} h := h.on .still
  trip {t} h := by
    unfold State.takeTrip
    split
    · exact h
    · exact ((h.on (t.ringsOn_endRingWork n)).handEvent n _).onLine fun _ => ⟨rfl, rfl⟩

theorem State.windowEndOf_silent (h : (s.ring n).isRinging = false) (w : Nat) :
    State.SilentAt n (s.line n).relay.afterWindow (State.windowEndOf w s n) := by
  refine (State.keptByTrips_silent n _).windowEndOf ⟨?_, ?_⟩
  · exact congrArg LineState.relay (s.sensed_line n w)
  · unfold State.ring
    rw [State.line_setLine_same]
    exact h

/-- Relays and ring state of line `n`. -/
structure State.StandsAt (n : Line) (r : RelayRecord) (k : RingRecord) (t : State) : Prop where
  relay : (t.line n).relay = r
  ring : t.ring n = k

theorem State.StandsAt.onLine {r : RelayRecord} {k : RingRecord} (h : State.StandsAt n r k s) {f : LineState → LineState}
    (hf : ∀ l : LineState, (f l).ring = l.ring ∧ (f l).relay = l.relay) : State.StandsAt n r k (s.onLine n f) := by
  refine ⟨?_, ?_⟩
  · rw [State.line_onLine_same, (hf _).2]; exact h.relay
  · unfold State.ring
    rw [State.line_onLine_same, (hf _).1]; exact h.ring

theorem State.StandsAt.onHook {r : RelayRecord} {k : RingRecord} (h : State.StandsAt n r k s) (f : HookRecord → HookRecord) :
    State.StandsAt n r k (s.onHook n f) := h.onLine fun _ => ⟨rfl, rfl⟩

theorem State.keptByPass_stands (n : Line) (r : RelayRecord) (k : RingRecord) : State.KeptByPass n (State.StandsAt n r k) where
  onLine {t f} hf h := h.onLine fun l => ⟨(hf l).1, (hf l).2.1⟩
  event {t e} h := ⟨by rw [← h.relay]; simp, by rw [← h.ring]; exact (State.handEvent_parts _ n e n).1⟩
  digits {t} h := ⟨by rw [← h.relay]; simp, by rw [← h.ring]; exact (State.takeDigits_parts _ true n n).1⟩

theorem State.sensed_stands (s : State) (n : Line) (w : Nat) : State.StandsAt n (s.line n).relay.afterWindow (s.ring n) (s.sensed n w) :=
  ⟨by rw [State.sensed_line]; rfl, by unfold State.ring; rw [State.sensed_line]; rfl⟩

/-- The supervisor's pass moves relays and ring work by a confirmed seizure alone. -/
theorem State.passed_stands (h : (s.line n).hook.state ≠ .seizing) (w : Nat) :
    State.StandsAt n (s.line n).relay.afterWindow (s.ring n) (s.passed n w) :=
  (State.keptByPass_stands n _ _).superviseWindow (fun hseizing => absurd (by rw [State.sensed_line] at hseizing; exact hseizing) h)
    (fun _ => s.sensed_stands n w) fun _ => (s.sensed_stands n w).onHook _

/-- Line `n` has been answered: its ring work has ended, its relays are these. -/
structure State.AnsweredAt (n : Line) (r : RelayRecord) (t : State) : Prop where
  relay : (t.line n).relay = r
  ring : t.ring n = .idle
  state : (t.line n).hook.state = .offHook
  mode : (t.line n).hook.mode = .inCall

/-- The trip of a ringing line with its ring relay closed opens it. -/
theorem State.takeTrip_answered (hring : (s.ring n).isRinging = true) (hclosed : (s.line n).relay.position = .ring) :
    State.AnsweredAt n (RingOpened (s.line n)).relay (s.takeTrip n) := by
  cases hn : s.ring n with
  | ringing o p b =>
    have hfreed : (s.silenced n).line n = { RingOpened (s.line n) with ring := .idle } := by
      unfold State.silenced
      simp only [State.oweRelease_line, State.leaveAccepted_line, State.leaveCommits_line, State.setRing, State.line_onLine_same]
      unfold LineState.immediateFeed
      rw [hclosed]
      rfl
    have hsilent : (s.silenced n).ring n = .idle := congrArg LineState.ring hfreed
    have hended : s.endRingWork n = (s.silenced n).ownLinesChanged := by
      unfold State.endRingWork
      rw [hn]
      rfl
    have hends : State.SilentAt n (RingOpened (s.line n)).relay (s.endRingWork n) := by
      rw [hended]
      exact State.SilentAt.on ⟨by rw [hfreed], by rw [hsilent]; rfl⟩ (State.ringsOn_ownLinesChanged _)
    have hidle : (s.endRingWork n).ring n = .idle := s.ring_endRingWork_same n
    have hplace : (s.line n).tripPlace = some .on := by
      unfold LineState.tripPlace
      rw [show (s.line n).ring = .ringing o p b from hn, if_pos hclosed]
    have htaken : s.takeTrip n = ((s.endRingWork n).handEvent n (.ringTripped .on)).onLine n LineState.answered := by
      unfold State.takeTrip
      rw [hplace]
    rw [htaken]
    refine ⟨?_, ?_, by rw [State.line_onLine_same]; rfl, by rw [State.line_onLine_same]; rfl⟩
    · rw [State.line_onLine_same]
      exact (State.handEvent_parts _ n _ n).2.1.trans hends.relay
    · unfold State.ring
      rw [State.line_onLine_same]
      exact (State.handEvent_parts _ n _ n).1.trans hidle
  | idle => rw [hn] at hring; cases hring
  | pending o => rw [hn] at hring; cases hring
  | claiming o p => rw [hn] at hring; cases hring

theorem State.AnsweredAt.onSense {r : RelayRecord} (h : State.AnsweredAt n r s) (f : SenseRecord → SenseRecord) :
    State.AnsweredAt n r (s.onLine n fun l => { l with sense := f l.sense }) := by
  refine ⟨?_, ?_, ?_, ?_⟩
  · rw [State.line_onLine_same]; exact h.relay
  · unfold State.ring
    rw [State.line_onLine_same]; exact h.ring
  · rw [State.line_onLine_same]; exact h.state
  · rw [State.line_onLine_same]; exact h.mode

theorem State.AnsweredAt.handEvent {r : RelayRecord} (h : State.AnsweredAt n r s) (m : Line) (e : Event) : State.AnsweredAt n r (s.handEvent m e) := by
  obtain ⟨hring, hrelay, -, hhook⟩ := s.handEvent_parts m e n
  exact ⟨hrelay.trans h.relay, hring.trans h.ring, by rw [hhook]; exact h.state, by rw [hhook]; exact h.mode⟩

/-- The trip of a line that rings with its ring relay closed, its relays and ring work having stood. -/
theorem State.StandsAt.takeTrip {r : RelayRecord} {k : RingRecord} (h : State.StandsAt n r k s) (hk : k.isRinging = true) (hr : r.position = .ring)
    (l : LineState) (hl : l.relay = r) : State.AnsweredAt n (RingOpened l).relay (s.takeTrip n) := by
  have htaken := State.takeTrip_answered (by rw [h.ring]; exact hk) (by rw [h.relay]; exact hr)
  have hopened : (RingOpened (s.line n)).relay = (RingOpened l).relay := by
    unfold RingOpened
    dsimp only
    rw [h.relay, hl]
  rw [← hopened]
  exact htaken

/-- The supervisor's pass over a SEIZING line. -/
theorem State.superviseWindow_seizing (h : (s.line n).hook.state = .seizing) (w : Nat) (x : Option Loop) :
    s.superviseWindow n w x = s ∨ s.superviseWindow n w x = s.advanced n w x ∨ s.superviseWindow n w x = (s.advanced n w x).failSeizure n ∨
      s.superviseWindow n w x = (s.advanced n w x).confirmSeizure n := by
  have hstate : ((s.advanced n w x).line n).hook.state = .seizing := by
    unfold State.advanced State.onHook
    rw [State.line_onLine_same]
    exact h
  unfold State.advanced at hstate ⊢
  unfold State.superviseWindow
  split
  · exact .inl rfl
  · dsimp only
    generalize (s.onHook n fun k => { k.advance w with raw := k.raw.enter x }) = a at hstate ⊢
    rw [hstate]
    dsimp only
    split
    · exact .inr (.inr (.inl rfl))
    · split
      · exact .inr (.inr (.inr rfl))
      · exact .inr (.inl rfl)

/-- The supervisor's pass over a ringing line with its ring relay closed leaves its ring work or trips it. -/
theorem State.passed_ringing (hring : (s.ring n).isRinging = true) (hclosed : (s.line n).relay.position = .ring) (w : Nat) :
    State.StandsAt n (s.line n).relay.afterWindow (s.ring n) (s.passed n w) ∨
      State.AnsweredAt n (RingOpened { s.line n with relay := (s.line n).relay.afterWindow }).relay (s.passed n w) := by
  have hsensed := s.sensed_stands n w
  by_cases hstate : (s.line n).hook.state = .seizing
  · have hadvanced := hsensed.onHook fun k => { k.advance w with raw := k.raw.enter (s.rawOf n w) }
    rcases State.superviseWindow_seizing (s := s.sensed n w) (by rw [State.sensed_line]; exact hstate) w (s.rawOf n w) with h | h | h | h
    · exact .inl ((congrArg _ h).mpr hsensed)
    · exact .inl ((congrArg _ h).mpr hadvanced)
    · exact .inl ((congrArg _ h).mpr (hadvanced.onHook _))
    · have hbusy : ¬ (((s.sensed n w).advanced n w (s.rawOf n w)).ring n).isIdle = true := by
        rw [show ((s.sensed n w).advanced n w (s.rawOf n w)).ring n = s.ring n from hadvanced.ring]
        cases hn : s.ring n <;> simp_all [RingRecord.isIdle, RingRecord.isRinging]
      have htrip : ((s.sensed n w).advanced n w (s.rawOf n w)).confirmSeizure n =
          (((s.sensed n w).advanced n w (s.rawOf n w)).onHook n fun h => { h with state := .offHook, seizeTimer := none }).takeTrip n := if_neg hbusy
      refine .inr ?_
      rw [State.passed, h, htrip]
      exact (hadvanced.onHook _).takeTrip hring hclosed { s.line n with relay := (s.line n).relay.afterWindow } rfl
  · exact .inl (State.passed_stands hstate w)

/-- A run confirmed in a window trips a ringing line (R74, R76). -/
theorem State.windowEndOf_tripped (hring : (s.ring n).isRinging = true) (hclosed : (s.line n).relay.position = .ring) (hrun : s.RunConfirmed n w) :
    State.AnsweredAt n (RingOpened { s.line n with relay := (s.line n).relay.afterWindow }).relay (State.windowEndOf w s n) := by
  have htripped : State.AnsweredAt n (RingOpened { s.line n with relay := (s.line n).relay.afterWindow }).relay (s.tripped n w) := by
    rw [State.tripped, if_pos hrun]
    rcases State.passed_ringing hring hclosed w with h | h
    · exact (h.onLine (f := fun l => { l with sense := { l.sense with tripRun := 0 } }) fun _ => ⟨rfl, rfl⟩).takeTrip hring hclosed
        { s.line n with relay := (s.line n).relay.afterWindow } rfl
    · have hcounted := h.onSense fun x => { x with tripRun := 0 }
      rw [State.handTrip, State.takeTrip_of_idle _ n hcounted.ring]
      exact hcounted
  rw [State.windowEndOf_eq]
  exact ite_keeps (fun _ => (htripped.onSense fun x => { x with leakFlag := !(s.line n).sense.leakFlag, leakCount := 0 }).handEvent n _) fun _ => htripped

/-- A line that is not SEIZING, its run not confirmed, keeps ring work and relays. -/
theorem State.windowEndOf_stands (hstate : (s.line n).hook.state ≠ .seizing) (hrun : ¬ s.RunConfirmed n w) :
    State.StandsAt n (s.line n).relay.afterWindow (s.ring n) (State.windowEndOf w s n) := by
  have hpassed := State.passed_stands hstate w
  rw [State.windowEndOf_eq, State.tripped, if_neg hrun]
  exact ite_keeps (fun _ => (State.keptByPass_stands n _ _).event (hpassed.onLine fun _ => ⟨rfl, rfl⟩)) fun _ => hpassed

end Sys2Proof.Machine
end

section
/-! SUPPORT. Readings, evidence and relays at a window end: O41. -/

namespace Sys2Proof.Machine

open Sys2Proof.Claims

variable {s t u : State} {n m : Line} {w : Nat}

/-! ### Classes and evidence -/

theorem RelayRecord.windowClass_spec (l : LineState) : (l.relay.windowClass = .feed ↔ FeedWindow l) ∧ (l.relay.windowClass = .ring ↔ RingWindow l) := by
  unfold FeedWindow RingWindow RelayRecord.windowClass
  by_cases hquiet : l.relay.moved = false ∧ l.relay.settle = 0
  · have hif : ¬ (l.relay.moved || l.relay.settle != 0) = true := by simp [hquiet.1, hquiet.2]
    rw [if_neg hif]
    cases l.relay.position <;> simp [hquiet.1, hquiet.2]
  · have hif : (l.relay.moved || l.relay.settle != 0) = true := by
      cases hmoved : l.relay.moved
      · simpa [hmoved] using hquiet
      · rfl
    rw [if_pos hif]
    exact ⟨⟨nofun, fun h => absurd ⟨h.1, h.2.1⟩ hquiet⟩, ⟨nofun, fun h => absurd ⟨h.1, h.2.1⟩ hquiet⟩⟩

theorem RelayRecord.windowClass_feed {l : LineState} : l.relay.windowClass = .feed ↔ FeedWindow l := (windowClass_spec l).1

theorem RelayRecord.windowClass_ring {l : LineState} : l.relay.windowClass = .ring ↔ RingWindow l := (windowClass_spec l).2

theorem RelayRecord.windowClass_blanked {l : LineState} : l.relay.windowClass = .blanked ↔ ¬ FeedWindow l ∧ ¬ RingWindow l := by
  rw [← windowClass_feed, ← windowClass_ring]
  cases l.relay.windowClass <;> simp

/-- The line is eligible for leak counting, and what is evidence there (R92 to R94). -/
def Eligible (l : LineState) : Prop := l.hook.state = .onHook ∧ l.ring = .idle ∧ l.hook.mode ≠ .parked

def Evidence (p : ThresholdParams) (reading : Nat) (l : LineState) : Prop :=
  if l.sense.leakFlag = true then reading < p.leak else p.leak ≤ reading ∧ reading < p.offHook ∧ Majority l.hook.raw .opened

theorem LineState.leakEvidence_iff (p : ThresholdParams) (reading : Nat) (l : LineState) : l.leakEvidence p reading = true ↔ Evidence p reading l := by
  unfold LineState.leakEvidence Evidence
  split
  · simp
  · simp only [Bool.and_eq_true, decide_eq_true_eq, beq_iff_eq, RawStates.majority_iff_debounced, and_assoc]
    exact Iff.rfl

theorem LineState.leakCountAfter_ineligible {p : ThresholdParams} {k : WindowClass} {reading : Nat} {l : LineState} (h : ¬ Eligible l) :
    l.leakCountAfter p k reading = 0 := if_neg (by rwa [LineState.leakEligible_iff])

theorem LineState.leakCountAfter_blanked {p : ThresholdParams} {reading : Nat} {l : LineState} (h : Eligible l) :
    l.leakCountAfter p .blanked reading = l.sense.leakCount := if_pos ((LineState.leakEligible_iff l).2 h)

theorem LineState.leakCountAfter_feed {p : ThresholdParams} {reading : Nat} {l : LineState} (h : Eligible l) :
    (Evidence p reading l → l.leakCountAfter p .feed reading = l.sense.leakCount + 1) ∧ (¬ Evidence p reading l → l.leakCountAfter p .feed reading = 0) := by
  have heligible : l.leakCountAfter p .feed reading = if l.leakEvidence p reading = true then l.sense.leakCount + 1 else 0 :=
    if_pos ((LineState.leakEligible_iff l).2 h)
  rw [heligible, ← LineState.leakEvidence_iff]
  exact ⟨fun he => if_pos he, fun he => if_neg he⟩

theorem tripRunAfter_low {p : ThresholdParams} {reading run : Nat} (h : reading < p.trip) : tripRunAfter p .ring reading run = 0 := if_neg (by omega)

theorem tripRunAfter_high {p : ThresholdParams} {reading run : Nat} (h : p.trip ≤ reading) : tripRunAfter p .ring reading run = run + 1 := if_pos h

/-! ### The turn's sense record -/

/-- The reading of line `n` in the window ending (R85). -/
def State.reading (s : State) (n : Line) (w : Nat) : Nat := readingOf (s.line n).sense.counter w

/-- The trip run with the window ending, and the leak count (R74, R92). -/
def State.runAfter (s : State) (n : Line) (w : Nat) : Nat :=
  tripRunAfter s.params.threshold (s.line n).relay.windowClass (s.reading n w) (s.line n).sense.tripRun

def State.leakAfter (s : State) (n : Line) (w : Nat) : Nat :=
  (s.line n).leakCountAfter s.params.threshold (s.line n).relay.windowClass (s.reading n w)

theorem State.windowEndOf_history (s : State) (n : Line) (w : Nat) : ((State.windowEndOf w s n).line n).sense.counter = 0 ∧
    ((State.windowEndOf w s n).line n).sense.history = pushReading (s.line n).sense.history
      { value := s.reading n w, blanked := (s.line n).relay.windowClass == .blanked, saturated := (s.line n).sense.counter == readingMax } := by
  have htripped : ((s.tripped n w).line n).sense.counter = 0 ∧ ((s.tripped n w).line n).sense.history = pushReading (s.line n).sense.history
      { value := s.reading n w, blanked := (s.line n).relay.windowClass == .blanked, saturated := (s.line n).sense.counter == readingMax } := by
    rw [State.tripped_sense]
    split <;> exact ⟨rfl, rfl⟩
  rw [State.windowEndOf_sense]
  split <;> exact htripped

theorem State.windowEndOf_run (s : State) (n : Line) (w : Nat) : ((State.windowEndOf w s n).line n).sense.tripRun =
    if s.RunConfirmed n w then 0 else s.runAfter n w := by
  have hturned : ((State.windowEndOf w s n).line n).sense.tripRun = ((s.tripped n w).line n).sense.tripRun := by
    rw [State.windowEndOf_sense]
    split <;> rfl
  rw [hturned, State.tripped_sense]
  split <;> rfl

theorem State.windowEndOf_leak (s : State) (n : Line) (w : Nat) :
    ((State.windowEndOf w s n).line n).sense.leakCount = (if 250 ≤ s.leakAfter n w then 0 else s.leakAfter n w) ∧
    ((State.windowEndOf w s n).line n).sense.leakFlag = if 250 ≤ s.leakAfter n w then !(s.line n).sense.leakFlag else (s.line n).sense.leakFlag := by
  have htripped : ((s.tripped n w).line n).sense.leakCount = s.leakAfter n w ∧ ((s.tripped n w).line n).sense.leakFlag = (s.line n).sense.leakFlag := by
    rw [State.tripped_sense]
    split <;> exact ⟨rfl, rfl⟩
  rw [State.windowEndOf_sense]
  by_cases h : s.LeakReached n w
  · have hreached : 250 ≤ s.leakAfter n w := h
    rw [if_pos h, if_pos hreached, if_pos hreached]
    exact ⟨rfl, rfl⟩
  · have hreached : ¬ 250 ≤ s.leakAfter n w := h
    rw [if_neg h, if_neg hreached, if_neg hreached]
    exact htripped

theorem State.runConfirmed_iff : s.RunConfirmed n w ↔ RingWindow (s.line n) ∧ s.params.relay.tripConfirm ≤ s.runAfter n w := by
  rw [← RelayRecord.windowClass_ring]
  exact Iff.rfl

/-- A run not to be confirmed, where the trip is not due (R74). -/
theorem State.runConfirmed_due (hpos : 0 < s.params.relay.tripConfirm) : s.RunConfirmed n w ↔
    RingWindow (s.line n) ∧ s.params.threshold.trip ≤ s.reading n w ∧ s.params.relay.tripConfirm ≤ (s.line n).sense.tripRun + 1 := by
  rw [State.runConfirmed_iff]
  refine and_congr_right fun hring => ?_
  rw [State.runAfter, RelayRecord.windowClass_ring.2 hring]
  by_cases hhigh : s.params.threshold.trip ≤ s.reading n w
  · rw [tripRunAfter_high hhigh]
    exact ⟨fun h => ⟨hhigh, h⟩, fun h => h.2⟩
  · rw [tripRunAfter_low (by omega)]
    exact ⟨fun h => by omega, fun h => absurd h.1 hhigh⟩

end Sys2Proof.Machine
end

section
/-! SUPPORT. WINDOW_END takes every reading: O41. -/

namespace Sys2Proof.Machine

open Sys2Proof.Claims

variable {s t u : State} {n m : Line} {w : Nat}

/-! ### Evidence on a line that the others have left -/

/-- `u` has line `n` as `s` has it at the window's begin, but for ring work that the others' may have moved. -/
structure State.TurnOf (n : Line) (s u : State) : Prop where
  params : u.params = s.params
  sense : (u.line n).sense = (s.line n).sense
  hook : (u.line n).hook = (s.line n).hook
  idle : u.ring n = .idle ↔ s.ring n = .idle
  silent : (s.ring n).isRinging = false → (u.line n).relay = (s.line n).relay
  sound : s.RingSound → u.RingSound
  stays : s.RingSound → (u.line n).relay = (s.line n).relay ∧ (u.ring n).isRinging = (s.ring n).isRinging

theorem State.windowBegun_sound (h : s.RingSound) : s.windowBegun.RingSound := 
  State.RingSame.sound (State.RingSame.still (s := s) (t := s.windowBegun) rfl rfl rfl rfl rfl rfl fun _ => rfl) h

theorem State.OthersTaken.turnOf (h : s.windowBegun.OthersTaken n u) : State.TurnOf n s u where
  params := by have hframe := h.frame; unfold State.LinesWorked at hframe; rw [hframe]; rfl
  sense := h.apart.sense
  hook := h.apart.hook
  idle := h.apart.idle
  silent := h.apart.rings.quiet
  sound hs := (h.quiet (State.windowBegun_sound hs)).sound
  stays hs := ⟨(h.quiet (State.windowBegun_sound hs)).relay, (h.quiet (State.windowBegun_sound hs)).isRinging⟩

namespace State.TurnOf

variable (h : State.TurnOf n s u)
include h

theorem eligible_iff : Eligible (u.line n) ↔ Eligible (s.line n) := by
  have hidle := h.idle
  unfold State.ring at hidle
  unfold Eligible
  rw [h.hook, hidle]

theorem evidence_iff (reading : Nat) : Evidence s.params.threshold reading (u.line n) ↔ Evidence s.params.threshold reading (s.line n) := by
  unfold Evidence
  rw [h.hook, h.sense]

theorem reading_eq (w : Nat) : u.reading n w = s.reading n w := by unfold State.reading; rw [h.sense]

/-- An eligible line does not ring, and its class is the one it had. -/
theorem relay_of_eligible (he : Eligible (s.line n)) : (u.line n).relay = (s.line n).relay := by
  obtain ⟨-, hidle, -⟩ := he
  exact h.silent (by rw [show s.ring n = .idle from hidle]; rfl)

theorem leak_ineligible (he : ¬ Eligible (s.line n)) (w : Nat) : u.leakAfter n w = 0 := LineState.leakCountAfter_ineligible (by rwa [h.eligible_iff])

theorem leak_eligible (he : Eligible (s.line n)) (w : Nat) :
    (¬ FeedWindow (s.line n) → ¬ RingWindow (s.line n) → u.leakAfter n w = (s.line n).sense.leakCount) ∧
    (FeedWindow (s.line n) → Evidence s.params.threshold (s.reading n w) (s.line n) → u.leakAfter n w = (s.line n).sense.leakCount + 1) ∧
    (FeedWindow (s.line n) → ¬ Evidence s.params.threshold (s.reading n w) (s.line n) → u.leakAfter n w = 0) := by
  have heligible := h.eligible_iff.2 he
  have hfeed : FeedWindow (s.line n) → _ := fun hf =>
    LineState.leakCountAfter_feed (p := s.params.threshold) (reading := s.reading n w) heligible
  unfold State.leakAfter
  rw [h.params, h.reading_eq, h.relay_of_eligible he]
  refine ⟨fun hf hr => ?_, fun hf hev => ?_, fun hf hev => ?_⟩
  · rw [RelayRecord.windowClass_blanked.2 ⟨hf, hr⟩, LineState.leakCountAfter_blanked heligible, h.sense]
  · rw [RelayRecord.windowClass_feed.2 hf, (hfeed hf).1 ((h.evidence_iff _).2 hev), h.sense]
  · rw [RelayRecord.windowClass_feed.2 hf, (hfeed hf).2 (mt (h.evidence_iff _).1 hev)]

end State.TurnOf

/-! ### The lines at a window end -/

/-- The readings of a window end (R85, R89). -/
theorem State.windowEnd_history (h : State.TurnOf n s u) (g : (State.windowEndOf w u n).OthersTaken n t) : (t.line n).sense.counter = 0 ∧
    (t.line n).sense.history = pushReading (s.line n).sense.history
      { value := s.reading n w, blanked := (u.line n).relay.windowClass == .blanked, saturated := (s.line n).sense.counter == readingMax } := by
  have hsense := g.apart.sense
  obtain ⟨hcounter, hhistory⟩ := u.windowEndOf_history n w
  rw [hsense, hcounter, hhistory, h.reading_eq, h.sense]
  exact ⟨rfl, rfl⟩

theorem State.windowEnd_leak (h : State.TurnOf n s u) (g : (State.windowEndOf w u n).OthersTaken n t) :
    (u.leakAfter n w < 250 → (t.line n).sense.leakCount = u.leakAfter n w ∧ (t.line n).sense.leakFlag = (s.line n).sense.leakFlag) ∧
    (250 ≤ u.leakAfter n w → (t.line n).sense.leakCount = 0 ∧ (t.line n).sense.leakFlag = !(s.line n).sense.leakFlag) := by
  have hsense := g.apart.sense
  obtain ⟨hcount, hflag⟩ := u.windowEndOf_leak n w
  rw [hsense, hcount, hflag, h.sense]
  exact ⟨fun hlow => by rw [if_neg (by omega), if_neg (by omega)]; exact ⟨rfl, rfl⟩, fun hhigh => by rw [if_pos hhigh, if_pos hhigh]; exact ⟨rfl, rfl⟩⟩

/-- The trip run of a line whose relays the others have left (R74). -/
theorem State.windowEnd_run (h : State.TurnOf n s u) (g : (State.windowEndOf w u n).OthersTaken n t) (hrelay : (u.line n).relay = (s.line n).relay) :
    (¬ RingWindow (s.line n) → (t.line n).sense.tripRun = (s.line n).sense.tripRun) ∧
    (RingWindow (s.line n) → s.reading n w < s.params.threshold.trip → 0 < s.params.relay.tripConfirm → (t.line n).sense.tripRun = 0) ∧
    (RingWindow (s.line n) → s.params.threshold.trip ≤ s.reading n w →
      (t.line n).sense.tripRun = if s.params.relay.tripConfirm ≤ (s.line n).sense.tripRun + 1 then 0 else (s.line n).sense.tripRun + 1) := by
  have hwindow : RingWindow (u.line n) ↔ RingWindow (s.line n) := by unfold RingWindow; rw [hrelay]
  have hafter : u.runAfter n w = tripRunAfter s.params.threshold (s.line n).relay.windowClass (s.reading n w) (s.line n).sense.tripRun := by
    unfold State.runAfter
    rw [h.params, h.reading_eq, hrelay, h.sense]
  have hconfirmed : u.RunConfirmed n w ↔ RingWindow (s.line n) ∧ s.params.relay.tripConfirm ≤ u.runAfter n w := by
    rw [State.runConfirmed_iff, hwindow, h.params]
  rw [g.apart.sense, u.windowEndOf_run]
  refine ⟨fun hno => ?_, fun hring hlow hpos => ?_, fun hring hhigh => ?_⟩
  · rw [if_neg fun hc => hno (hconfirmed.1 hc).1, hafter]
    cases hk : (s.line n).relay.windowClass with
    | ring => exact absurd (RelayRecord.windowClass_ring.1 hk) hno
    | feed => rfl
    | blanked => rfl
  · rw [hafter, RelayRecord.windowClass_ring.2 hring, tripRunAfter_low hlow]
    exact ite_self 0
  · rw [RelayRecord.windowClass_ring.2 hring, tripRunAfter_high hhigh] at hafter
    rw [hafter] at hconfirmed ⊢
    exact if_congr (hconfirmed.trans (and_iff_right hring)) rfl rfl

/-- Line `n` answered in its turn stays so. -/
theorem State.windowEnd_tripped (h : State.TurnOf n s u) (g : (State.windowEndOf w u n).OthersTaken n t) (hs : s.RingSound)
    (hring : RingWindow (s.line n)) (hhigh : s.params.threshold.trip ≤ s.reading n w) (hrun : s.params.relay.tripConfirm ≤ (s.line n).sense.tripRun + 1)
    (hrings : (s.ring n).isRinging = true) :
    State.AnsweredAt n (RingOpened { s.line n with relay := (s.line n).relay.afterWindow }).relay t := by
  obtain ⟨hrelay, hringing⟩ := h.stays hs
  obtain ⟨-, -, hposition⟩ := id hring
  have hconfirmed : u.RunConfirmed n w := State.runConfirmed_iff.2 ⟨by unfold RingWindow; rw [hrelay]; exact hring, by
    unfold State.runAfter
    rw [h.params, h.reading_eq, hrelay, h.sense, RelayRecord.windowClass_ring.2 hring, tripRunAfter_high hhigh]
    exact hrun⟩
  obtain ⟨hopened, hidle, hstate, hmode⟩ := State.windowEndOf_tripped (hringing.trans hrings) (by rw [hrelay]; exact hposition) hconfirmed
  have hhook := g.apart.hook
  refine ⟨?_, g.apart.idle.2 hidle, by rw [hhook]; exact hstate, by rw [hhook]; exact hmode⟩
  rw [g.apart.rings.quiet (by rw [show ((State.windowEndOf w u n).line n).ring = .idle from hidle]; rfl), hopened]
  unfold RingOpened
  dsimp only
  rw [hrelay]

/-- The relays of a line that is not tripped (R72). -/
theorem State.windowEnd_relay (h : State.TurnOf n s u) (g : (State.windowEndOf w u n).OthersTaken n t) (hs : s.RingSound) :
    ((s.ring n).isRinging = false → (t.line n).relay = (s.line n).relay.afterWindow) ∧
    ((s.line n).hook.state ≠ .seizing → 0 < s.params.relay.tripConfirm →
      ¬ (RingWindow (s.line n) ∧ s.params.threshold.trip ≤ s.reading n w ∧ s.params.relay.tripConfirm ≤ (s.line n).sense.tripRun + 1) →
      (t.line n).relay = (s.line n).relay.afterWindow) := by
  obtain ⟨hrelay, hringing⟩ := h.stays hs
  refine ⟨fun hsilent => ?_, fun hstate hpos hnot => ?_⟩
  · have hturn := State.windowEndOf_silent (s := u) (hringing.trans hsilent) w
    rw [g.apart.rings.quiet hturn.silent, hturn.relay, hrelay]
  · have hnone : ¬ u.RunConfirmed n w := fun hc => hnot (by
      have hdue := (State.runConfirmed_due (by rw [h.params]; exact hpos)).1 hc
      unfold RingWindow at hdue ⊢
      rwa [hrelay, h.params, h.reading_eq, h.sense] at hdue)
    have hturn := State.windowEndOf_stands (s := u) (by rw [h.hook]; exact hstate) hnone
    rw [(g.quiet ((h.sound hs).windowEndOf w n)).relay, hturn.relay, hrelay]

/-- The evidence of a window end on a line in use (R92 to R94). -/
theorem State.windowEnd_evidence (h : State.TurnOf n s u) (g : (State.windowEndOf w u n).OthersTaken n t) :
    let l := s.line n
    let evidence := Evidence s.params.threshold (s.reading n w) l
    (¬ Eligible l → (t.line n).sense.leakCount = 0 ∧ (t.line n).sense.leakFlag = l.sense.leakFlag) ∧
    (Eligible l → ¬ FeedWindow l → ¬ RingWindow l → l.sense.leakCount < 250 →
      (t.line n).sense.leakCount = l.sense.leakCount ∧ (t.line n).sense.leakFlag = l.sense.leakFlag) ∧
    (Eligible l → FeedWindow l → ¬ evidence → (t.line n).sense.leakCount = 0 ∧ (t.line n).sense.leakFlag = l.sense.leakFlag) ∧
    (Eligible l → FeedWindow l → evidence → l.sense.leakCount < 249 →
      (t.line n).sense.leakCount = l.sense.leakCount + 1 ∧ (t.line n).sense.leakFlag = l.sense.leakFlag) ∧
    (Eligible l → FeedWindow l → evidence → l.sense.leakCount = 249 →
      (t.line n).sense.leakCount = 0 ∧ (t.line n).sense.leakFlag = !l.sense.leakFlag) := by
  obtain ⟨hbelow, hreached⟩ := State.windowEnd_leak h g
  refine ⟨fun he => ?_, fun he hf hr hlow => ?_, fun he hf hno => ?_, fun he hf hev hlow => ?_, fun he hf hev hlast => ?_⟩
  · have hnone := h.leak_ineligible he w
    rw [hnone] at hbelow
    exact hbelow (by omega)
  · have hheld := (h.leak_eligible he w).1 hf hr
    rw [hheld] at hbelow
    exact hbelow hlow
  · have hnone := (h.leak_eligible he w).2.2 hf hno
    rw [hnone] at hbelow
    exact hbelow (by omega)
  · have hmore := (h.leak_eligible he w).2.1 hf hev
    rw [hmore] at hbelow
    exact hbelow (by omega)
  · have hmore := (h.leak_eligible he w).2.1 hf hev
    exact hreached (by omega)

/-- Settles O41. -/
theorem windowEndTakesEveryReading : Obligations.WindowEndTakesEveryReading := by
  intro s hs
  refine ⟨s.run .windowEnd, State.exec_run .windowEnd s, s.windowEnd_frame hs, fun n hn => ?_, fun n hn => ?_⟩
  · have hkept := State.windowEnd_unused hs hn
    exact ⟨hkept.apart.sense, hkept.apart.hook⟩
  · obtain ⟨u, hbefore, hafter⟩ := State.windowEnd_turn hs hn
    have hturn := hbefore.turnOf
    obtain ⟨hcounter, hhistory⟩ := State.windowEnd_history hturn hafter
    refine ⟨hcounter, by rw [hhistory]; rfl, by rw [hhistory]; rfl, by rw [hhistory]; rfl, by rw [hhistory]; rfl, ?_, fun hsched hview hwithin => ?_,
      State.windowEnd_evidence hturn hafter⟩
    · rw [hhistory]
      exact beq_iff_eq
    · have hsound : s.RingSound := ⟨hsched, hview, hwithin⟩
      obtain ⟨hrelay, -⟩ := hturn.stays hsound
      obtain ⟨hheld, hbelow, hcounted⟩ := State.windowEnd_run hturn hafter hrelay
      obtain ⟨hsilent, hrings⟩ := State.windowEnd_relay hturn hafter hsound
      refine ⟨?_, hheld, hbelow, fun hring hhigh hlow => ?_, fun hring hhigh hrun hringing => ?_, hsilent, fun _ => hrings⟩
      · rw [hhistory, ← RelayRecord.windowClass_blanked, ← hrelay]
        exact beq_iff_eq
      · rw [hcounted hring hhigh, if_neg (by omega)]
      · obtain ⟨hopened, hidle, hstate, hmode⟩ := State.windowEnd_tripped hturn hafter hsound hring hhigh hrun hringing
        exact ⟨by rw [hcounted hring hhigh, if_pos hrun], hidle, hstate, hmode, hopened⟩

end Sys2Proof.Machine
end

section
/-! SUPPORT. What stands of a line at a window end outside its own turn, and what is told of it: O43. -/

namespace Sys2Proof.Machine

open Sys2Proof.Claims

variable {s t u : State} {n m : Line} {w : Nat}

/-! ### Lines that stand -/

theorem lineStands_trans (h : LineStands n s t) (g : LineStands n t u) : LineStands n s u := by
  obtain ⟨hframe, -, hhook, hlost, hdigits, hevents, hlength, htone⟩ := h
  obtain ⟨gframe, gidle, ghook, glost, gdigits, gevents, glength, gtone⟩ := g
  refine ⟨State.LinesWorked.trans hframe gframe, gidle, ghook.trans hhook, glost.trans hlost, gdigits.trans hdigits, gevents.trans hevents,
    hlength.trans glength, ?_⟩
  exact (State.Untold.trans ⟨hlost, hdigits, hevents, htone⟩ ⟨glost, gdigits, gevents, gtone⟩).tone

/-- The others' work on an IDLE line. -/
theorem State.OthersTaken.lineStands (h : s.OthersTaken n t) (hidle : s.ring n = .idle) : LineStands n s t := by
  obtain ⟨hlost, hdigits, hevents, htone⟩ := h.apart.untold hidle
  exact ⟨h.frame, h.apart.idle.2 hidle, h.apart.hook, hlost, hdigits, hevents, h.apart.length, htone⟩

/-- Relays and sense record of an IDLE line change. -/
theorem State.lineStands_onLine {f : LineState → LineState} (hidle : s.ring n = .idle)
    (hf : ∀ l : LineState, (f l).ring = l.ring ∧ (f l).hook = l.hook ∧ (f l).eventsLost = l.eventsLost ∧ (f l).tone = l.tone) :
    LineStands n s (s.onLine n f) := by
  obtain ⟨hring, hhook, hlost, htone⟩ := hf (s.line n)
  have hline : (s.onLine n f).line n = f (s.line n) := s.line_onLine_same n f
  refine ⟨rfl, ?_, by rw [hline, hhook], by rw [hline, hlost], rfl, rfl, Nat.le_refl _, .inl (by rw [hline, htone])⟩
  unfold State.ring
  rw [hline, hring]
  exact hidle

/-- An event handed and a change of the sense record commute. -/
theorem State.handEvent_onSense (s : State) (n : Line) (e : Event) (f : SenseRecord → SenseRecord) :
    (s.onLine n fun l => { l with sense := f l.sense }).handEvent n e = (s.handEvent n e).onLine n fun l => { l with sense := f l.sense } := by
  have hreleased : ∀ t : State, (t.onLine n fun l => { l with sense := f l.sense }).mapLines LineState.releaseTone =
      (t.mapLines LineState.releaseTone).onLine n fun l => { l with sense := f l.sense } := fun t => by
    have hone : ∀ l : LineState, LineState.releaseTone { l with sense := f l.sense } = { l.releaseTone with sense := f l.releaseTone.sense } := fun l => by
      unfold LineState.releaseTone
      split <;> rfl
    unfold State.onLine State.mapLines State.setLine
    rw [Vector.map_set, hone]
    simp [State.line]
  unfold State.handEvent
  rw [State.line_onLine_same]
  by_cases hlost : (s.line n).eventsLost = true
  · rw [if_pos hlost, if_pos hlost]
  · rw [if_neg hlost, if_neg hlost]
    by_cases hfull : s.freeCount = 0
    · rw [if_pos (show (s.onLine n fun l => { l with sense := f l.sense }).freeCount = 0 from hfull), if_pos hfull, State.onLine_onLine, State.onLine_onLine]
    · rw [if_neg (show ¬ (s.onLine n fun l => { l with sense := f l.sense }).freeCount = 0 from hfull), if_neg hfull]
      unfold State.pushReport State.reconsiderWithheld
      by_cases hfree : 3 ≤ (s.setQueue (s.asm.queue ++ [.event n e])).freeCount
      · rw [if_pos hfree]
        exact (if_pos hfree).trans (hreleased (s.setQueue (s.asm.queue ++ [Report.event n e])))
      · rw [if_neg hfree]
        exact if_neg hfree

/-! ### Events told -/

theorem mem_eventsOf {e : Event} {q : List Report} : e ∈ eventsOf n q ↔ Report.event n e ∈ q := by
  unfold eventsOf
  rw [List.mem_flatMap]
  constructor
  · rintro ⟨r, hr, he⟩
    cases r with
    | event m e' =>
      obtain ⟨hm, he'⟩ : m = n ∧ e = e' := by simpa using he
      rw [← hm, he']
      exact hr
    | digits m ds b => cases he
    | state m b => cases he
    | refusal b k r => cases he
  · intro h
    exact ⟨_, h, by simp⟩

/-- An event handed is told. -/
theorem State.handEvent_told (s : State) (n : Line) (e : Event) : Told n e (s.handEvent n e) := by
  obtain ⟨hflagged, hfull, hroom⟩ := s.handEvent_handed n e
  by_cases hlost : (s.line n).eventsLost = true
  · exact .inr (by rw [hflagged hlost]; exact hlost)
  · by_cases hspace : s.asm.queue.length < 12
    · obtain ⟨hframe, -⟩ := hroom (by simpa using hlost) hspace
      refine .inl ?_
      rw [hframe]
      simp
    · refine .inr ?_
      rw [hfull (by simpa using hlost) (by omega), State.line_setLine_same]

theorem told_of_untold {e : Event} (h : Told n e s) (g : s.Untold n t) : Told n e t :=
  h.imp (fun hq => mem_eventsOf.1 (by rw [g.events]; exact mem_eventsOf.2 hq)) fun hl => by rw [g.lost]; exact hl

/-- A line answered is told its trip, and is silent. -/
theorem State.takeTrip_told {place : TripPlace} (h : (s.line n).tripPlace = some place) : (s.takeTrip n).ring n = .idle ∧
    Told n (.ringTripped place) (s.takeTrip n) ∧
    ((s.takeTrip n).line n).tone.tone = none ∧
    ((s.takeTrip n).line n).hook = { ((s.endRingWork n).line n).hook with raw := .all .closed, state := .offHook, mode := .inCall, seizeTimer := none,
                                                                           breakTimer := none, dialTimer := none } := by
  have htaken : s.takeTrip n = ((s.endRingWork n).handEvent n (.ringTripped place)).onLine n LineState.answered := by
    unfold State.takeTrip
    rw [h]
  obtain ⟨hring, -, -, hhook⟩ := (s.endRingWork n).handEvent_parts n (.ringTripped place) n
  rw [htaken]
  refine ⟨?_, ?_, by rw [State.line_onLine_same]; rfl, by rw [State.line_onLine_same, ← hhook]; rfl⟩
  · unfold State.ring
    rw [State.line_onLine_same]
    exact hring.trans (s.ring_endRingWork_same n)
  · refine ((s.endRingWork n).handEvent_told n (.ringTripped place)).imp (fun hq => hq) fun hl => ?_
    rw [State.line_onLine_same]
    exact hl

end Sys2Proof.Machine
end

section
/-! SUPPORT. The supervisor's pass by hook state: O43. -/

namespace Sys2Proof.Machine

open Sys2Proof.Claims

variable {s t u : State} {n m : Line} {w : Nat} {x : Option Loop}

/-! ### Raw state and time -/

theorem State.advanced_line (s : State) (n : Line) (w : Nat) (x : Option Loop) : (s.advanced n w x).line n =
    { s.line n with hook := { (s.line n).hook.advance w with raw := (s.line n).hook.raw.enter x } } := s.line_onLine_same n _

theorem State.advanced_loop {y : Loop} (h : Majority ((s.line n).hook.raw.enter x) y) : ((s.advanced n w x).line n).loop = y := by
  rw [State.advanced_line]
  exact (RawStates.majority_iff_debounced _ _).1 h

/-! ### The pass -/

section Pass

variable (hm : (s.line n).hook.mode ≠ .parked)
include hm

theorem State.superviseWindow_onHook (h : (s.line n).hook.state = .onHook) :
    (Majority ((s.line n).hook.raw.enter x) .opened → s.superviseWindow n w x = s.advanced n w x) ∧
    (Majority ((s.line n).hook.raw.enter x) .closed → s.superviseWindow n w x = (s.advanced n w x).beginSeizing n) := by
  have hstate : ((s.advanced n w x).line n).hook.state = .onHook := by rw [State.advanced_line]; exact h
  have hloop : ∀ y, Majority ((s.line n).hook.raw.enter x) y → ((s.advanced n w x).line n).loop = y := fun y => State.advanced_loop
  unfold State.advanced at hstate hloop ⊢
  unfold State.superviseWindow
  rw [if_neg hm]
  dsimp only
  rw [hstate]
  exact ⟨fun hy => by rw [hloop _ hy], fun hy => by rw [hloop _ hy]⟩

theorem State.superviseWindow_seized (h : (s.line n).hook.state = .seizing) :
    (Majority ((s.line n).hook.raw.enter x) .opened → s.superviseWindow n w x = (s.advanced n w x).failSeizure n) ∧
    ∀ d : Nat, (s.line n).hook.seizeTimer = some d → Majority ((s.line n).hook.raw.enter x) .closed →
      (8 * s.params.timing.seizeConfirm ≤ d + w → s.superviseWindow n w x = (s.advanced n w x).confirmSeizure n) ∧
      (d + w < 8 * s.params.timing.seizeConfirm → s.superviseWindow n w x = s.advanced n w x) := by
  have hstate : ((s.advanced n w x).line n).hook.state = .seizing := by rw [State.advanced_line]; exact h
  have hloop : ∀ y, Majority ((s.line n).hook.raw.enter x) y → ((s.advanced n w x).line n).loop = y := fun y => State.advanced_loop
  have htimer : ((s.advanced n w x).line n).hook.seizeTimer = (s.line n).hook.seizeTimer.map (· + w) := by rw [State.advanced_line]; rfl
  unfold State.advanced at hstate hloop htimer ⊢
  unfold State.superviseWindow
  rw [if_neg hm]
  dsimp only
  rw [hstate]
  refine ⟨fun hy => by rw [hloop _ hy], fun d hd hy => ?_⟩
  rw [hloop _ hy, htimer, hd]
  exact ⟨fun hlong => if_pos hlong, fun hshort => if_neg (Nat.not_le.2 hshort)⟩

theorem State.superviseWindow_offHook (h : (s.line n).hook.state = .offHook) :
    s.superviseWindow n w x = (s.advanced n w x).offHookWindow n ((s.advanced n w x).trainDue n) := by
  have hstate : ((s.advanced n w x).line n).hook.state = .offHook := by rw [State.advanced_line]; exact h
  unfold State.advanced at hstate ⊢
  unfold State.superviseWindow
  rw [if_neg hm]
  dsimp only
  rw [hstate]

theorem State.superviseWindow_brk (h : (s.line n).hook.state = .brk) {d : Nat} (hd : (s.line n).hook.breakTimer = some d) :
    s.superviseWindow n w x = (s.advanced n w x).breakWindow n (d + w) := by
  have hstate : ((s.advanced n w x).line n).hook.state = .brk := by rw [State.advanced_line]; exact h
  have htimer : ((s.advanced n w x).line n).hook.breakTimer = some (d + w) := by rw [State.advanced_line]; exact congrArg (Option.map (· + w)) hd
  unfold State.advanced at hstate htimer ⊢
  unfold State.superviseWindow
  rw [if_neg hm]
  dsimp only
  rw [hstate]
  dsimp only
  rw [htimer]
  rfl

end Pass

/-! ### Breaks -/

/-- The test for the glitch limit changes the tone and its own flag. -/
theorem State.testGlitchLimit_line (s : State) (n : Line) : (s.testGlitchLimit n).asm = s.asm ∧
    ∃ (b : Bool) (y : ToneRecord), y.dialled = (s.line n).tone.dialled ∧
      (s.testGlitchLimit n).line n = { s.line n with hook := { (s.line n).hook with glitchTold := b }, tone := y } := by
  have hstands : s.asm = s.asm ∧ ∃ (b : Bool) (y : ToneRecord), y.dialled = (s.line n).tone.dialled ∧
      s.line n = { s.line n with hook := { (s.line n).hook with glitchTold := b }, tone := y } := ⟨rfl, _, _, rfl, rfl⟩
  unfold State.testGlitchLimit
  dsimp only
  split
  · split
    · refine ⟨rfl, true, (s.line n).tone.suspend, ?_, ?_⟩
      · rw [ToneRecord.suspend_eq]
      · unfold State.tellGlitchLimit State.onTone State.onHook
        rw [State.onLine_onLine, State.line_onLine_same]
    · exact hstands
  · exact hstands

theorem State.beginBreak_line (s : State) (n : Line) : (s.beginBreak n).asm = s.asm ∧
    ∃ (b : Bool) (y : ToneRecord), y.dialled = (s.line n).tone.dialled ∧ (s.beginBreak n).line n =
      { s.line n with hook := { (s.line n).hook with state := .brk, breakTimer := some 0, glitchTold := b }, tone := y } := by
  obtain ⟨hasm, b, y, hy, hline⟩ := (s.onHook n fun h => { h with state := .brk, breakTimer := some 0, glitchTold := false }).testGlitchLimit_line n
  have hbegun : (s.onHook n fun h => { h with state := .brk, breakTimer := some 0, glitchTold := false }).line n =
      { s.line n with hook := { (s.line n).hook with state := .brk, breakTimer := some 0, glitchTold := false } } := s.line_onLine_same n _
  rw [hbegun] at hy hline
  exact ⟨hasm, b, y, hy, hline⟩

/-- A clear declared, on the hook record. -/
theorem State.declareClear_hook (s : State) (n : Line) :
    ((s.line n).loop = .opened → ((s.declareClear n).line n).hook.state = .onHook ∧ ((s.declareClear n).line n).hook.mode = .free) ∧
    ((s.line n).loop = .closed → ((s.declareClear n).line n).hook.state = .seizing ∧ ((s.declareClear n).line n).hook.mode = .free ∧
      ((s.declareClear n).line n).hook.seizeTimer = some 0) := by
  unfold State.declareClear
  dsimp only
  refine ⟨fun hopen => ?_, fun hclosed => ?_⟩
  · rw [hopen]
    dsimp only
    rw [State.handEvent_hook, State.line_onLine_same]
    exact ⟨rfl, rfl⟩
  · rw [hclosed]
    unfold State.beginSeizing State.onHook
    rw [State.line_onLine_same]
    refine ⟨rfl, ?_, rfl⟩
    rw [State.handEvent_hook, State.line_onLine_same]

/-- A break at a window end, its timer standing at `d` (R104). -/
theorem State.breakWindow_hook (s : State) (n : Line) (d : Nat) (hstate : (s.line n).hook.state = .brk) (hd : (s.line n).hook.breakTimer = some d) :
    let t := s.breakWindow n d
    (d ≤ 8 * s.params.timing.flashMax → (s.line n).loop = .opened → (t.line n).hook.state = .brk ∧ (t.line n).hook.breakTimer = some d) ∧
    (d ≤ 8 * s.params.timing.flashMax → (s.line n).loop = .closed → (t.line n).hook.state = .offHook ∧ (t.line n).hook.breakTimer = none) ∧
    (8 * s.params.timing.flashMax < d → (s.line n).loop = .opened → (t.line n).hook.state = .onHook ∧ (t.line n).hook.mode = .free) ∧
    (8 * s.params.timing.flashMax < d → (s.line n).loop = .closed → (t.line n).hook.state = .seizing ∧ (t.line n).hook.mode = .free ∧
      (t.line n).hook.seizeTimer = some 0) := by
  obtain ⟨-, b, y, -, htested⟩ := s.testGlitchLimit_line n
  have hloop : ((s.testGlitchLimit n).line n).loop = (s.line n).loop := by rw [htested]; rfl
  obtain ⟨hclear, hagain⟩ := (s.testGlitchLimit n).declareClear_hook n
  obtain ⟨hends, hstops, -⟩ := (s.testGlitchLimit n).endBreak_ends n d
  rw [hloop] at hclear hagain
  unfold State.breakWindow
  dsimp only
  refine ⟨fun hshort hl => ?_, fun hshort hl => ?_, fun hlong hl => ?_, fun hlong hl => ?_⟩
  · rw [if_neg (show ¬ eighths _ < d from Nat.not_lt.2 hshort), hl, htested]
    exact ⟨hstate, hd⟩
  · rw [if_neg (show ¬ eighths _ < d from Nat.not_lt.2 hshort), hl]
    exact ⟨hends, hstops⟩
  · rw [if_pos (show eighths _ < d from hlong)]; exact hclear hl
  · rw [if_pos (show eighths _ < d from hlong)]; exact hagain hl

/-! ### Trains -/

theorem State.takeDigits_dialled (s : State) (mayMake : Bool) (n : Line) :
    ((s.takeDigits mayMake n).line n).tone.dialled = (s.line n).tone.dialled := by
  have hpush : ∀ (t : State) (r : Report), ((t.pushReport r).line n).tone.dialled = (t.line n).tone.dialled := fun t r => by
    unfold State.pushReport
    rw [State.reconsiderWithheld_line]
    split <;> rfl
  refine (State.takeDigits_steps (R := fun t t' => (t'.line n).tone.dialled = (t.line n).tone.dialled) (fun _ => rfl) (fun h g => g.trans h)
    (fun {t d before after ds b} _ => ?_) (fun t d => ?_) _ s rfl)
  · exact (congrArg (fun l : LineState => l.tone.dialled) (t.line_setLine_same n (DigitGone (t.line n)))).trans rfl
  · rw [hpush, State.line_setLine_same]
    rfl

/-- A train completed, as a digit or as DIGIT ERROR (R108, R110, R111, R124). -/
theorem State.completeTrain_spec (s : State) (n : Line) :
    let h := (s.line n).hook
    let t := s.completeTrain n
    (h.pulses ≤ 10 → (t.line n).hook.dialTimer = none ∧ (t.line n).tone.dialled = true) ∧
    (h.pulses ≤ 10 → h.digits.length < 16 →
      queuedDigits n t.asm.queue ++ (t.line n).hook.digits = queuedDigits n s.asm.queue ++ h.digits ++ [Fin.ofNat 10 h.pulses]) ∧
    (11 ≤ h.pulses → Told n (.digitError h.pulses) t) := by
  obtain ⟨hroom, hfull, herror⟩ := s.completeTrain_completed n
  have hmoved : ∀ u : State, (u.line n).hook.dialTimer = none → (u.line n).tone.dialled = true →
      ((u.takeDigits true n).line n).hook.dialTimer = none ∧ ((u.takeDigits true n).line n).tone.dialled = true := fun u hu hd => by
    obtain ⟨-, -, -, -, -, -, hdial, -⟩ := State.takeDigitList_hook true n n (u.line n).hook.digits u
    exact ⟨hdial.trans hu, (u.takeDigits_dialled true n).trans hd⟩
  refine ⟨fun hp => ?_, fun hp hlt => ?_, fun hp => ?_⟩
  · rcases Nat.lt_or_ge (s.line n).hook.digits.length 16 with hlt | hge
    · rw [hroom hp hlt]
      exact hmoved _ (by rw [State.line_setLine_same]) (by rw [State.line_setLine_same])
    · rw [hfull hp hge]
      exact hmoved _ (by rw [State.line_setLine_same]) (by rw [State.line_setLine_same])
  · rw [hroom hp hlt, (State.digitsMoved _ true n).order, State.line_setLine_same, ← List.append_assoc]
    rfl
  · unfold State.completeTrain
    rw [if_neg (by omega)]
    exact State.handEvent_told _ n _

/-- Train, digits and reports of the line are those of `s`. -/
structure State.TrainKept (n : Line) (s t : State) : Prop where
  asm : t.asm = s.asm
  lost : (t.line n).eventsLost = (s.line n).eventsLost
  dialled : (t.line n).tone.dialled = (s.line n).tone.dialled
  pulses : (t.line n).hook.pulses = (s.line n).hook.pulses
  makeTimer : (t.line n).hook.makeTimer = (s.line n).hook.makeTimer
  dialTimer : (t.line n).hook.dialTimer = (s.line n).hook.dialTimer
  digits : (t.line n).hook.digits = (s.line n).hook.digits

theorem State.TrainKept.refl (n : Line) (s : State) : State.TrainKept n s s := ⟨rfl, rfl, rfl, rfl, rfl, rfl, rfl⟩

theorem State.trainKept_beginBreak (s : State) (n : Line) : State.TrainKept n s (s.beginBreak n) := by
  obtain ⟨hasm, b, y, hy, hline⟩ := s.beginBreak_line n
  exact ⟨hasm, by rw [hline], by rw [hline]; exact hy, by rw [hline], by rw [hline], by rw [hline], by rw [hline]⟩

/-- A due train is completed at a window end; then an open loop begins a break (R104, R108). -/
theorem State.offHookWindow_train (s : State) (n : Line) (due : Bool) :
    State.TrainKept n (if due = true then s.completeTrain n else s) (s.offHookWindow n due) := by
  unfold State.offHookWindow
  dsimp only
  generalize (if due = true then s.completeTrain n else s) = t
  cases (s.line n).loop
  · exact t.trainKept_beginBreak n
  · exact .refl n t

theorem State.offHookWindow_state (s : State) (n : Line) (due : Bool) (h : (s.line n).hook.state = .offHook) :
    ((s.line n).loop = .closed → ((s.offHookWindow n due).line n).hook.state = .offHook) ∧
    ((s.line n).loop = .opened → ((s.offHookWindow n due).line n).hook.state = .brk ∧ ((s.offHookWindow n due).line n).hook.breakTimer = some 0) := by
  have htrain : ((if due = true then s.completeTrain n else s).line n).hook.state = .offHook := by
    split
    · obtain ⟨-, hstate, -⟩ := s.completeTrain_hook n
      exact hstate.trans h
    · exact h
  unfold State.offHookWindow
  dsimp only
  refine ⟨fun hclosed => by rw [hclosed]; exact htrain, fun hopen => ?_⟩
  obtain ⟨-, b, y, -, hline⟩ := (if due = true then s.completeTrain n else s).beginBreak_line n
  rw [hopen]
  dsimp only
  rw [hline]
  exact ⟨rfl, rfl⟩

/-- A train in progress whose make timer stands at `d` (R108). -/
theorem State.trainDue_iff (hp : (s.line n).hook.pulses ≠ 0) {d : Nat} (hd : (s.line n).hook.makeTimer = some d) :
    s.trainDue n = true ↔ 8 * s.params.timing.interdigit ≤ d := by
  unfold State.trainDue
  dsimp only
  rw [hd]
  simp only [HookRecord.inTrain, bne_iff_ne.2 hp, eighths, Bool.true_and]
  exact decide_eq_true_iff

end Sys2Proof.Machine
end

section
/-! SUPPORT. The turn of an IDLE line at a window end, in terms of its hook record, train and reports: O43. -/

namespace Sys2Proof.Machine

open Sys2Proof.Claims

variable {s t u : State} {n m : Line} {w : Nat} {x : Option Loop}

/-! ### An IDLE line's turn -/

theorem State.idle_onLine {f : LineState → LineState} (h : s.ring n = .idle) (hf : (f (s.line n)).ring = (s.line n).ring) : (s.onLine n f).ring n = .idle := by
  unfold State.ring
  rw [State.line_onLine_same, hf]
  exact h

theorem State.idle_handEvent (h : s.ring n = .idle) (e : Event) : (s.handEvent n e).ring n = .idle := (s.handEvent_parts n e n).1.trans h

/-- An IDLE line with these last three raw states. -/
structure State.IdleWith (n : Line) (r : RawStates) (t : State) : Prop where
  idle : t.ring n = .idle
  raw : (t.line n).hook.raw = r

theorem State.keptByPass_idle (n : Line) (r : RawStates) : State.KeptByPass n (State.IdleWith n r) where
  onLine {t f} hf h := ⟨State.idle_onLine h.idle (hf _).1, by rw [State.line_onLine_same, (hf _).2.2]; exact h.raw⟩
  event {t e} h := ⟨State.idle_handEvent h.idle e, by rw [State.handEvent_hook]; exact h.raw⟩
  digits {t} h := by
    obtain ⟨-, -, -, -, -, -, -, hraw, -⟩ := State.takeDigitList_hook true n n (t.line n).hook.digits t
    exact ⟨(t.takeDigits_parts true n n).1.trans h.idle, hraw.trans h.raw⟩

theorem State.sensed_idle (h : s.ring n = .idle) : (s.sensed n w).ring n = .idle := State.idle_onLine (f := fun l => l.senseWindow s.params w) h rfl

/-- The supervisor's pass leaves an IDLE line IDLE, a raw state entered where it is not PARKED (R99). -/
theorem State.passed_idle (h : s.ring n = .idle) (w : Nat) : (s.passed n w).ring n = .idle ∧
    ((s.line n).hook.mode ≠ .parked → ((s.passed n w).line n).hook.raw = (s.line n).hook.raw.enter (s.rawOf n w)) := by
  have hmode : ((s.sensed n w).line n).hook.mode = (s.line n).hook.mode := by rw [State.sensed_line]; rfl
  by_cases hm : (s.line n).hook.mode = .parked
  · refine ⟨?_, fun hno => absurd hm hno⟩
    unfold State.passed State.superviseWindow
    rw [if_pos (hmode.trans hm)]
    exact State.sensed_idle h
  · have hadvanced : State.IdleWith n ((s.line n).hook.raw.enter (s.rawOf n w)) ((s.sensed n w).advanced n w (s.rawOf n w)) := by
      refine ⟨State.idle_onLine (f := fun l => { l with hook := { l.hook.advance w with raw := l.hook.raw.enter (s.rawOf n w) } })
        (State.sensed_idle h) rfl, ?_⟩
      rw [State.advanced_line, State.sensed_line]
      rfl
    have hpassed : State.IdleWith n ((s.line n).hook.raw.enter (s.rawOf n w)) (s.passed n w) :=
      (State.keptByPass_idle n _).superviseWindow (fun _ ha => (State.keptByPass_idle n _).confirmSeizure ha.idle ha)
        (fun hparked => absurd (hmode.symm.trans hparked) hm) fun _ => hadvanced
    exact ⟨hpassed.idle, fun _ => hpassed.raw⟩

/-- The supervisor's pass, and the event of the leak flag's turn after it (R93, R94). -/
def State.leakTold (s : State) (n : Line) (w : Nat) : State :=
  if s.LeakReached n w then (s.passed n w).handEvent n (if (s.line n).sense.leakFlag = true then .leakOff else .leakOn) else s.passed n w

/-- The turn of an IDLE line is that, but for its sense record. -/
theorem State.windowEndOf_idle (h : s.ring n = .idle) (w : Nat) : ∃ f : SenseRecord → SenseRecord,
    State.windowEndOf w s n = (s.leakTold n w).onLine n fun l => { l with sense := f l.sense } := by
  have hstands : ∀ t : State, t = t.onLine n fun l => { l with sense := l.sense } := fun t => (t.setLine_line n).symm
  have htripped : ∃ f : SenseRecord → SenseRecord, s.tripped n w = (s.passed n w).onLine n fun l => { l with sense := f l.sense } := by
    unfold State.tripped
    split
    · have hcounted : ((s.passed n w).onLine n fun l => { l with sense := { l.sense with tripRun := 0 } }).ring n = .idle :=
        State.idle_onLine (State.passed_idle h w).1 rfl
      exact ⟨fun y => { y with tripRun := 0 }, State.takeTrip_of_idle _ n hcounted⟩
    · exact ⟨id, hstands _⟩
  obtain ⟨f, hf⟩ := htripped
  rw [State.windowEndOf_eq, State.leakTold]
  by_cases hleak : s.LeakReached n w
  · refine ⟨fun y => { f y with leakFlag := !(s.line n).sense.leakFlag, leakCount := 0 }, ?_⟩
    rw [if_pos hleak, if_pos hleak]
    refine Eq.trans ?_ (State.handEvent_onSense (s.passed n w) n _ fun y => { f y with leakFlag := !(s.line n).sense.leakFlag, leakCount := 0 })
    rw [hf]
    unfold State.turnLeak
    rw [State.onLine_onLine]
    cases (s.line n).sense.leakFlag <;> rfl
  · exact ⟨f, by rw [if_neg hleak, if_neg hleak, hf]⟩

theorem State.leakTold_hook (s : State) (n : Line) (w : Nat) : ((s.leakTold n w).line n).hook = ((s.passed n w).line n).hook := by
  unfold State.leakTold
  split
  · exact State.handEvent_hook _ n n _
  · rfl

theorem State.leakTold_idle (h : s.ring n = .idle) : (s.leakTold n w).ring n = .idle := by
  unfold State.leakTold
  split
  · exact State.idle_handEvent (State.passed_idle h w).1 _
  · exact (State.passed_idle h w).1

/-! ### The hook state after the pass -/

theorem State.confirmSeizure_hook (h : s.ring n = .idle) : ((s.confirmSeizure n).line n).hook =
    { (s.line n).hook with state := .offHook, seizeTimer := none, dialTimer := some 0 } := by
  unfold State.confirmSeizure
  rw [h]
  simp only [RingRecord.isIdle, if_true]
  unfold State.toneAtSeizure State.onTone State.onHook
  rw [State.line_onLine_same, State.line_onLine_same, State.handEvent_hook, State.line_onLine_same]

/-- Line `n` before its pass: sensed, its raw state entered and its timers moved on. -/
def State.readied (s : State) (n : Line) (w : Nat) : State := (s.sensed n w).advanced n w (s.rawOf n w)

theorem State.readied_hook (s : State) (n : Line) (w : Nat) : ((s.readied n w).line n).hook =
    { (s.line n).hook.advance w with raw := (s.line n).hook.raw.enter (s.rawOf n w) } := by
  unfold State.readied
  rw [State.advanced_line, State.sensed_line]
  rfl

section Pass

variable (hm : (s.line n).hook.mode ≠ .parked)
include hm

theorem State.sensed_mode : ((s.sensed n w).line n).hook.mode ≠ .parked := by rw [State.sensed_line]; exact hm

theorem State.passed_onHook (h : (s.line n).hook.state = .onHook) (w : Nat) :
    (Majority ((s.line n).hook.raw.enter (s.rawOf n w)) .opened → s.passed n w = s.readied n w) ∧
    (Majority ((s.line n).hook.raw.enter (s.rawOf n w)) .closed → s.passed n w = (s.readied n w).beginSeizing n) := by
  have hpass := State.superviseWindow_onHook (s := s.sensed n w) (w := w) (x := s.rawOf n w) (State.sensed_mode hm) (by rw [State.sensed_line]; exact h)
  rw [State.sensed_line] at hpass
  exact hpass

theorem State.passed_seizing (h : (s.line n).hook.state = .seizing) (w : Nat) :
    (Majority ((s.line n).hook.raw.enter (s.rawOf n w)) .opened → s.passed n w = (s.readied n w).failSeizure n) ∧
    ∀ d : Nat, (s.line n).hook.seizeTimer = some d → Majority ((s.line n).hook.raw.enter (s.rawOf n w)) .closed →
      (8 * s.params.timing.seizeConfirm ≤ d + w → s.passed n w = (s.readied n w).confirmSeizure n) ∧
      (d + w < 8 * s.params.timing.seizeConfirm → s.passed n w = s.readied n w) := by
  have hpass := State.superviseWindow_seized (s := s.sensed n w) (w := w) (x := s.rawOf n w) (State.sensed_mode hm) (by rw [State.sensed_line]; exact h)
  rw [State.sensed_line] at hpass
  exact hpass

theorem State.passed_offHook (h : (s.line n).hook.state = .offHook) (w : Nat) :
    s.passed n w = (s.readied n w).offHookWindow n ((s.readied n w).trainDue n) :=
  State.superviseWindow_offHook (s := s.sensed n w) (State.sensed_mode hm) (by rw [State.sensed_line]; exact h)

theorem State.passed_brk (h : (s.line n).hook.state = .brk) {d : Nat} (hd : (s.line n).hook.breakTimer = some d) (w : Nat) :
    s.passed n w = (s.readied n w).breakWindow n (d + w) :=
  State.superviseWindow_brk (s := s.sensed n w) (State.sensed_mode hm) (by rw [State.sensed_line]; exact h) (by rw [State.sensed_line]; exact hd)

end Pass

theorem State.readied_loop {y : Loop} (h : Majority ((s.line n).hook.raw.enter (s.rawOf n w)) y) : ((s.readied n w).line n).loop = y := by
  unfold LineState.loop
  rw [State.readied_hook]
  exact (RawStates.majority_iff_debounced _ _).1 h

end Sys2Proof.Machine
end

section
/-! SUPPORT. Hook state and train of an IDLE line after a window end: O43. -/

namespace Sys2Proof.Machine

open Sys2Proof.Claims

variable {s t u : State} {n m : Line} {w : Nat}

/-! ### The hook state -/

/-- The hook record `k` after a window of `w`, the line having had the record `h` with the raw states `r` now (R99 to R108). -/
def HookAfter (T : TimingParams) (w : Nat) (h : HookRecord) (r : RawStates) (k : HookRecord) : Prop :=
  (h.state = .onHook → Majority r .opened → k.state = .onHook) ∧
  (h.state = .onHook → Majority r .closed → k.state = .seizing ∧ k.seizeTimer = some 0) ∧
  (h.state = .seizing → Majority r .opened → k.state = .onHook ∧ k.seizeTimer = none) ∧
  (∀ d : Nat, h.state = .seizing → h.seizeTimer = some d → Majority r .closed → d + w < 8 * T.seizeConfirm →
    k.state = .seizing ∧ k.seizeTimer = some (d + w)) ∧
  (∀ d : Nat, h.state = .seizing → h.seizeTimer = some d → Majority r .closed → 8 * T.seizeConfirm ≤ d + w →
    k.state = .offHook ∧ k.seizeTimer = none ∧ k.dialTimer = some 0) ∧
  (h.state = .offHook → Majority r .closed → k.state = .offHook) ∧
  (h.state = .offHook → Majority r .opened → k.state = .brk ∧ k.breakTimer = some 0) ∧
  (∀ d : Nat, h.state = .brk → h.breakTimer = some d → ¬ 8 * T.flashMax < d + w → Majority r .opened →
    k.state = .brk ∧ k.breakTimer = some (d + w)) ∧
  (∀ d : Nat, h.state = .brk → h.breakTimer = some d → ¬ 8 * T.flashMax < d + w → Majority r .closed →
    k.state = .offHook ∧ k.breakTimer = none) ∧
  (∀ d : Nat, h.state = .brk → h.breakTimer = some d → 8 * T.flashMax < d + w → Majority r .opened → k.state = .onHook ∧ k.mode = .free) ∧
  (∀ d : Nat, h.state = .brk → h.breakTimer = some d → 8 * T.flashMax < d + w → Majority r .closed →
    k.state = .seizing ∧ k.mode = .free ∧ k.seizeTimer = some 0)

/-- A break goes on, ends or is cleared. -/
theorem State.passed_break (hm : (s.line n).hook.mode ≠ .parked) {d : Nat} (hstate : (s.line n).hook.state = .brk)
    (hd : (s.line n).hook.breakTimer = some d) (w : Nat) :
    let k := ((s.passed n w).line n).hook
    let r := (s.line n).hook.raw.enter (s.rawOf n w)
    (d + w ≤ 8 * s.params.timing.flashMax → Majority r .opened → k.state = .brk ∧ k.breakTimer = some (d + w)) ∧
    (d + w ≤ 8 * s.params.timing.flashMax → Majority r .closed → k.state = .offHook ∧ k.breakTimer = none) ∧
    (8 * s.params.timing.flashMax < d + w → Majority r .opened → k.state = .onHook ∧ k.mode = .free) ∧
    (8 * s.params.timing.flashMax < d + w → Majority r .closed → k.state = .seizing ∧ k.mode = .free ∧ k.seizeTimer = some 0) := by
  have hready := s.readied_hook n w
  obtain ⟨hon, hends, hclear, hagain⟩ := (s.readied n w).breakWindow_hook n (d + w) (by rw [hready]; exact hstate)
    (by rw [hready]; exact congrArg (Option.map (· + w)) hd)
  rw [State.passed_brk hm hstate hd w]
  exact ⟨fun h hr => hon h (State.readied_loop hr), fun h hr => hends h (State.readied_loop hr), fun h hr => hclear h (State.readied_loop hr),
    fun h hr => hagain h (State.readied_loop hr)⟩

/-- The hook record that the supervisor's pass leaves an IDLE line. -/
theorem State.passed_hook (hidle : s.ring n = .idle) (hm : (s.line n).hook.mode ≠ .parked) (w : Nat) :
    HookAfter s.params.timing w (s.line n).hook ((s.line n).hook.raw.enter (s.rawOf n w)) ((s.passed n w).line n).hook := by
  have hready := s.readied_hook n w
  refine ⟨fun h hr => ?_, fun h hr => ?_, fun h hr => ?_, fun d h hd hr hlt => ?_, fun d h hd hr hge => ?_, fun h hr => ?_, fun h hr => ?_,
    fun d h hd hnot hr => (State.passed_break hm h hd w).1 (Nat.not_lt.1 hnot) hr,
    fun d h hd hnot hr => (State.passed_break hm h hd w).2.1 (Nat.not_lt.1 hnot) hr,
    fun d h hd hlate hr => (State.passed_break hm h hd w).2.2.1 hlate hr,
    fun d h hd hlate hr => (State.passed_break hm h hd w).2.2.2 hlate hr⟩
  · rw [(State.passed_onHook hm h w).1 hr, hready]
    exact h
  · rw [(State.passed_onHook hm h w).2 hr, State.beginSeizing, State.onHook, State.line_onLine_same]
    exact ⟨rfl, rfl⟩
  · rw [(State.passed_seizing hm h w).1 hr, State.failSeizure, State.onHook, State.line_onLine_same]
    exact ⟨rfl, rfl⟩
  · rw [((State.passed_seizing hm h w).2 d hd hr).2 hlt, hready]
    exact ⟨h, congrArg (Option.map (· + w)) hd⟩
  · have hready_idle : (s.readied n w).ring n = .idle :=
      State.idle_onLine (f := fun l => { l with hook := { l.hook.advance w with raw := l.hook.raw.enter (s.rawOf n w) } }) (State.sensed_idle hidle) rfl
    rw [((State.passed_seizing hm h w).2 d hd hr).1 hge, State.confirmSeizure_hook hready_idle]
    exact ⟨rfl, rfl, rfl⟩
  · obtain ⟨hclosed, -⟩ := (s.readied n w).offHookWindow_state n ((s.readied n w).trainDue n) (by rw [hready]; exact h)
    rw [State.passed_offHook hm h w]
    exact hclosed (State.readied_loop hr)
  · obtain ⟨-, hopen⟩ := (s.readied n w).offHookWindow_state n ((s.readied n w).trainDue n) (by rw [hready]; exact h)
    rw [State.passed_offHook hm h w]
    exact hopen (State.readied_loop hr)

/-! ### The train -/

/-- A train in progress counts on, or is completed where it is due (R100, R107, R108). -/
theorem State.passed_train (hm : (s.line n).hook.mode ≠ .parked) (hstate : (s.line n).hook.state = .offHook) {d : Nat}
    (hd : (s.line n).hook.makeTimer = some d) (hp : (s.line n).hook.pulses ≠ 0) (w : Nat) :
    let h := (s.line n).hook
    let t := s.passed n w
    (d + w < 8 * s.params.timing.interdigit → (t.line n).hook.pulses = h.pulses ∧ (t.line n).hook.makeTimer = some (d + w)) ∧
    (8 * s.params.timing.interdigit ≤ d + w →
      (t.line n).hook.pulses = 0 ∧ (t.line n).hook.makeTimer = none ∧
      (h.pulses ≤ 10 → (t.line n).hook.dialTimer = none ∧ (t.line n).tone.dialled = true) ∧
      (h.pulses ≤ 10 → h.digits.length < 16 → queuedDigits n t.asm.queue ++ (t.line n).hook.digits =
        queuedDigits n s.asm.queue ++ h.digits ++ [Fin.ofNat 10 h.pulses]) ∧
      (11 ≤ h.pulses → Told n (.digitError h.pulses) t)) := by
  have hready := s.readied_hook n w
  have hpulses : ((s.readied n w).line n).hook.pulses = (s.line n).hook.pulses := by rw [hready]; rfl
  have hdigits : ((s.readied n w).line n).hook.digits = (s.line n).hook.digits := by rw [hready]; rfl
  have htimer : ((s.readied n w).line n).hook.makeTimer = some (d + w) := by rw [hready]; exact congrArg (Option.map (· + w)) hd
  have hdue : (s.readied n w).trainDue n = true ↔ 8 * s.params.timing.interdigit ≤ d + w := State.trainDue_iff (by rw [hpulses]; exact hp) htimer
  have hkept := (s.readied n w).offHookWindow_train n ((s.readied n w).trainDue n)
  rw [State.passed_offHook hm hstate w]
  generalize (s.readied n w).offHookWindow n ((s.readied n w).trainDue n) = t at hkept ⊢
  refine ⟨fun hlt => ?_, fun hge => ?_⟩
  · rw [if_neg fun h => absurd (hdue.1 h) (by omega)] at hkept
    exact ⟨hkept.pulses.trans hpulses, hkept.makeTimer.trans htimer⟩
  · rw [if_pos (hdue.2 hge)] at hkept
    obtain ⟨-, -, -, -, -, hnone, hstopped⟩ := (s.readied n w).completeTrain_hook n
    obtain ⟨hdial, horder, herror⟩ := (s.readied n w).completeTrain_spec n
    rw [hpulses] at hdial horder herror
    rw [hdigits] at horder
    refine ⟨hkept.pulses.trans hnone, hkept.makeTimer.trans hstopped, fun hle => ?_, fun hle hroom => ?_, fun hmany => ?_⟩
    · obtain ⟨htimer, hflag⟩ := hdial hle
      exact ⟨hkept.dialTimer.trans htimer, hkept.dialled.trans hflag⟩
    · rw [hkept.asm, hkept.digits]
      exact horder hle hroom
    · refine (herror hmany).imp (fun hq => ?_) fun hl => hkept.lost.trans hl
      rw [hkept.asm]
      exact hq

end Sys2Proof.Machine
end

section
/-! SUPPORT. WINDOW_END moves the hook state: O43. -/

namespace Sys2Proof.Machine

open Sys2Proof.Claims

variable {s t u : State} {n m : Line} {w : Nat}

/-! ### A line's turn among the others' -/

/-- The raw state of a window whose class the others have left (R87, R88, R99). -/
theorem State.rawEntered (h : State.TurnOf n s u) (hrelay : (u.line n).relay = (s.line n).relay) (w : Nat) :
    RawEntered s.params.threshold (s.line n) (s.reading n w) ((u.line n).hook.raw.enter (u.rawOf n w)) := by
  have hraw : u.rawOf n w = rawLoop s.params.threshold (s.line n).relay.windowClass (s.reading n w) := by
    unfold State.rawOf
    rw [hrelay, h.params, h.sense]
    rfl
  rw [hraw, h.hook]
  unfold RawStates.enter
  refine ⟨rfl, rfl, fun hf hhigh => ?_, fun hf hlow hoff => ?_, fun hf hon hoff => ?_, fun hno => ?_⟩
  · dsimp only
    rw [RelayRecord.windowClass_feed.2 hf, rawLoop, if_pos hhigh]
    rfl
  · dsimp only
    rw [RelayRecord.windowClass_feed.2 hf, rawLoop, if_neg (by omega), if_pos hlow]
    rfl
  · dsimp only
    rw [RelayRecord.windowClass_feed.2 hf, rawLoop, if_neg (by omega), if_neg (by omega)]
    rfl
  · dsimp only
    cases hk : (s.line n).relay.windowClass with
    | feed => exact absurd (RelayRecord.windowClass_feed.1 hk) hno
    | ring => rfl
    | blanked => rfl

/-- What stands of an IDLE line before its own pass. -/
theorem State.lineStands_sensed (h : s.windowBegun.OthersTaken n u) (hidle : s.ring n = .idle) (w : Nat) : LineStands n s (u.sensed n w) := by
  have hbegun : LineStands n s s.windowBegun := ⟨rfl, hidle, rfl, rfl, rfl, rfl, Nat.le_refl _, .inl rfl⟩
  have hothers : LineStands n s.windowBegun u := h.lineStands hidle
  obtain ⟨-, hturn, -⟩ := id hothers
  exact lineStands_trans (lineStands_trans hbegun hothers) (State.lineStands_onLine (f := fun l => l.senseWindow u.params w) hturn fun _ => ⟨rfl, rfl, rfl, rfl⟩)

/-- What stands of an IDLE line after its own pass and the event of its leak flag. -/
theorem State.lineStands_told (h : (State.windowEndOf w u n).OthersTaken n t) (hidle : u.ring n = .idle) : LineStands n (u.leakTold n w) t := by
  obtain ⟨f, hf⟩ := State.windowEndOf_idle hidle w
  rw [hf] at h
  have htold := State.leakTold_idle (w := w) hidle
  exact lineStands_trans (State.lineStands_onLine (f := fun l => { l with sense := f l.sense }) htold fun _ => ⟨rfl, rfl, rfl, rfl⟩) (h.lineStands (State.idle_onLine htold rfl))

theorem State.leakTold_ineligible (h : State.TurnOf n s u) (hno : ¬ Eligible (s.line n)) (w : Nat) : u.leakTold n w = u.passed n w :=
  if_neg fun hreached => by
    have hreached : 250 ≤ u.leakAfter n w := hreached
    have hnone := h.leak_ineligible hno w
    omega

/-! ### PARKED lines -/

theorem State.windowEnd_parked (hserves : s.serves n = true) (hidle : s.ring n = .idle) (hparked : (s.line n).hook.mode = .parked) :
    LineStands n s (s.run .windowEnd) := by
  obtain ⟨hs, hn⟩ := State.phase_of_serves hserves
  obtain ⟨u, hbefore, hafter⟩ := State.windowEnd_turn hs hn
  have hturn := hbefore.turnOf
  have hstands := State.lineStands_told hafter (hturn.idle.2 hidle)
  have hpassed : u.passed n (lengthOf s.sense.dither) = u.sensed n (lengthOf s.sense.dither) :=
    if_pos (by rw [State.sensed_line]; exact (congrArg HookRecord.mode hturn.hook).trans hparked)
  rw [State.leakTold_ineligible hturn (fun he => he.2.2 hparked), hpassed] at hstands
  exact lineStands_trans (State.lineStands_sensed hbefore hidle _) hstands

/-! ### IDLE lines -/

/-- A train as it stood after the line's own pass, at the window's end. -/
theorem State.trainCounted (hidle : s.ring n = .idle) (hbefore : s.windowBegun.OthersTaken n u) (hm : (u.line n).hook.mode ≠ .parked)
    (htold : LineStands n (u.leakTold n (lengthOf s.sense.dither)) t) : TrainCounted s n t := by
  intro d hstate hd hp
  have hturn := hbefore.turnOf
  have hnot : ¬ Eligible (s.line n) := fun he => by
    obtain ⟨honHook, -⟩ := he
    rw [show (s.line n).hook.state = .offHook from hstate] at honHook
    cases honHook
  obtain ⟨-, -, -, -, hqueued, -⟩ := State.lineStands_sensed hbefore hidle 0
  have hqueued : queuedDigits n u.asm.queue = queuedDigits n s.asm.queue := hqueued
  rw [State.leakTold_ineligible hturn hnot] at htold
  obtain ⟨-, -, hhook, hlost, hdigits, hevents, -, htone⟩ := htold
  have huntold : (u.passed n (lengthOf s.sense.dither)).Untold n t := ⟨hlost, hdigits, hevents, htone⟩
  have hdialled : (t.line n).tone.dialled = ((u.passed n (lengthOf s.sense.dither)).line n).tone.dialled := by
    rcases htone with h | ⟨-, h⟩ <;> rw [h]
  obtain ⟨hcounts, hcompletes⟩ := State.passed_train hm (by rw [hturn.hook]; exact hstate) (by rw [hturn.hook]; exact hd) (by rw [hturn.hook]; exact hp)
    (lengthOf s.sense.dither)
  rw [hturn.params, hturn.hook] at hcounts hcompletes
  rw [hhook, hdigits, hdialled]
  refine ⟨hcounts, fun hlong => ?_⟩
  obtain ⟨hnone, hstopped, hdial, horder, herror⟩ := hcompletes hlong
  rw [hqueued] at horder
  exact ⟨hnone, hstopped, hdial, horder, fun hmany => told_of_untold (herror hmany) huntold⟩

/-- Whoever has had a turn, the lines in use are served. -/
theorem State.OthersTaken.serves (h : s.windowBegun.OthersTaken n u) : u.serves m = s.serves m := by
  have hframe := h.frame
  unfold State.LinesWorked at hframe
  rw [hframe]
  rfl

/-- The rules of the hook state, on a line before its own pass (R99 to R108). -/
theorem State.passed_moved (hserves : u.serves n = true) (hm : (u.line n).hook.mode ≠ .parked) (w : Nat) :
    HookMoved (Advanced (u.sensed n w) n ((u.line n).hook.raw.enter (u.rawOf n w)) w) n (u.passed n w) := by
  have hmoved := State.superviseWindow_moved (u.sensed n w) n w (u.rawOf n w) hserves (State.sensed_mode hm)
  rw [State.sensed_line] at hmoved
  exact hmoved

/-- The turn of the leak flag, after the supervisor's pass (R93, R94). -/
theorem State.leakTold_turned (h : State.TurnOf n s u) (g : (State.windowEndOf w u n).OthersTaken n t) :
    ((t.line n).sense.leakFlag = (s.line n).sense.leakFlag → u.leakTold n w = u.passed n w) ∧
    ((t.line n).sense.leakFlag ≠ (s.line n).sense.leakFlag →
      Handed (u.passed n w) n (if (s.line n).sense.leakFlag = true then .leakOff else .leakOn) (u.leakTold n w)) := by
  obtain ⟨hbelow, hreached⟩ := State.windowEnd_leak h g
  refine ⟨fun hsame => if_neg fun hover => ?_, fun hturned => ?_⟩
  · obtain ⟨-, hflag⟩ := hreached hover
    rw [hsame] at hflag
    cases hold : (s.line n).sense.leakFlag <;> rw [hold] at hflag <;> cases hflag
  · have hover : u.LeakReached n w := Nat.not_lt.1 fun hlow => hturned (hbelow hlow).2
    unfold State.leakTold
    rw [if_pos hover, h.sense]
    exact State.handEvent_handed _ n _

/-- What O43 says of an IDLE line that is not PARKED. -/
theorem State.windowEnd_idle (hserves : s.serves n = true) (hidle : s.ring n = .idle) (hm : (s.line n).hook.mode ≠ .parked) :
    let l := s.line n
    let t := s.run .windowEnd
    let w := lengthOf s.sense.dither
    ∃ r : RawStates, t.ring n = .idle ∧ TrainCounted s n t ∧ RawEntered s.params.threshold l (readingOf l.sense.counter w) r ∧ (t.line n).hook.raw = r ∧
      (∃ u v z : State, LineStands n s u ∧ HookMoved (Advanced u n r w) n v ∧
        ((t.line n).sense.leakFlag = l.sense.leakFlag → z = v) ∧
        ((t.line n).sense.leakFlag ≠ l.sense.leakFlag → Handed v n (if l.sense.leakFlag = true then .leakOff else .leakOn) z) ∧
        LineStands n z t) ∧
      HookAfter s.params.timing w l.hook r (t.line n).hook := by
  intro l t w
  obtain ⟨hs, hn⟩ := State.phase_of_serves hserves
  obtain ⟨u, hbefore, hafter⟩ := State.windowEnd_turn hs hn
  have hturn := hbefore.turnOf
  have huidle := hturn.idle.2 hidle
  have hum : (u.line n).hook.mode ≠ .parked := by rw [hturn.hook]; exact hm
  have htold : LineStands n (u.leakTold n w) t := State.lineStands_told hafter huidle
  obtain ⟨-, htidle, hthook, -⟩ := id htold
  rw [State.leakTold_hook] at hthook
  have hhook : HookAfter s.params.timing w (s.line n).hook ((u.line n).hook.raw.enter (u.rawOf n w)) ((u.passed n w).line n).hook := by
    rw [← hturn.params, ← hturn.hook]
    exact State.passed_hook huidle hum w
  obtain ⟨hkept, hturned⟩ := State.leakTold_turned hturn hafter
  exact ⟨_, htidle, State.trainCounted hidle hbefore hum htold, State.rawEntered hturn (hturn.silent (by rw [hidle]; rfl)) w,
    by rw [hthook]; exact (State.passed_idle huidle w).2 hum,
    ⟨u.sensed n w, u.passed n w, u.leakTold n w, State.lineStands_sensed hbefore hidle w,
      State.passed_moved (hbefore.serves.trans hserves) hum w, hkept, hturned, htold⟩, by rw [hthook]; exact hhook⟩

end Sys2Proof.Machine
end

section
/-! SUPPORT. The seizure of a line with ring work at a window end: O43. -/

namespace Sys2Proof.Machine

open Sys2Proof.Claims

variable {s t u : State} {n m : Line} {w : Nat}

/-- The place of the trip of a line with ring work (R76). -/
theorem LineState.tripPlace_of_busy {l : LineState} (h : l.ring ≠ .idle) : l.tripPlace =
    some (if l.ring.isRinging = true then if l.relay.position = .ring then .on else .off else .beforeRing) := by
  unfold LineState.tripPlace
  cases hr : l.ring with
  | idle => exact absurd hr h
  | pending o => rfl
  | claiming o p => rfl
  | ringing o p b => rfl

theorem State.readied_stands (s : State) (n : Line) (w : Nat) : State.StandsAt n (s.line n).relay.afterWindow (s.ring n) (s.readied n w) :=
  (s.sensed_stands n w).onHook fun k => { k.advance w with raw := k.raw.enter (s.rawOf n w) }

/-- A line with ring work, its run not confirmed: its turn is the supervisor's pass. -/
theorem State.windowEndOf_busy (h : u.ring n ≠ .idle) (hrun : ¬ u.RunConfirmed n w) : State.windowEndOf w u n = u.passed n w := by
  have hnone : u.leakAfter n w = 0 := LineState.leakCountAfter_ineligible fun he => h he.2.1
  have hlow : ¬ u.LeakReached n w := fun hreached => by
    have hreached : 250 ≤ u.leakAfter n w := hreached
    omega
  rw [State.windowEndOf_eq, if_neg hlow, State.tripped, if_neg hrun]

/-- A seizure confirmed on a line with ring work: the work ends, and the trip is told (R76, R77, R102). -/
theorem State.confirmSeizure_told (h : s.ring n ≠ .idle) :
    let t := s.confirmSeizure n
    let place : TripPlace := if (s.ring n).isRinging = true then if (s.line n).relay.position = .ring then .on else .off else .beforeRing
    t.ring n = .idle ∧ Told n (.ringTripped place) t ∧ (t.line n).tone.tone = none ∧ (t.line n).hook.raw = ⟨.closed, .closed, .closed⟩ ∧
      (t.line n).hook.state = .offHook ∧ (t.line n).hook.mode = .inCall ∧ (t.line n).hook.seizeTimer = none ∧ (t.line n).hook.dialTimer = none := by
  have hline := s.line_onLine_same n fun l => { l with hook := { l.hook with state := .offHook, seizeTimer := none } }
  have hplace : ((s.onHook n fun h => { h with state := .offHook, seizeTimer := none }).line n).tripPlace =
      some (if (s.ring n).isRinging = true then if (s.line n).relay.position = .ring then .on else .off else .beforeRing) := by
    unfold State.onHook
    rw [hline]
    exact LineState.tripPlace_of_busy (l := { s.line n with hook := { (s.line n).hook with state := .offHook, seizeTimer := none } }) h
  have htrip : s.confirmSeizure n = (s.onHook n fun h => { h with state := .offHook, seizeTimer := none }).takeTrip n := by
    refine if_neg ?_
    cases hr : s.ring n <;> simp_all [RingRecord.isIdle]
  obtain ⟨hidle, htold, htone, hhook⟩ := State.takeTrip_told hplace
  rw [htrip]
  exact ⟨hidle, htold, htone, by rw [hhook]; rfl, by rw [hhook], by rw [hhook], by rw [hhook], by rw [hhook]⟩

/-- A pass that leaves the ring work: what stands of the line at the window's end, `f` being the rest of the pass on its hook record. -/
theorem State.seizure_stands (hbusy : u.ring n ≠ .idle) (h : (u.passed n w).OthersTaken n t) {f : HookRecord → HookRecord}
    (hpassed : u.passed n w = (u.readied n w).onHook n f) (hf : ∀ k : HookRecord, (f k).raw = k.raw) :
    (t.ring n ≠ .idle ∧ (t.line n).hook.raw = (u.line n).hook.raw.enter (u.rawOf n w)) ∧
    (t.line n).hook = f { (u.line n).hook.advance w with raw := (u.line n).hook.raw.enter (u.rawOf n w) } := by
  have hhook : (t.line n).hook = f { (u.line n).hook.advance w with raw := (u.line n).hook.raw.enter (u.rawOf n w) } := by
    rw [h.apart.hook, hpassed, State.onHook, State.line_onLine_same]
    dsimp only
    rw [State.readied_hook]
  refine ⟨⟨mt h.apart.idle.1 ?_, by rw [hhook, hf]⟩, hhook⟩
  rw [hpassed, ((u.readied_stands n w).onHook f).ring]
  exact hbusy

theorem State.onHook_id (s : State) (n : Line) : s.onHook n (fun k => k) = s := s.setLine_line n

/-- The seizure of a line with ring work, by its own pass (R76, R101, R102). -/
theorem State.seizure_spec (hbusy : u.ring n ≠ .idle) (hm : (u.line n).hook.mode ≠ .parked) (h : (u.passed n w).OthersTaken n t) :
    let k := (u.line n).hook
    let r := k.raw.enter (u.rawOf n w)
    let place : TripPlace := if (u.ring n).isRinging = true then if (u.line n).relay.position = .ring then .on else .off else .beforeRing
    let stands : Prop := t.ring n ≠ .idle ∧ (t.line n).hook.raw = r
    (k.state = .onHook → Majority r .opened → stands ∧ (t.line n).hook.state = .onHook) ∧
    (k.state = .onHook → Majority r .closed → stands ∧ (t.line n).hook.state = .seizing ∧ (t.line n).hook.seizeTimer = some 0) ∧
    (k.state = .seizing → Majority r .opened → stands ∧ (t.line n).hook.state = .onHook ∧ (t.line n).hook.seizeTimer = none) ∧
    (∀ d : Nat, k.state = .seizing → k.seizeTimer = some d → Majority r .closed → d + w < 8 * u.params.timing.seizeConfirm →
      stands ∧ (t.line n).hook.state = .seizing ∧ (t.line n).hook.seizeTimer = some (d + w)) ∧
    (∀ d : Nat, k.state = .seizing → k.seizeTimer = some d → Majority r .closed → 8 * u.params.timing.seizeConfirm ≤ d + w →
      t.ring n = .idle ∧ (t.line n).hook.raw = ⟨.closed, .closed, .closed⟩ ∧ (t.line n).hook.state = .offHook ∧ (t.line n).hook.mode = .inCall ∧
      (t.line n).hook.seizeTimer = none ∧ (t.line n).hook.dialTimer = none ∧ (t.line n).tone.tone = none ∧ Told n (.ringTripped place) t) := by
  refine ⟨fun hk hr => ?_, fun hk hr => ?_, fun hk hr => ?_, fun d hk hd hr hlt => ?_, fun d hk hd hr hge => ?_⟩
  · obtain ⟨hstands, hhook⟩ := State.seizure_stands hbusy h (((State.passed_onHook hm hk w).1 hr).trans (State.onHook_id _ n).symm) fun _ => rfl
    exact ⟨hstands, by rw [hhook]; exact hk⟩
  · obtain ⟨hstands, hhook⟩ := State.seizure_stands hbusy h ((State.passed_onHook hm hk w).2 hr) fun _ => rfl
    exact ⟨hstands, by rw [hhook], by rw [hhook]⟩
  · obtain ⟨hstands, hhook⟩ := State.seizure_stands hbusy h ((State.passed_seizing hm hk w).1 hr) fun _ => rfl
    exact ⟨hstands, by rw [hhook], by rw [hhook]⟩
  · obtain ⟨hstands, hhook⟩ :=
      State.seizure_stands hbusy h ((((State.passed_seizing hm hk w).2 d hd hr).2 hlt).trans (State.onHook_id _ n).symm) fun _ => rfl
    exact ⟨hstands, by rw [hhook]; exact hk, by rw [hhook]; exact congrArg (Option.map (· + w)) hd⟩
  · have hready := u.readied_stands n w
    have hconfirmed := State.confirmSeizure_told (s := u.readied n w) (n := n) (by rw [hready.ring]; exact hbusy)
    rw [← ((State.passed_seizing hm hk w).2 d hd hr).1 hge, hready.ring, hready.relay] at hconfirmed
    obtain ⟨hidle, htold, htone, hraw, hstate, hmode, hseize, hdial⟩ := hconfirmed
    have huntold := h.apart.untold hidle
    have hhook := h.apart.hook
    refine ⟨h.apart.idle.2 hidle, by rw [hhook]; exact hraw, by rw [hhook]; exact hstate, by rw [hhook]; exact hmode, by rw [hhook]; exact hseize,
      by rw [hhook]; exact hdial, ?_, told_of_untold htold huntold⟩
    rcases huntold.tone with hsame | ⟨hwithheld, -⟩
    · rw [hsame]; exact htone
    · rw [htone] at hwithheld; cases hwithheld

/-- What O43 says of a line with ring work. -/
theorem State.windowEnd_busy (hserves : s.serves n = true) (hbusy : s.ring n ≠ .idle) (hm : (s.line n).hook.mode ≠ .parked) (hsound : s.RingSound)
    (hpos : 0 < s.params.relay.tripConfirm) (hnot : ¬ TripDue s n) : ∃ r : RawStates,
      RawEntered s.params.threshold (s.line n) (readingOf (s.line n).sense.counter (lengthOf s.sense.dither)) r ∧
      RingingLineSeized s n r (s.run .windowEnd) := by
  obtain ⟨hs, hn⟩ := State.phase_of_serves hserves
  obtain ⟨u, hbefore, hafter⟩ := State.windowEnd_turn hs hn
  have hturn := hbefore.turnOf
  obtain ⟨hrelay, hrings⟩ := hturn.stays hsound
  have hubusy : u.ring n ≠ .idle := mt hturn.idle.1 hbusy
  have hrun : ¬ u.RunConfirmed n (lengthOf s.sense.dither) := fun hc => hnot (by
    have hdue := (State.runConfirmed_due (by rw [hturn.params]; exact hpos)).1 hc
    unfold RingWindow at hdue
    rw [hrelay, hturn.params, hturn.reading_eq, hturn.sense] at hdue
    exact hdue)
  rw [State.windowEndOf_busy hubusy hrun] at hafter
  have hseized := State.seizure_spec hubusy (by rw [hturn.hook]; exact hm) hafter
  rw [hrings, hrelay, hturn.params] at hseized
  refine ⟨_, State.rawEntered hturn hrelay _, ?_⟩
  unfold RingingLineSeized
  simp only [State.ringClosed, beq_iff_eq]
  rw [← hturn.hook]
  exact hseized

/-- Settles O43. -/
theorem windowEndMovesTheHookState : Obligations.WindowEndMovesTheHookState := by
  refine ⟨fun s n hserves hidle hparked => ⟨_, State.exec_run .windowEnd s, State.windowEnd_parked hserves hidle hparked⟩,
    fun s n hserves hbusy hm hsched hview hwithin hpos hnot => ?_, fun s n hserves hidle hm => ?_⟩
  · obtain ⟨r, hentered, hseized⟩ := State.windowEnd_busy hserves hbusy hm ⟨hsched, hview, hwithin⟩ hpos hnot
    exact ⟨_, r, State.exec_run .windowEnd s, hentered, hseized⟩
  · obtain ⟨r, htidle, htrain, hentered, hraw, hmoved, hhook⟩ := State.windowEnd_idle hserves hidle hm
    exact ⟨_, r, State.exec_run .windowEnd s, htidle, htrain, hentered, hraw, hmoved, hhook⟩

end Sys2Proof.Machine
end
